-- ==== Sys2Proof/Word.lean ====
section
/-! DEFINITION. The word types of the machine (spec/03 R54, spec/02 R29): registers and memory words are 64 bits,
instruction words 32, register fields 7. -/
namespace Sys2Proof

/-- A register or a memory word (R29). -/
abbrev Word := BitVec 64
/-- The smallest unit of memory (R3). -/
abbrev Byte := BitVec 8
/-- A register field of an instruction word (R56). -/
abbrev Reg := BitVec 7

end Sys2Proof
end

