-- ==== Sys2Proof/Config.lean ====
section
/-! DEFINITION. What the manual leaves to the device: free values, each an opaque constant with no body, and the sizes the
manual fixes. A statement that holds of this model holds for every value of the opaque constants. -/
namespace Sys2Proof.Config

/-- Which of several actions that may happen next does happen next (R187, R209 leave it open). Applied to the
counter `picks`. Log 5. -/
opaque pick : Nat → Nat
/-- Whether an entry of a full translation buffer that could be replaced is (R202: not defined). Log 8. -/
opaque tlbVictim : Nat → Nat
/-- Whether an instruction-cache line once fetched is still held (R15: no size of line, no replacement given). Log 7. -/
opaque icacheHolds : Nat → Bool
/-- Which word of a full instruction cache makes room (R15: no replacement given). Log 7. -/
opaque icacheVictim : Nat → Nat
/-- Ring-oscillator nonce of the election (R381). Log 11. -/
opaque nonce : Nat → BitVec 64
/-- The identity public key of a reticle, twelve words (R388: from the PUF). Log 11. -/
opaque idPub : Nat → Nat → Word
/-- The first 64 bits of SHA-384 of the identity public key of a reticle (R387). Log 11. -/
opaque idHash : Nat → Word
/-- The firmware measurement, six words (R389). Log 11. -/
opaque firmwareMeasure : Nat → Nat → Word
/-- The signature words over a challenge: reticle, challenge words, index (R390). Log 11. -/
opaque signature : Nat → List Word → Nat → Word
/-- 64-byte lines of a DRAM bank at a channel core beyond its first (R399: set by the device). Log 11. -/
opaque bankMore : Nat → BitVec 31
/-- 64-byte lines of a DRAM bank at a channel core: at least one (R399). Log 11. -/
def bankLines (c : Nat) : Nat := 1 + (bankMore c).toNat
/-- Address of the first byte of line `n` of a DRAM bank: the channel core, the register that names the bank (R399: the device's layout).
Log 11. -/
opaque bankAddr : Nat → Word → Nat → Nat
/-- The module number in the signed module configuration (R386). Log 11. -/
opaque moduleNumber : Nat
/-- The mesh links, as a core and a direction, that a packet crosses from one core to another (R17): fixed by the two and by the failed routers and
the passes that Watershed publishes, here the words of the topology table that hold them. Log 63. -/
opaque hops : List Word → Nat → Nat → List (Nat × Nat)
/-- The core whose place a node of the drainage tree shares, by its code (R272). Log 63. -/
opaque nodeSite : Nat → Nat
/-- ADDR of a log entry for a word of a rim core's private bank, which has no physical address (R18, R363). Log 63. -/
opaque rimAddr : Nat → Word
/-- A value that the manual does not state, or a word of memory outside this module; applied to the counter `picks`. Log 13. -/
opaque freeWord : Nat → Word

/-- Slots of a core (R14). -/
def slotsPerCore : Nat := 64
/-- Entries shared by slots 0 to 62 (R29). -/
def sharedEntries : Nat := 2016
/-- Bytes of tile SRAM (R12). -/
def sramBytes : Nat := 0x300000
/-- First byte of the save ring of a tile (R51). -/
def ringLo : Nat := 0x2B0000
/-- First byte after the save ring (R51). -/
def ringHi : Nat := 0x2C0000
/-- Packets in a save ring (R51). -/
def ringPackets : Nat := 256
/-- Entries of the wait-list pool of a core (R226). -/
def waitPool : Nat := 256
/-- Holds of a tile scoreboard (R219). -/
def holdPool : Nat := 32
/-- Entries of a translation buffer (R202). -/
def tlbEntries : Nat := 512
/-- Walkers of a reticle (R202). -/
def walkers : Nat := 8
/-- Member states, and child entries, of a core (R308, R309). -/
def memberPool : Nat := 256
/-- Entries of a drainage table at each level (R272). -/
def drainEntries : Nat := 16
/-- Entries of the load-value queue of a pair (R374). -/
def lvqEntries : Nat := 32
/-- Words of an instruction cache of 32 KiB (R12). -/
def icacheWords : Nat := 8192
/-- Requests the firmware queue holds (R345). -/
def hcallQueue : Nat := 16
/-- cc in a step (R2). -/
def stepCc : Nat := 280
/-- The module's limit on the sum of basin budgets (R24). -/
def budgetSum : Nat := 24500
/-- Combine entries of a confluence node (R195). -/
def combineEntries : Nat := 16

end Sys2Proof.Config
end

