-- ==== Sys2Proof/Syntax.lean ====
section
/-! DEFINITION. The operations and events of the machine: one constructor of `Instr` for each row of spec/opcode_table.json.
185 are instructions, which programs hold as words (spec/03). The other 127 are events: a message reaching a home, a count running
out, an input from outside. What an event carries stands in the state, as the context that issues an instruction does
(Sys2Proof/Payload.lean, `State.ev`). -/
namespace Sys2Proof

/-- The operations and events of the machine, one for each row of the table. -/
inductive Instr
  /-- R133 Writes the 64-bit wrapped sum of x[a] and x[b] to x[d]. -/
  | add (d : Reg) (a : Reg) (b : Reg)
  /-- R133 Writes the 64-bit wrapped difference x[a] minus x[b] to x[d]. -/
  | sub (d : Reg) (a : Reg) (b : Reg)
  /-- R133 Writes the bitwise AND of x[a] and x[b] to x[d]. -/
  | and (d : Reg) (a : Reg) (b : Reg)
  /-- R133 Writes the bitwise OR of x[a] and x[b] to x[d]. -/
  | or (d : Reg) (a : Reg) (b : Reg)
  /-- R133 Writes the bitwise XOR of x[a] and x[b] to x[d]. -/
  | xor (d : Reg) (a : Reg) (b : Reg)
  /-- R133 Writes x[a] AND NOT x[b] to x[d]. -/
  | andn (d : Reg) (a : Reg) (b : Reg)
  /-- R133 Shifts x[a] left by x[b][5:0] bits. -/
  | shl (d : Reg) (a : Reg) (b : Reg)
  /-- R133 Shifts x[a] right logically by x[b][5:0] bits. -/
  | shr (d : Reg) (a : Reg) (b : Reg)
  /-- R133 Shifts x[a] right arithmetically by x[b][5:0] bits. -/
  | sar (d : Reg) (a : Reg) (b : Reg)
  /-- R133 Rotates x[a] left by x[b][5:0] bits. -/
  | rol (d : Reg) (a : Reg) (b : Reg)
  /-- R133 Writes the signed minimum of x[a] and x[b]. -/
  | min (d : Reg) (a : Reg) (b : Reg)
  /-- R133 Writes the signed maximum of x[a] and x[b]. -/
  | max (d : Reg) (a : Reg) (b : Reg)
  /-- R133 Writes the unsigned minimum of x[a] and x[b]. -/
  | minn (d : Reg) (a : Reg) (b : Reg)
  /-- R133 Writes the unsigned maximum of x[a] and x[b]. -/
  | maxn (d : Reg) (a : Reg) (b : Reg)
  /-- R133 Signed saturating add that raises OV when it clamps. -/
  | adds (d : Reg) (a : Reg) (b : Reg)
  /-- R133 Signed saturating subtract that raises OV when it clamps. -/
  | subs (d : Reg) (a : Reg) (b : Reg)
  /-- R134 Writes the low 64 bits of the product of x[a] and x[b]. -/
  | mul (d : Reg) (a : Reg) (b : Reg)
  /-- R134 Writes the high 64 bits of the signed 128-bit product. -/
  | mulh (d : Reg) (a : Reg) (b : Reg)
  /-- R134 Writes the high 64 bits of the unsigned 128-bit product. -/
  | mulhn (d : Reg) (a : Reg) (b : Reg)
  /-- R134 Signed division truncating towards zero, with the zero-divisor and overflow cases. -/
  | div (d : Reg) (a : Reg) (b : Reg)
  /-- R134 Unsigned division, giving all ones and raising DZ on a zero divisor. -/
  | divn (d : Reg) (a : Reg) (b : Reg)
  /-- R134 Signed remainder that takes the sign of the dividend. -/
  | rem (d : Reg) (a : Reg) (b : Reg)
  /-- R134 Unsigned remainder. -/
  | remn (d : Reg) (a : Reg) (b : Reg)
  /-- R135 Counts the leading zero bits of x[a]. -/
  | clz (d : Reg) (a : Reg)
  /-- R135 Counts the trailing zero bits of x[a]. -/
  | ctz (d : Reg) (a : Reg)
  /-- R135 Counts the one bits of x[a]. -/
  | popc (d : Reg) (a : Reg)
  /-- R135 Reverses the bit order of x[a]. -/
  | brev (d : Reg) (a : Reg)
  /-- R135 Reverses the byte order of x[a]. -/
  | bswap (d : Reg) (a : Reg)
  /-- R136 Extracts a bit field described by x[b] and sign-extends it. -/
  | bfx (d : Reg) (a : Reg) (b : Reg)
  /-- R136 Extracts a bit field described by x[b] and zero-extends it. -/
  | bfxn (d : Reg) (a : Reg) (b : Reg)
  /-- R136 Inserts the low bits of x[a] into a field of x[d]. -/
  | bfi (d : Reg) (a : Reg) (b : Reg)
  /-- R137 Adds a sign-extended 12-bit immediate to x[a]. -/
  | addi (d : Reg) (a : Reg) (imm : BitVec 12)
  /-- R137 ANDs x[a] with a sign-extended immediate. -/
  | andi (d : Reg) (a : Reg) (imm : BitVec 12)
  /-- R137 ORs x[a] with a sign-extended immediate. -/
  | ori (d : Reg) (a : Reg) (imm : BitVec 12)
  /-- R137 XORs x[a] with a sign-extended immediate. -/
  | xori (d : Reg) (a : Reg) (imm : BitVec 12)
  /-- R138 Shifts x[a] left by an immediate amount. -/
  | shli (d : Reg) (a : Reg) (sh : BitVec 6)
  /-- R138 Shifts x[a] right logically by an immediate amount. -/
  | shri (d : Reg) (a : Reg) (sh : BitVec 6)
  /-- R138 Shifts x[a] right arithmetically by an immediate amount. -/
  | sari (d : Reg) (a : Reg) (sh : BitVec 6)
  /-- R138 Rotates x[a] left by an immediate amount. -/
  | roli (d : Reg) (a : Reg) (sh : BitVec 6)
  /-- R141 Compares x[a] with x[b] under a condition code and writes one predicate. -/
  | cmp (c : BitVec 3) (p : BitVec 4) (a : Reg) (b : Reg)
  /-- R141 Compares x[a] with a sign-extended immediate and writes one predicate. -/
  | cmpi (c : BitVec 3) (p : BitVec 4) (a : Reg) (imm : BitVec 12)
  /-- R139 Writes a sign-extended 19-bit immediate times 2^12 to x[d]. -/
  | lui (d : Reg) (imm : BitVec 19)
  /-- R139 Writes PC plus a sign-extended byte offset to x[d]. -/
  | addpc (d : Reg) (imm : BitVec 19)
  /-- R142 Selects x[a] or x[b] according to a predicate and its sense. -/
  | sel (d : Reg) (a : Reg) (b : Reg) (s : BitVec 1) (p : BitVec 4)
  /-- R143 Combines two predicates with a logic operation into a destination predicate. -/
  | plog (d : BitVec 4) (a : BitVec 4) (b : BitVec 4) (f : BitVec 5)
  /-- R145 Reads a control register into x[d]. -/
  | crd (d : Reg) (n : BitVec 8)
  /-- R146 Writes x[a] to a control register field by field. -/
  | cwr (a : Reg) (n : BitVec 8)
  /-- R149 FP32 addition rounded once in the encoded mode. -/
  | fadd (d : Reg) (a : Reg) (b : Reg) (rm : BitVec 2)
  /-- R149 FP32 subtraction rounded once. -/
  | fsub (d : Reg) (a : Reg) (b : Reg) (rm : BitVec 2)
  /-- R149 FP32 multiplication rounded once. -/
  | fmul (d : Reg) (a : Reg) (b : Reg) (rm : BitVec 2)
  /-- R149 FP32 fused multiply-add with x[d] as the addend and one rounding. -/
  | ffma (d : Reg) (a : Reg) (b : Reg) (rm : BitVec 2)
  /-- R149 FP32 minimum under the NaN and zero rules. -/
  | fmin (d : Reg) (a : Reg) (b : Reg)
  /-- R149 FP32 maximum under the NaN and zero rules. -/
  | fmax (d : Reg) (a : Reg) (b : Reg)
  /-- R149 Copies the sign of x[b] onto x[a]. -/
  | fsgn (d : Reg) (a : Reg) (b : Reg)
  /-- R149 Clears the FP32 sign bit. -/
  | fabs (d : Reg) (a : Reg)
  /-- R149 Inverts the FP32 sign bit. -/
  | fneg (d : Reg) (a : Reg)
  /-- R149 FP32 division rounded once. -/
  | fdiv (d : Reg) (a : Reg) (b : Reg) (rm : BitVec 2)
  /-- R149 FP32 square root rounded once. -/
  | fsqrt (d : Reg) (a : Reg) (rm : BitVec 2)
  /-- R149 FP32 reciprocal rounded once. -/
  | frcp (d : Reg) (a : Reg) (rm : BitVec 2)
  /-- R149 FP32 reciprocal square root rounded once. -/
  | frsq (d : Reg) (a : Reg) (rm : BitVec 2)
  /-- R149 FP32 base-2 exponential rounded once. -/
  | fexp2 (d : Reg) (a : Reg) (rm : BitVec 2)
  /-- R149 FP32 base-2 logarithm rounded once. -/
  | flog2 (d : Reg) (a : Reg) (rm : BitVec 2)
  /-- R150 Writes a one-hot class mask of an FP32 value. -/
  | fclass (d : Reg) (a : Reg)
  /-- R151 Compares two FP32 values and writes one predicate. -/
  | fcmp (c : BitVec 3) (p : BitVec 4) (a : Reg) (b : Reg)
  /-- R152 Converts between integer and floating types, rounding once. -/
  | fcvt (d : Reg) (a : Reg) (t : BitVec 4) (f : BitVec 4) (rm : BitVec 2)
  /-- R294 Branches PC-relative when the predicate equals NOT sense. -/
  | br (p : BitVec 4) (s : BitVec 1) (o : BitVec 20)
  /-- R294 Jumps PC-relative and writes the link to x[d]. -/
  | call (d : Reg) (imm : BitVec 19)
  /-- R294 Jumps to x[a] plus an offset and writes the link to x[d]. -/
  | jr (d : Reg) (a : Reg) (imm : BitVec 12)
  /-- R297 Opens a repeat frame over the next N instructions with a constant count. -/
  | repfConstant (n : BitVec 4) (s : BitVec 3) (m : BitVec 3) (c : BitVec 15)
  /-- R297 Opens a repeat frame whose count is taken from a register. -/
  | repfRegister (n : BitVec 4) (s : BitVec 3) (m : BitVec 3) (a : Reg)
  /-- R302 Takes an issue turn and its spacing and does nothing else. -/
  | nop
  /-- R303 Gives up lent positions until the context's own position next comes round. -/
  | yield
  /-- R43 Retires the context once ctr has drained: it leaves its barriers, sends its drainage decrement and strips its registers. -/
  | exit
  /-- R305 Creates and charges a resident child context on the issuing core. -/
  | tstart (d : Reg) (a : Reg) (b : Reg)
  /-- R306 Kills another resident context of the core named by a handle. -/
  | tstop (a : Reg)
  /-- R223 Loads 1 to 8 bytes from memory into x[d] and clears its presence until the reply arrives. -/
  | ld (d : Reg) (a : Reg) (s : BitVec 2) (e : BitVec 1) (o : BitVec 9)
  /-- R223 Stores 1 to 8 bytes of x[d] at its home, counted in ctr.ST. -/
  | st (d : Reg) (a : Reg) (s : BitVec 2) (o : BitVec 9)
  /-- R224 Acquire load that waits for full and leaves the word empty. -/
  | ldfe (d : Reg) (a : Reg) (o : BitVec 9)
  /-- R224 Acquire load that waits for full and leaves the word full. -/
  | ldff (d : Reg) (a : Reg) (o : BitVec 9)
  /-- R224 Release store that waits for empty and leaves the word full. -/
  | stef (d : Reg) (a : Reg) (o : BitVec 9)
  /-- R224 Release store that leaves the word full. -/
  | stff (d : Reg) (a : Reg) (o : BitVec 9)
  /-- R224 Plain store that leaves the word empty. -/
  | stfe (d : Reg) (a : Reg) (o : BitVec 9)
  /-- R224 Reads a word's FE bit into x[d]. -/
  | feget (d : Reg) (a : Reg) (o : BitVec 9)
  /-- R224 Sets a word's FE bit from x[d][0]. -/
  | feset (d : Reg) (a : Reg) (o : BitVec 9)
  /-- R228 Fetching atomic operation performed at the word's home, with the old value returned. -/
  | amoF (d : Reg) (a : Reg) (b : Reg) (o : BitVec 4)
  /-- R228 Compare-and-swap that compares against x[d] and returns the old value. -/
  | amoCasF (d : Reg) (a : Reg) (b : Reg)
  /-- R228 No-fetch atomic operation counted in ctr.ST. -/
  | amo (a : Reg) (b : Reg) (o : BitVec 4)
  /-- R229 Reduction sent as a remote-update migrant and ordered only against REDs from the same source. -/
  | red (a : Reg) (b : Reg) (o : BitVec 4)
  /-- R215 Parks until the context's earlier tile-local work is complete. -/
  | fenceT
  /-- R215 Parks until the context's earlier module-local accesses are complete. -/
  | fenceW
  /-- R215 Parks until every earlier access of the context, host-window stores included, is complete. -/
  | fenceS
  /-- R230 Parks until each outstanding counter is at or below its limit. -/
  | waitc (m : BitVec 4) (c : BitVec 4) (s : BitVec 4) (l : BitVec 4)
  /-- R231 Moves a migrant to the home of a word without accessing it. -/
  | migrate (a : Reg)
  /-- R232 Invalidates instruction-cache lines of a range across the partition's cores. -/
  | icinv (a : Reg) (b : Reg)
  /-- R235 Reads, and optionally writes, one register of a borrowed set. -/
  | xmov (d : Reg) (a : Reg) (b : Reg)
  /-- R234 Reserves a free slot's registers as a Withheld borrowed set. -/
  | borrow (d : Reg) (a : Reg)
  /-- R236 Strips a borrowed set and frees its slot. -/
  | retn (a : Reg)
  /-- R238 Sends x[a] to a register of the same-slot context on the adjacent tile. -/
  | nwr (n : BitVec 7) (a : Reg) (k : BitVec 2)
  /-- R239 Clears a register's presence bit to arm it for a neighbour write. -/
  | narm (d : Reg)
  /-- R239 Reads 64 presence bits into x[d] without parking. -/
  | npres (d : Reg) (a : Reg)
  /-- R164 Elementwise vector add over shape records. -/
  | vadd (d : Reg) (a : Reg) (b : Reg)
  /-- R164 Elementwise vector subtract. -/
  | vsub (d : Reg) (a : Reg) (b : Reg)
  /-- R164 Elementwise vector multiply. -/
  | vmul (d : Reg) (a : Reg) (b : Reg)
  /-- R164 Elementwise fused multiply-add into the destination. -/
  | vfma (d : Reg) (a : Reg) (b : Reg)
  /-- R164 Elementwise minimum. -/
  | vmin (d : Reg) (a : Reg) (b : Reg)
  /-- R164 Elementwise maximum. -/
  | vmax (d : Reg) (a : Reg) (b : Reg)
  /-- R164 Elementwise integer AND. -/
  | vand (d : Reg) (a : Reg) (b : Reg)
  /-- R164 Elementwise integer OR. -/
  | vor (d : Reg) (a : Reg) (b : Reg)
  /-- R164 Elementwise integer XOR. -/
  | vxor (d : Reg) (a : Reg) (b : Reg)
  /-- R164 Elementwise shift by a signed count. -/
  | vshl (d : Reg) (a : Reg) (b : Reg)
  /-- R164 Elementwise compare writing n8 results. -/
  | vcmp (d : Reg) (a : Reg) (b : Reg)
  /-- R164 Elementwise select by the destination mask. -/
  | vsel (d : Reg) (a : Reg) (b : Reg)
  /-- R165 Elementwise format conversion. -/
  | vcvt (d : Reg) (a : Reg)
  /-- R165 Elementwise exp2. -/
  | vexp (d : Reg) (a : Reg)
  /-- R165 Elementwise reciprocal. -/
  | vrcp (d : Reg) (a : Reg)
  /-- R165 Elementwise reciprocal square root. -/
  | vrsq (d : Reg) (a : Reg)
  /-- R165 Elementwise absolute value. -/
  | vabs (d : Reg) (a : Reg)
  /-- R165 Elementwise negation. -/
  | vneg (d : Reg) (a : Reg)
  /-- R165 Elementwise bit-for-bit copy. -/
  | vmov (d : Reg) (a : Reg)
  /-- R166 Base-2 softmax along dimension 0. -/
  | vsoft (d : Reg) (a : Reg)
  /-- R165 Fills every destination element with a register value. -/
  | vfill (d : Reg) (a : Reg)
  /-- R165 Writes destination mask bits from two integer sources. -/
  | vmask (d : Reg) (a : Reg) (b : Reg)
  /-- R167 Tree sum of each row. -/
  | vsum (d : Reg) (a : Reg)
  /-- R167 Tree maximum of each row. -/
  | vmaxr (d : Reg) (a : Reg)
  /-- R167 Tree minimum of each row. -/
  | vminr (d : Reg) (a : Reg)
  /-- R167 Tree prefix sums of each row. -/
  | vscan (d : Reg) (a : Reg)
  /-- R168 Gathers table elements by index. -/
  | vgath (d : Reg) (a : Reg) (b : Reg)
  /-- R168 Scatters values into a table by index. -/
  | vscat (d : Reg) (a : Reg) (b : Reg)
  /-- R172 Dense bit-serial matrix command over all K-blocks; w selects the blocking form. -/
  | mxa (d : Reg) (a : Reg) (b : Reg) (w : BitVec 1)
  /-- R172 Matrix command over a gathered list of K-blocks. -/
  | mxag (d : Reg) (a : Reg) (b : Reg) (w : BitVec 1)
  /-- R172 Matrix command over the K-blocks of a skip list. -/
  | mxsp (d : Reg) (a : Reg) (b : Reg) (w : BitVec 1)
  /-- R173 Zeroes every EXACC slot of a record. -/
  | ezero (d : Reg)
  /-- R173 Adds source slots into destination slots exactly, with at most one clamp. -/
  | eacc (d : Reg) (a : Reg)
  /-- R123 Drains accumulator slots to floating elements with residual, dropout and one rounding. -/
  | edrn (d : Reg) (a : Reg) (b : Reg)
  /-- R173 Loads one word of an EXACC slot once no command is writing it. -/
  | eread (d : Reg) (a : Reg) (b : Reg)
  /-- R175 Packs floats into BPw planes and computes the block scales. -/
  | bppack (d : Reg) (a : Reg) (b : Reg)
  /-- R176 Unpacks BPw planes into floats. -/
  | bpunpk (d : Reg) (a : Reg)
  /-- R175 Packs floats into BPw planes with given scales. -/
  | bscl (d : Reg) (a : Reg) (b : Reg)
  /-- R179 Takes a stream and loads it from a stream record. -/
  | ssopen (s : BitVec 3) (a : Reg)
  /-- R179 Closes a stream and releases its ownership. -/
  | ssclose (s : BitVec 3)
  /-- R179 Loads the next key of a stream, or the end marker. -/
  | ssnext (d : Reg) (s : BitVec 3)
  /-- R179 Reads a stream's CNT and POS. -/
  | sspos (d : Reg) (s : BitVec 3)
  /-- R180 Set engine intersection of two streams, restartable. -/
  | sisect (d : Reg) (s : BitVec 3) (t : BitVec 3)
  /-- R180 Set engine merge of two streams, restartable. -/
  | simerge (d : Reg) (s : BitVec 3) (t : BitVec 3)
  /-- R246 Takes or releases the conflict-batching unit and sets its limits. -/
  | cbcfg (a : Reg)
  /-- R247 Offers a constraint to the unit and runs batch forming. -/
  | cbpush (d : Reg) (a : Reg)
  /-- R249 Removes the oldest closed batch and writes its tags. -/
  | cbpop (d : Reg) (a : Reg)
  /-- R248 Closes batches until no constraint is pending. -/
  | cbflush
  /-- R249 Reads the unit's state. -/
  | cbstat (d : Reg)
  /-- R240 Starts a copy on a channel and writes its handle. -/
  | cpy (d : Reg) (a : Reg)
  /-- R242 Reads a copy's write pointer and its state without parking. -/
  | cpwp (d : Reg) (a : Reg)
  /-- R244 Copies one source to several tiles of the cluster. -/
  | cpcast (d : Reg) (a : Reg) (b : Reg)
  /-- R311 Joins a named barrier now or at the next phase. -/
  | gjoin (g : BitVec 7)
  /-- R311 Leaves a named barrier and retests local completion. -/
  | gleave (g : BitVec 7)
  /-- R311 Arrives at a barrier once ld and st have drained. -/
  | barr (g : BitVec 7)
  /-- R311 Waits for the verdict on the standing arrival. -/
  | bwait (g : BitVec 7)
  /-- R311 Arrives if not yet arrived, then waits. -/
  | barw (g : BitVec 7)
  /-- R312 Timed barrier wait that returns a status. -/
  | bwaitt (d : Reg) (g : BitVec 7) (b : Reg)
  /-- R314 Creates a charged migrant from a work packet and sends it to its anchor's home. -/
  | spawn (d : Reg) (a : Reg)
  /-- R315 Pushes a stamped value onto an early-push queue. -/
  | qpush (d : Reg) (a : Reg) (b : Reg)
  /-- R315 Conditional acquire pop that waits for the producer's stamp. -/
  | qpop (d : Reg) (a : Reg)
  /-- R316 Adds to the core's drainage counter for a root. -/
  | drinc (a : Reg) (b : Reg)
  /-- R316 Subtracts from the core's drainage counter after a release park. -/
  | drdec (a : Reg) (b : Reg)
  /-- R317 Conditional acquire that waits until LIVE = 0 or FAIL = 1. -/
  | drwait (d : Reg) (a : Reg)
  /-- R318 Requests tokens for the tile. -/
  | tkreq (d : Reg) (a : Reg)
  /-- R318 Releases tokens of the tile to the pool. -/
  | tkrel (a : Reg)
  /-- R318 Lends held tokens to another tile of the basin. -/
  | tklend (d : Reg) (a : Reg) (b : Reg)
  /-- R318 Reads the tile's token word. -/
  | tkqry (d : Reg)
  /-- R318 Sets the context's energy class. -/
  | ecls (a : Reg)
  /-- R320 Forms a redundant pair by creating a topcoat. -/
  | rdnon (d : Reg)
  /-- R321 Compares the pair's state and dissolves the pair. -/
  | rdnoff
  /-- R321 Compares the pair's state and keeps the pair. -/
  | rdnchk (d : Reg)
  /-- R345 Takes BRKPT with a code. -/
  | trap (c : BitVec 10)
  /-- R345 Traps in U, or sends a request to the firmware queue in S. -/
  | hcall (c : BitVec 10)
  /-- R346 Returns from a trap handler to epc and the saved mode. -/
  | eret
  /-- R349 Pre-empts a context and saves it to a save area. -/
  | ctxsv (d : Reg) (a : Reg) (b : Reg)
  /-- R350 Recreates a context from a save area. -/
  | ctxld (d : Reg) (a : Reg)
  /-- R353 Removes TLB entries across the module and waits for every acknowledgement. -/
  | tlbi (a : Reg) (b : Reg)
  /-- R352 Reads a privileged register selected by x[a]. -/
  | prd (d : Reg) (a : Reg)
  /-- R352 Writes a privileged register selected by x[a]. -/
  | pwr (a : Reg) (b : Reg)
  /-- R354 Strips a range of the issuer's registers. -/
  | strip (a : Reg)
  /-- R355 Freezes or thaws a context named by a handle. -/
  | freeze (a : Reg) (b : Reg)
  /-- R356 Writes one entry of the severity matrix. -/
  | sevset (a : Reg) (b : Reg)
  /-- R140 Two-word load of a sign-extended 48-bit immediate. -/
  | ldi (d : Reg) (imm : BitVec 48)
  /-- R140 Two-word load of a zero-extended 48-bit immediate. -/
  | ldiN (d : Reg) (imm : BitVec 48)
  /-- R129 The spacing of a context's last issue runs out and the context becomes eligible again. -/
  | issueSpacingEnd
  /-- R254 A parked context whose wake condition became true is Ready from the next cc. -/
  | contextWake
  /-- R339 At an issue turn, the context takes the highest-priority due trap and enters its handler in S. -/
  | takeTrap
  /-- R32 Stripping of a retired or killed context's entries ends and the slot becomes free; the save-ring head takes it first. -/
  | stripDone
  /-- R48 Once a Departing migrant's ctr is zero, its packet is built and sent and its slot is freed. -/
  | migrantDeparture
  /-- R50 An arriving migrant packet is placed in a slot, on the save ring or in the overflow queue. -/
  | migrantArrival
  /-- R50 The overflow head is read back into a free save-ring entry. -/
  | overflowRefill
  /-- R188 A request for a read is performed at the home's SRAM or DRAM port and a reply is sent. -/
  | loadRequest
  /-- R207 The home's message context performs one queued store, SYNC or AMO message in home order. -/
  | activeMessage
  /-- R229 A RED update is applied at its home by the message context. -/
  | remoteUpdateMigrant
  /-- R225 An attempt of LDFE, LDFF, STEF, QPOP or DRWAIT either performs at the home or returns a failure reply. -/
  | conditionalAttempt
  /-- R225 16 cc after a failure reply, the requester re-sends the conditional access. -/
  | attemptResend
  /-- R225 The ninth attempt asks the home to enter the access on the word's wait list. -/
  | waitListPark
  /-- R225 After a full reply, the park request is re-sent every 256 cc. -/
  | parkRequestRetry
  /-- R226 In the cc after a word's FE bit changes, the home walks its wait list and performs every entry whose condition holds. -/
  | waitListServe
  /-- R227 A cancel reaches the home, which removes the waiting entry and answers whether the access had performed. -/
  | cancel
  /-- R227 The cancel answer arrives and the interrupting event takes effect, the access being withdrawn or kept. -/
  | cancelAnswer
  /-- R33 A reply writes its value and sets presence, or is discarded by generation, and lowers ctr.LD. -/
  | loadReply
  /-- R188 A performed notice lowers ctr.ST at the requester. -/
  | performedNotice
  /-- R343 No reply or notice arrives within 2^24 cc of issue, so the access is abandoned with TIMEOUTMEM. -/
  | memoryTimeout
  /-- R195 A qualifying fetch-and-add reaches a confluence node and opens or joins a combine entry. -/
  | combineJoin
  /-- R195 8 cc after it opens, a combine entry closes and sends one summed AMO.ADD.F. -/
  | combineClose
  /-- R195 The combined reply is split into replies and notices for every member. -/
  | combineReply
  /-- R202 A page-table walk ends, filling the TLB or faulting. -/
  | walkComplete
  /-- R353 A TLB receives a TLBI invalidation, removes its matching entries and acknowledges. -/
  | tlbRemoval
  /-- R353 A TLB acknowledgement reaches the TLBI issuer. -/
  | tlbiAck
  /-- R232 A core invalidates its instruction-cache lines of a range and acknowledges. -/
  | icacheInvalidation
  /-- R232 An invalidation acknowledgement reaches the ICINV issuer. -/
  | icinvAck
  /-- R238 A neighbour write arrives at the receiving core and is held, refused or landed. -/
  | neighbourWrite
  /-- R238 A held neighbour write lands once its register is armed and is acknowledged. -/
  | neighbourWriteLand
  /-- R238 A neighbour-write acknowledgement lowers ctr.ST and frees the direction. -/
  | nwrAck
  /-- R345 An HCALL request enters the firmware context's queue. -/
  | hcallRequest
  /-- R352 The staged reply values reach the caller's x1 and x2. -/
  | hcallReply
  /-- R349 Once the target's ctr has drained, the save area is written and the slot is freed. -/
  | saveAreaWrite
  /-- R122 An engine command completes: holds are released, ctr.MX is lowered and its flags or pending trap are posted. -/
  | engineCommandComplete
  /-- R113 When credit covers the charge, the dense array starts a sub-step and applies any holding change. -/
  | denseSubstep
  /-- R241 A source element reaches the copy channel, which sends its destination write. -/
  | copySourceReply
  /-- R242 A destination element performs, advancing the write pointer and releasing the hold. -/
  | copyWritePerformed
  /-- R271 After QPOP performs, the home asks the producer's core about the stamp. -/
  | stampQuery
  /-- R271 The producer's core answers satisfied and the QPOP reply is sent. -/
  | stampSatisfied
  /-- R273 A +1 from a child counter reaches its parent level and is acknowledged. -/
  | drainUp
  /-- R273 A parent's acknowledgement completes the operation that raised a counter from zero. -/
  | drainAck
  /-- R273 A −1, possibly with KILL, reaches a parent level or the root word. -/
  | drainDown
  /-- R276 An uncorrectable error removes a live counter entry and sets FAIL in the root word. -/
  | counterEntryUe
  /-- R265 The launcher takes a full mailbox record, checks it, and refuses it or lists it as pending. -/
  | launchRecord
  /-- R266 The launcher places the head of the pending list reticle by reticle, or rolls it back. -/
  | gangPlace
  /-- R267 Once every charge is acknowledged, the launcher sends releases and writes STATUS 1. -/
  | gangRelease
  /-- R267 A reticle receives the release and its Placed members become Ready. -/
  | releaseReceived
  /-- R280 At each step boundary the broker grants under CSL, places notices, handles loans and refills VEB. -/
  | grantRound
  /-- R282 NCNT reaches zero and the noticed tokens are removed. -/
  | noticeExpiry
  /-- R284 The supply monitor trips: every HOLD is halved, notices are cancelled and a droop hold is set. -/
  | droopAlarm
  /-- R286 The carrier's temperature report sets or clears THACT. -/
  | thermalReport
  /-- R287 A neighbour broker's loan reaches the borrower. -/
  | loanOffer
  /-- R287 A lender's recall reaches the borrower, which treats it as a lowered ceiling. -/
  | loanRecall
  /-- R287 Returned tokens reach the lender, which lowers LENTOUT. -/
  | loanReturn
  /-- R262 CNT reaches LIM·2^20 and WATCHDOG becomes due. -/
  | watchdogExpiry
  /-- R310 A child's arrival reaches its parent barrier, which counts it in CARR and tests completion. -/
  | barrierArrival
  /-- R310 A verdict reaches a child barrier, which applies it and forwards it. -/
  | barrierVerdict
  /-- R312 A BWAITT timer reaches its limit and sends an abort request towards the root. -/
  | bwaittTimeout
  /-- R312 An abort request reaches a barrier, which discards it, applies it or forwards it. -/
  | barrierAbortRequest
  /-- R308 A child's registration reaches the parent, which raises NCH or refuses it. -/
  | barrierRegistration
  /-- R308 A child's withdrawal reaches the former parent, which lowers NCH. -/
  | barrierWithdrawal
  /-- R308 The parent's answer reaches the child, which sets POFF, or CERR on refusal. -/
  | registrationReply
  /-- R308 A write of a barrier's configuration word is accepted only while idle and sends registration messages. -/
  | barrierConfigWrite
  /-- R194 A write of LPB and HBMB takes effect only before any DRAM access since publication. -/
  | interleaveWrite
  /-- R52 A write of POOLPA or MIGLIM takes effect only while MIGLIVE is zero and the pool lies in populated DRAM. -/
  | poolWrite
  /-- R263 A write of MBXPA or MBXN resets NEXT and makes the launcher free every record. -/
  | mailboxWrite
  /-- R285 A BUDGET write is checked by the leader broker against the module sum, then accepted or refused with BERR. -/
  | budgetWrite
  /-- R323 A change of PVAL or PID is accepted only on an idle reticle and starts the reassignment scrub. -/
  | partitionWrite
  /-- R323 The SRAM scrub ends; PVAL and PID take their new values and SCRB clears. -/
  | partitionScrubDone
  /-- R338 A write to the core's HOSTIRQ register sets PND for the named slot. -/
  | hostirqPost
  /-- R204 GO with KIND 1 starts a page tier migration, or sets ERR. -/
  | tierMigrationGo
  /-- R399 GO with KIND 0 from mode F starts copying a failing bank into its spare. -/
  | bankSparingGo
  /-- R204 Writing RETIRE ends forwarding and clears BUSY. -/
  | skimRetire
  /-- R205 The source home copies the next word and advances the skim line as one step of its home order. -/
  | skimCopyStep
  /-- R399 The channel core copies the next line to the spare and raises SPLINE, finishing with SPACT set. -/
  | spareCopyStep
  /-- R204 A read of HOTPG and HOTCNT returns them and clears them. -/
  | hotpgRead
  /-- R330 A read of VLD or NDEN returns the field and clears it. -/
  | refusalLogRead
  /-- R292 A read of NREV or NDROOP returns the count and clears it. -/
  | brokerCountRead
  /-- R362 A read of NOSEV or LOST returns the count and clears it. -/
  | errorLogCountRead
  /-- R398 A read of LNKF returns the count and clears it. -/
  | lnkfRead
  /-- R407 A read of LDN or RTRY returns the count and clears it. -/
  | linkCountRead
  /-- R390 Writing GO starts signing a quote unless BUSY. -/
  | attestGo
  /-- R390 Signing ends, SIG is updated and BUSY clears. -/
  | attestDone
  /-- R4 A write to a register with no row of its own applies the access codes of its fields. -/
  | registerWrite
  /-- R368 Every 64 cc a bank's scrub reads one word, rewriting correctable errors and poisoning uncorrectable ones. -/
  | sramScrubRead
  /-- R368 Every 1,024 cc a channel core scrubs one line per channel. -/
  | dramScrubRead
  /-- R370 A flit that fails its check is retried, or the link is failed after eight failures. -/
  | meshFlitRetry
  /-- R379 Power-up starts Watershed and removes every context and memory content. -/
  | powerUp
  /-- R380 Phase 1 ends: BIST results mark tiles, routers or the reticle failed. -/
  | bistComplete
  /-- R380 Pass training ends, all sides trained or at the 2^23 cc time-out. -/
  | passTrainingEnd
  /-- R381 A key arrives on a pass; a larger key is kept, forwarded and sets the parent. -/
  | electionKey
  /-- R381 The largest key is unchanged for 2^20 cc and gathering begins. -/
  | electionSettled
  /-- R381 No coordinates within 2^25 cc, or a duplicate key, sends the reticle back to election with a fresh nonce. -/
  | electionRestart
  /-- R382 A child's report climbs to its parent in the flood tree. -/
  | gatherReport
  /-- R382 A parent gives up on a silent child after 2^20 cc. -/
  | gatherTimeout
  /-- R383 The leader places its island and posts its summary on a service line. -/
  | islandPlacement
  /-- R384 2^24 cc after posting, the leader compares summaries and the best one claims. -/
  | summaryCompare
  /-- R379 Coordinates reach a reticle, which verifies and loads firmware, zeroes memory and publishes the table. -/
  | coordinates
  /-- R391 The shelf's power-fail input is asserted and delivered to every live reticle. -/
  | powerFail
  /-- R391 An F-mode write of GO at the leader enters Lowland by command, or sets ERR. -/
  | lowlandGo
  /-- R392 The Lowland signal reaches a basin, which stops issue and starts its drain. -/
  | lowlandSignal
  /-- R392 Once quiet, the basin stops units at boundaries, logs the entry and goes into retention. -/
  | lowlandRetain
  /-- R395 Power-good is asserted, ending a power-fail Lowland. -/
  | powerGood
  /-- R398 A host write of WAKE during a command Lowland starts exit. -/
  | wake
  /-- R395 The shelf pulses its wake input, ending a command Lowland. -/
  | shelfWake
  /-- R395 Passes resume, LLCNT rises and contexts become Ready, with RESUME pending where enabled. -/
  | passRetrainDone
  /-- R26 The retention supply is lost, losing memory contents and forcing a full Watershed. -/
  | retentionLoss
  /-- R26 The debug freeze signal stops every clock until thawed. -/
  | debugFreeze
  /-- R343 A request through the test access port makes DEBUG pending. -/
  | debugRequest
  /-- R402 A host memory read or write through BAR2 is checked and performed at the word's home. -/
  | hostRequest
  /-- R403 The host link leaves L0 outside Lowland and host-window accesses fail with HOSTDOWN. -/
  | hostLinkDown
  /-- R403 The host link retrains and returns to service. -/
  | hostLinkUp
  /-- R405 A link flit arrives, and is accepted or replayed on a CRC failure. -/
  | linkFlit
  /-- R405 No acknowledgement arrives for LTO cc, and the Jenoon link goes down. -/
  | ackTimeout
  /-- R405 The Jenoon PHY loses lock, and the link goes down. -/
  | phyLockLoss
  /-- R405 A Jenoon link comes up and records the peer module in PMOD. -/
  | jenoonLinkUp
  /-- R333 A request from another module is tagged by the import table or refused. -/
  | importedRequest
  /-- R408 Writing ARM = 1 arms a merge entry, clears its buffer and registers it at BB, or sets ERR. -/
  | mergeArm
  /-- R408 Writing ARM = 0 clears HELD or discards an unlocked entry, or sets ERR when LOCK is set. -/
  | mergeDisarm
  /-- R409 A RED from another module into an armed range is absorbed into the buffer, or refused. -/
  | mergeAbsorb
  /-- R410 A store to CLOSE sets a module's GOT bit; when GOT equals EXP, LOCK is set and the entry arrives at BB. -/
  | mergeClose
  /-- R410 Every commit notice has arrived, CREF is set for any failure, and the completion verdict is applied. -/
  | mergeCommitDone
  /-- R245 The conflict-batching unit finishes a CB instruction after testing pending constraints, one per cc, and the parked issuer's wait ends. -/
  | cbUnitFinished
  /-- R215 A PCIe completion from the host reaches a host-port link core and answers its device-initiated read, including the flushing read of FENCE.S. -/
  | pcieCompletion
  /-- R397 The debug freeze signal is deasserted, every clock restarts, and a Lowland entry or exit in progress continues. -/
  | debugThaw
  /-- R406 A write to a module route-table entry performs only while ALT = 0 or AV = 0, and a firmware rewrite clears ALT. -/
  | routeTableWrite
  deriving DecidableEq, Repr

end Sys2Proof
end

