-- ==== Sys2Proof/WellFormed.lean ====
section
/-! DEFINITION. Which terms of `Instr` are instructions a program can hold: the rows with a word, and of their fields those
values that spec/03 does not reserve (R59 to R69). -/
namespace Sys2Proof

/-- The row is an instruction: it has a word (spec/03). The other rows are events. -/
def Instr.hasWord : Instr → Bool
  | .add _ _ _ => true
  | .sub _ _ _ => true
  | .and _ _ _ => true
  | .or _ _ _ => true
  | .xor _ _ _ => true
  | .andn _ _ _ => true
  | .shl _ _ _ => true
  | .shr _ _ _ => true
  | .sar _ _ _ => true
  | .rol _ _ _ => true
  | .min _ _ _ => true
  | .max _ _ _ => true
  | .minn _ _ _ => true
  | .maxn _ _ _ => true
  | .adds _ _ _ => true
  | .subs _ _ _ => true
  | .mul _ _ _ => true
  | .mulh _ _ _ => true
  | .mulhn _ _ _ => true
  | .div _ _ _ => true
  | .divn _ _ _ => true
  | .rem _ _ _ => true
  | .remn _ _ _ => true
  | .clz _ _ => true
  | .ctz _ _ => true
  | .popc _ _ => true
  | .brev _ _ => true
  | .bswap _ _ => true
  | .bfx _ _ _ => true
  | .bfxn _ _ _ => true
  | .bfi _ _ _ => true
  | .addi _ _ _ => true
  | .andi _ _ _ => true
  | .ori _ _ _ => true
  | .xori _ _ _ => true
  | .shli _ _ _ => true
  | .shri _ _ _ => true
  | .sari _ _ _ => true
  | .roli _ _ _ => true
  | .cmp _ _ _ _ => true
  | .cmpi _ _ _ _ => true
  | .lui _ _ => true
  | .addpc _ _ => true
  | .sel _ _ _ _ _ => true
  | .plog _ _ _ _ => true
  | .crd _ _ => true
  | .cwr _ _ => true
  | .fadd _ _ _ _ => true
  | .fsub _ _ _ _ => true
  | .fmul _ _ _ _ => true
  | .ffma _ _ _ _ => true
  | .fmin _ _ _ => true
  | .fmax _ _ _ => true
  | .fsgn _ _ _ => true
  | .fabs _ _ => true
  | .fneg _ _ => true
  | .fdiv _ _ _ _ => true
  | .fsqrt _ _ _ => true
  | .frcp _ _ _ => true
  | .frsq _ _ _ => true
  | .fexp2 _ _ _ => true
  | .flog2 _ _ _ => true
  | .fclass _ _ => true
  | .fcmp _ _ _ _ => true
  | .fcvt _ _ _ _ _ => true
  | .br _ _ _ => true
  | .call _ _ => true
  | .jr _ _ _ => true
  | .repfConstant _ _ _ _ => true
  | .repfRegister _ _ _ _ => true
  | .nop => true
  | .yield => true
  | .exit => true
  | .tstart _ _ _ => true
  | .tstop _ => true
  | .ld _ _ _ _ _ => true
  | .st _ _ _ _ => true
  | .ldfe _ _ _ => true
  | .ldff _ _ _ => true
  | .stef _ _ _ => true
  | .stff _ _ _ => true
  | .stfe _ _ _ => true
  | .feget _ _ _ => true
  | .feset _ _ _ => true
  | .amoF _ _ _ _ => true
  | .amoCasF _ _ _ => true
  | .amo _ _ _ => true
  | .red _ _ _ => true
  | .fenceT => true
  | .fenceW => true
  | .fenceS => true
  | .waitc _ _ _ _ => true
  | .migrate _ => true
  | .icinv _ _ => true
  | .xmov _ _ _ => true
  | .borrow _ _ => true
  | .retn _ => true
  | .nwr _ _ _ => true
  | .narm _ => true
  | .npres _ _ => true
  | .vadd _ _ _ => true
  | .vsub _ _ _ => true
  | .vmul _ _ _ => true
  | .vfma _ _ _ => true
  | .vmin _ _ _ => true
  | .vmax _ _ _ => true
  | .vand _ _ _ => true
  | .vor _ _ _ => true
  | .vxor _ _ _ => true
  | .vshl _ _ _ => true
  | .vcmp _ _ _ => true
  | .vsel _ _ _ => true
  | .vcvt _ _ => true
  | .vexp _ _ => true
  | .vrcp _ _ => true
  | .vrsq _ _ => true
  | .vabs _ _ => true
  | .vneg _ _ => true
  | .vmov _ _ => true
  | .vsoft _ _ => true
  | .vfill _ _ => true
  | .vmask _ _ _ => true
  | .vsum _ _ => true
  | .vmaxr _ _ => true
  | .vminr _ _ => true
  | .vscan _ _ => true
  | .vgath _ _ _ => true
  | .vscat _ _ _ => true
  | .mxa _ _ _ _ => true
  | .mxag _ _ _ _ => true
  | .mxsp _ _ _ _ => true
  | .ezero _ => true
  | .eacc _ _ => true
  | .edrn _ _ _ => true
  | .eread _ _ _ => true
  | .bppack _ _ _ => true
  | .bpunpk _ _ => true
  | .bscl _ _ _ => true
  | .ssopen _ _ => true
  | .ssclose _ => true
  | .ssnext _ _ => true
  | .sspos _ _ => true
  | .sisect _ _ _ => true
  | .simerge _ _ _ => true
  | .cbcfg _ => true
  | .cbpush _ _ => true
  | .cbpop _ _ => true
  | .cbflush => true
  | .cbstat _ => true
  | .cpy _ _ => true
  | .cpwp _ _ => true
  | .cpcast _ _ _ => true
  | .gjoin _ => true
  | .gleave _ => true
  | .barr _ => true
  | .bwait _ => true
  | .barw _ => true
  | .bwaitt _ _ _ => true
  | .spawn _ _ => true
  | .qpush _ _ _ => true
  | .qpop _ _ => true
  | .drinc _ _ => true
  | .drdec _ _ => true
  | .drwait _ _ => true
  | .tkreq _ _ => true
  | .tkrel _ => true
  | .tklend _ _ _ => true
  | .tkqry _ => true
  | .ecls _ => true
  | .rdnon _ => true
  | .rdnoff => true
  | .rdnchk _ => true
  | .trap _ => true
  | .hcall _ => true
  | .eret => true
  | .ctxsv _ _ _ => true
  | .ctxld _ _ => true
  | .tlbi _ _ => true
  | .prd _ _ => true
  | .pwr _ _ => true
  | .strip _ => true
  | .freeze _ _ => true
  | .sevset _ _ => true
  | .ldi _ _ => true
  | .ldiN _ _ => true
  | .issueSpacingEnd => false
  | .contextWake => false
  | .takeTrap => false
  | .stripDone => false
  | .migrantDeparture => false
  | .migrantArrival => false
  | .overflowRefill => false
  | .loadRequest => false
  | .activeMessage => false
  | .remoteUpdateMigrant => false
  | .conditionalAttempt => false
  | .attemptResend => false
  | .waitListPark => false
  | .parkRequestRetry => false
  | .waitListServe => false
  | .cancel => false
  | .cancelAnswer => false
  | .loadReply => false
  | .performedNotice => false
  | .memoryTimeout => false
  | .combineJoin => false
  | .combineClose => false
  | .combineReply => false
  | .walkComplete => false
  | .tlbRemoval => false
  | .tlbiAck => false
  | .icacheInvalidation => false
  | .icinvAck => false
  | .neighbourWrite => false
  | .neighbourWriteLand => false
  | .nwrAck => false
  | .hcallRequest => false
  | .hcallReply => false
  | .saveAreaWrite => false
  | .engineCommandComplete => false
  | .denseSubstep => false
  | .copySourceReply => false
  | .copyWritePerformed => false
  | .stampQuery => false
  | .stampSatisfied => false
  | .drainUp => false
  | .drainAck => false
  | .drainDown => false
  | .counterEntryUe => false
  | .launchRecord => false
  | .gangPlace => false
  | .gangRelease => false
  | .releaseReceived => false
  | .grantRound => false
  | .noticeExpiry => false
  | .droopAlarm => false
  | .thermalReport => false
  | .loanOffer => false
  | .loanRecall => false
  | .loanReturn => false
  | .watchdogExpiry => false
  | .barrierArrival => false
  | .barrierVerdict => false
  | .bwaittTimeout => false
  | .barrierAbortRequest => false
  | .barrierRegistration => false
  | .barrierWithdrawal => false
  | .registrationReply => false
  | .barrierConfigWrite => false
  | .interleaveWrite => false
  | .poolWrite => false
  | .mailboxWrite => false
  | .budgetWrite => false
  | .partitionWrite => false
  | .partitionScrubDone => false
  | .hostirqPost => false
  | .tierMigrationGo => false
  | .bankSparingGo => false
  | .skimRetire => false
  | .skimCopyStep => false
  | .spareCopyStep => false
  | .hotpgRead => false
  | .refusalLogRead => false
  | .brokerCountRead => false
  | .errorLogCountRead => false
  | .lnkfRead => false
  | .linkCountRead => false
  | .attestGo => false
  | .attestDone => false
  | .registerWrite => false
  | .sramScrubRead => false
  | .dramScrubRead => false
  | .meshFlitRetry => false
  | .powerUp => false
  | .bistComplete => false
  | .passTrainingEnd => false
  | .electionKey => false
  | .electionSettled => false
  | .electionRestart => false
  | .gatherReport => false
  | .gatherTimeout => false
  | .islandPlacement => false
  | .summaryCompare => false
  | .coordinates => false
  | .powerFail => false
  | .lowlandGo => false
  | .lowlandSignal => false
  | .lowlandRetain => false
  | .powerGood => false
  | .wake => false
  | .shelfWake => false
  | .passRetrainDone => false
  | .retentionLoss => false
  | .debugFreeze => false
  | .debugRequest => false
  | .hostRequest => false
  | .hostLinkDown => false
  | .hostLinkUp => false
  | .linkFlit => false
  | .ackTimeout => false
  | .phyLockLoss => false
  | .jenoonLinkUp => false
  | .importedRequest => false
  | .mergeArm => false
  | .mergeDisarm => false
  | .mergeAbsorb => false
  | .mergeClose => false
  | .mergeCommitDone => false
  | .cbUnitFinished => false
  | .pcieCompletion => false
  | .debugThaw => false
  | .routeTableWrite => false
/-- A type code of FCVT that names an integer (R63). -/
def intTypeCode (t : BitVec 4) : Bool := t.toNat < 4

/-- The fields hold no value that the instruction's rule reserves. -/
def Instr.fieldsOk : Instr → Bool
  | .plog _ _ _ f => f.toNat < 8                                   -- R143
  | .crd _ n => n.toNat ≤ 0x10                                     -- R64
  | .cwr _ n => n.toNat ≤ 0x10
  | .fcmp c _ _ _ => c.toNat < 6                                   -- R61
  | .fcvt _ _ t f _ => t.toNat ≤ 8 && f.toNat ≤ 8 && t != f && !(intTypeCode t && intTypeCode f)   -- R63
  | .br p s _ => !(p == 0 && s == 1)                               -- R65
  | .ld _ _ s e _ => !(s == 3 && e == 1)                           -- R67
  | .amoF _ _ _ o => o.toNat ≤ 10 && o != 9                        -- R69; op 9 is the row of AMO.CAS.F
  | .amo _ _ o => o.toNat ≤ 10 && o != 9
  | .red _ _ o => o.toNat ≤ 10 && o != 9 && o != 8
  | _ => true

/-- A well-formed instruction: a row with a word, no field reserved. -/
def Instr.wellFormed (i : Instr) : Bool := i.hasWord && i.fieldsOk

end Sys2Proof
end

