-- ==== Sys2Proof/Decode.lean ====
section
/-! DEFINITION. Decoding of instruction words, steps 2 and 3 of R58, and the encoder written from the same tables of spec/03.
The checks of privilege and of register range (steps 4 and 5) need the context and stand with the meanings. -/
namespace Sys2Proof

/-- Why bytes are no instruction: too few of them, a reserved selector (ILLOP), or a nonzero reserved field (RSVFLD). -/
inductive DecodeError
  | truncated
  | illop
  | rsvfld
  deriving DecidableEq, Repr, Inhabited

/-- `n` bits of `w` from bit `lo` up. -/
def fieldOf (w lo n : Nat) : BitVec n := BitVec.ofNat n (w / 2 ^ lo)

/-- The low `n` bits sign-extended to a word (R6). -/
def sext64 {n : Nat} (v : BitVec n) : Word := v.signExtend 64

/-- The low `n` bits zero-extended to a word (R6). -/
def zext64 {n : Nat} (v : BitVec n) : Word := v.setWidth 64

/-- The little-endian number of a list of bytes (R3). -/
def leNat : List Byte → Nat
  | [] => 0
  | b :: bs => b.toNat + 256 * leNat bs

/-- The low `n` bytes of a number, little-endian (R3). -/
def leBytes : Nat → Nat → List Byte
  | 0, _ => []
  | n + 1, v => BitVec.ofNat 8 v :: leBytes n (v / 256)

/-- The d field [25:19]. -/
def fD (w : Nat) : Reg := fieldOf w 19 7
/-- The a field [18:12]. -/
def fA (w : Nat) : Reg := fieldOf w 12 7
/-- The b field [11:5]. -/
def fB (w : Nat) : Reg := fieldOf w 5 7
/-- The fn field [4:0]. -/
def fFn (w : Nat) : Nat := w % 32

/-- Accept `i` if the bits that must be zero are zero, else RSVFLD (R58 step 3). -/
def needZero (z : Bool) (i : Instr) : Except DecodeError Instr :=
  if z then .ok i else .error .rsvfld

/-- Three-register groups: every field is used. -/
def dec3 (k : Reg → Reg → Reg → Instr) (w : Nat) : Except DecodeError Instr := .ok (k (fD w) (fA w) (fB w))
/-- Groups with b "—". -/
def decDA (k : Reg → Reg → Instr) (w : Nat) : Except DecodeError Instr := needZero (fB w == 0) (k (fD w) (fA w))
/-- Groups with d "—". -/
def decAB (k : Reg → Reg → Instr) (w : Nat) : Except DecodeError Instr := needZero (fD w == 0) (k (fA w) (fB w))
/-- Groups with d and b "—". -/
def decA (k : Reg → Instr) (w : Nat) : Except DecodeError Instr := needZero (fD w == 0 && fB w == 0) (k (fA w))
/-- Groups with a and b "—". -/
def decD (k : Reg → Instr) (w : Nat) : Except DecodeError Instr := needZero (fA w == 0 && fB w == 0) (k (fD w))
/-- Groups with no operand. -/
def dec0 (i : Instr) (w : Nat) : Except DecodeError Instr := needZero (fD w == 0 && fA w == 0 && fB w == 0) i

/-- Major 0x01 (R133). -/
def decAlu (w : Nat) : Except DecodeError Instr :=
  match fFn w with
  | 0 => dec3 .add w | 1 => dec3 .sub w | 2 => dec3 .and w | 3 => dec3 .or w
  | 4 => dec3 .xor w | 5 => dec3 .andn w | 6 => dec3 .shl w | 7 => dec3 .shr w
  | 8 => dec3 .sar w | 9 => dec3 .rol w | 10 => dec3 .min w | 11 => dec3 .max w
  | 12 => dec3 .minn w | 13 => dec3 .maxn w | 14 => dec3 .adds w | 15 => dec3 .subs w
  | _ => .error .illop

/-- Major 0x02 (R134). -/
def decMulDiv (w : Nat) : Except DecodeError Instr :=
  match fFn w with
  | 0 => dec3 .mul w | 1 => dec3 .mulh w | 2 => dec3 .mulhn w | 3 => dec3 .div w
  | 4 => dec3 .divn w | 5 => dec3 .rem w | 6 => dec3 .remn w
  | _ => .error .illop

/-- Major 0x03 (R135, R136). -/
def decBit (w : Nat) : Except DecodeError Instr :=
  match fFn w with
  | 0 => decDA .clz w | 1 => decDA .ctz w | 2 => decDA .popc w | 3 => decDA .brev w | 4 => decDA .bswap w
  | 5 => dec3 .bfx w | 6 => dec3 .bfxn w | 7 => dec3 .bfi w
  | _ => .error .illop

/-- Major 0x08 (R60). -/
def decShi (w : Nat) : Except DecodeError Instr :=
  let z := fieldOf w 6 2 == 0
  match w / 2 ^ 8 % 16 with
  | 0 => needZero z (.shli (fD w) (fA w) (fieldOf w 0 6))
  | 1 => needZero z (.shri (fD w) (fA w) (fieldOf w 0 6))
  | 2 => needZero z (.sari (fD w) (fA w) (fieldOf w 0 6))
  | 3 => needZero z (.roli (fD w) (fA w) (fieldOf w 0 6))
  | _ => .error .illop

/-- Major 0x0E (R143). -/
def decPlog (w : Nat) : Except DecodeError Instr :=
  if fFn w < 8 then
    needZero (fieldOf w 23 3 == 0 && fieldOf w 16 3 == 0 && fieldOf w 9 3 == 0)
      (.plog (fieldOf w 19 4) (fieldOf w 12 4) (fieldOf w 5 4) (fieldOf w 0 5))
  else .error .illop

/-- Majors 0x0F and 0x10 (R64, R144). -/
def decCrd (w : Nat) : Except DecodeError Instr :=
  if w % 256 ≤ 0x10 then needZero (fieldOf w 8 4 == 0 && fA w == 0) (.crd (fD w) (fieldOf w 0 8)) else .error .illop
/-- CWR, as CRD with d and a exchanged. -/
def decCwr (w : Nat) : Except DecodeError Instr :=
  if w % 256 ≤ 0x10 then needZero (fieldOf w 8 4 == 0 && fD w == 0) (.cwr (fA w) (fieldOf w 0 8)) else .error .illop

/-- Major 0x11 (R62, R148). -/
def decFp (w : Nat) : Except DecodeError Instr :=
  let rm := fieldOf w 0 2
  match fFn w / 4 with
  | 0 => .ok (.fadd (fD w) (fA w) (fB w) rm)
  | 1 => .ok (.fsub (fD w) (fA w) (fB w) rm)
  | 2 => .ok (.fmul (fD w) (fA w) (fB w) rm)
  | 3 => .ok (.ffma (fD w) (fA w) (fB w) rm)
  | 4 => needZero (rm == 0) (.fmin (fD w) (fA w) (fB w))
  | 5 => needZero (rm == 0) (.fmax (fD w) (fA w) (fB w))
  | 6 => match fFn w % 4 with
    | 0 => dec3 .fsgn w
    | 1 => decDA .fabs w
    | 2 => decDA .fneg w
    | _ => .error .illop
  | _ => .error .illop

/-- Major 0x12 (R62, R148). -/
def decFpx (w : Nat) : Except DecodeError Instr :=
  let rm := fieldOf w 0 2
  let nb := fB w == 0
  match fFn w / 4 with
  | 0 => .ok (.fdiv (fD w) (fA w) (fB w) rm)
  | 1 => needZero nb (.fsqrt (fD w) (fA w) rm)
  | 2 => needZero nb (.frcp (fD w) (fA w) rm)
  | 3 => needZero nb (.frsq (fD w) (fA w) rm)
  | 4 => needZero nb (.fexp2 (fD w) (fA w) rm)
  | 5 => needZero nb (.flog2 (fD w) (fA w) rm)
  | 6 => needZero (nb && rm == 0) (.fclass (fD w) (fA w))
  | _ => if w / 2 ^ 23 % 8 < 6 then needZero (rm == 0) (.fcmp (fieldOf w 23 3) (fieldOf w 19 4) (fA w) (fB w))
         else .error .illop

/-- Major 0x13 (R63, R152). -/
def decFcvt (w : Nat) : Except DecodeError Instr :=
  let i : Instr := .fcvt (fD w) (fA w) (fieldOf w 8 4) (fieldOf w 4 4) (fieldOf w 2 2)
  if i.fieldsOk then needZero (fieldOf w 0 2 == 0) i else .error .illop

/-- Major 0x14 (R65, R293). -/
def decBr (w : Nat) : Except DecodeError Instr :=
  let i : Instr := .br (fieldOf w 22 4) (fieldOf w 21 1) (fieldOf w 0 20)
  if i.fieldsOk then needZero (fieldOf w 20 1 == 0) i else .error .illop

/-- Major 0x17 (R66). -/
def decRepf (w : Nat) : Except DecodeError Instr :=
  if fieldOf w 15 1 == 0 then .ok (.repfConstant (fieldOf w 22 4) (fieldOf w 19 3) (fieldOf w 16 3) (fieldOf w 0 15))
  else needZero (fieldOf w 0 8 == 0) (.repfRegister (fieldOf w 22 4) (fieldOf w 19 3) (fieldOf w 16 3) (fieldOf w 8 7))

/-- Major 0x18 (R302). -/
def decTctl (w : Nat) : Except DecodeError Instr :=
  match fFn w with
  | 0 => dec0 .nop w | 1 => dec0 .yield w | 2 => dec0 .exit w | 3 => dec3 .tstart w | 4 => decA .tstop w
  | _ => .error .illop

/-- Majors 0x19 and 0x1A (R67, R223). -/
def decLd (w : Nat) : Except DecodeError Instr :=
  let i : Instr := .ld (fD w) (fA w) (fieldOf w 10 2) (fieldOf w 9 1) (fieldOf w 0 9)
  needZero i.fieldsOk i
/-- ST: ext must be zero. -/
def decSt (w : Nat) : Except DecodeError Instr :=
  needZero (fieldOf w 9 1 == 0) (.st (fD w) (fA w) (fieldOf w 10 2) (fieldOf w 0 9))

/-- Major 0x1B (R68). -/
def decSync (w : Nat) : Except DecodeError Instr :=
  let o := fieldOf w 0 9
  match w / 2 ^ 9 % 8 with
  | 0 => .ok (.ldfe (fD w) (fA w) o) | 1 => .ok (.ldff (fD w) (fA w) o) | 2 => .ok (.stef (fD w) (fA w) o)
  | 3 => .ok (.stff (fD w) (fA w) o) | 4 => .ok (.stfe (fD w) (fA w) o) | 5 => .ok (.feget (fD w) (fA w) o)
  | 6 => .ok (.feset (fD w) (fA w) o)
  | _ => .error .illop

/-- Major 0x1C (R69, R228). -/
def decAmo (w : Nat) : Except DecodeError Instr :=
  let op := w / 2 % 16
  if 10 < op then .error .illop
  else if w % 2 = 1 then
    if op = 9 then dec3 .amoCasF w else .ok (.amoF (fD w) (fA w) (fB w) (fieldOf w 1 4))
  else if op = 9 then .error .illop
  else needZero (fD w == 0) (.amo (fA w) (fB w) (fieldOf w 1 4))

/-- Major 0x1D (R69, R228). -/
def decRed (w : Nat) : Except DecodeError Instr :=
  let op := w / 2 % 16
  if op ≤ 10 ∧ op ≠ 8 ∧ op ≠ 9 then needZero (fD w == 0 && fieldOf w 0 1 == 0) (.red (fA w) (fB w) (fieldOf w 1 4))
  else .error .illop

/-- Major 0x1E (R70, R230). -/
def decMemctl (w : Nat) : Except DecodeError Instr :=
  match fFn w with
  | 0 => dec0 .fenceT w | 1 => dec0 .fenceW w | 2 => dec0 .fenceS w
  | 3 => needZero (fieldOf w 5 5 == 0) (.waitc (fieldOf w 22 4) (fieldOf w 18 4) (fieldOf w 14 4) (fieldOf w 10 4))
  | 4 => decA .migrate w | 5 => decAB .icinv w
  | _ => .error .illop

/-- Major 0x1F (R233). -/
def decXslot (w : Nat) : Except DecodeError Instr :=
  match fFn w with
  | 0 => dec3 .xmov w | 1 => decDA .borrow w | 2 => decA .retn w
  | _ => .error .illop

/-- Major 0x20 (R237). -/
def decNeigh (w : Nat) : Except DecodeError Instr :=
  match fFn w with
  | 0 => needZero (fieldOf w 7 5 == 0) (.nwr (fieldOf w 19 7) (fA w) (fieldOf w 5 2))
  | 1 => decD .narm w | 2 => decDA .npres w
  | _ => .error .illop

/-- Majors 0x21 to 0x24 (R164, R165, R167, R168). -/
def decVop (w : Nat) : Except DecodeError Instr :=
  match fFn w with
  | 0 => dec3 .vadd w | 1 => dec3 .vsub w | 2 => dec3 .vmul w | 3 => dec3 .vfma w | 4 => dec3 .vmin w | 5 => dec3 .vmax w
  | 6 => dec3 .vand w | 7 => dec3 .vor w | 8 => dec3 .vxor w | 9 => dec3 .vshl w | 10 => dec3 .vcmp w | 11 => dec3 .vsel w
  | _ => .error .illop
/-- VUN. -/
def decVun (w : Nat) : Except DecodeError Instr :=
  match fFn w with
  | 0 => decDA .vcvt w | 1 => decDA .vexp w | 2 => decDA .vrcp w | 3 => decDA .vrsq w | 4 => decDA .vabs w
  | 5 => decDA .vneg w | 6 => decDA .vmov w | 7 => decDA .vsoft w | 8 => decDA .vfill w | 9 => dec3 .vmask w
  | _ => .error .illop
/-- VRED. -/
def decVred (w : Nat) : Except DecodeError Instr :=
  match fFn w with
  | 0 => decDA .vsum w | 1 => decDA .vmaxr w | 2 => decDA .vminr w | 3 => decDA .vscan w
  | _ => .error .illop
/-- VMEM. -/
def decVmem (w : Nat) : Except DecodeError Instr :=
  match fFn w with
  | 0 => dec3 .vgath w | 1 => dec3 .vscat w
  | _ => .error .illop

/-- Major 0x25 (R172). -/
def decMx (w : Nat) : Except DecodeError Instr :=
  let blk := fieldOf w 2 1
  if 8 ≤ fFn w then .error .illop
  else match fFn w % 4 with
    | 0 => .ok (.mxa (fD w) (fA w) (fB w) blk)
    | 1 => .ok (.mxag (fD w) (fA w) (fB w) blk)
    | 2 => .ok (.mxsp (fD w) (fA w) (fB w) blk)
    | _ => .error .illop

/-- Major 0x26 (R173). -/
def decAcc (w : Nat) : Except DecodeError Instr :=
  match fFn w with
  | 0 => decD .ezero w | 1 => decDA .eacc w | 2 => dec3 .edrn w | 3 => dec3 .eread w
  | _ => .error .illop

/-- Major 0x27 (R174). -/
def decPlane (w : Nat) : Except DecodeError Instr :=
  match fFn w with
  | 0 => dec3 .bppack w | 1 => decDA .bpunpk w | 2 => dec3 .bscl w
  | _ => .error .illop

/-- A stream field: its high four bits must be zero (R72). -/
def streamOk (w lo : Nat) : Bool := fieldOf w (lo + 3) 4 == 0

/-- Major 0x28 (R179, R180). -/
def decStrm (w : Nat) : Except DecodeError Instr :=
  match fFn w with
  | 0 => needZero (streamOk w 19 && fB w == 0) (.ssopen (fieldOf w 19 3) (fA w))
  | 1 => needZero (fD w == 0 && streamOk w 12 && fB w == 0) (.ssclose (fieldOf w 12 3))
  | 2 => needZero (streamOk w 12 && fB w == 0) (.ssnext (fD w) (fieldOf w 12 3))
  | 3 => needZero (streamOk w 12 && fB w == 0) (.sspos (fD w) (fieldOf w 12 3))
  | 4 => needZero (streamOk w 12 && streamOk w 5) (.sisect (fD w) (fieldOf w 12 3) (fieldOf w 5 3))
  | 5 => needZero (streamOk w 12 && streamOk w 5) (.simerge (fD w) (fieldOf w 12 3) (fieldOf w 5 3))
  | _ => .error .illop

/-- Major 0x29 (R245). -/
def decCb (w : Nat) : Except DecodeError Instr :=
  match fFn w with
  | 0 => decA .cbcfg w | 1 => decDA .cbpush w | 2 => decDA .cbpop w | 3 => dec0 .cbflush w | 4 => decD .cbstat w
  | _ => .error .illop

/-- Major 0x2A (R240). -/
def decCpy (w : Nat) : Except DecodeError Instr :=
  match fFn w with
  | 0 => decDA .cpy w | 1 => decDA .cpwp w | 2 => dec3 .cpcast w
  | _ => .error .illop

/-- Major 0x2B (R307). -/
def decGrp (w : Nat) : Except DecodeError Instr :=
  let g := fieldOf w 12 7
  let z := fD w == 0 && fB w == 0
  match fFn w with
  | 0 => needZero z (.gjoin g) | 1 => needZero z (.gleave g) | 2 => needZero z (.barr g)
  | 3 => needZero z (.bwait g) | 4 => needZero z (.barw g)
  | 5 => .ok (.bwaitt (fD w) g (fB w))
  | _ => .error .illop

/-- Major 0x2C (R313). -/
def decTask (w : Nat) : Except DecodeError Instr :=
  match fFn w with
  | 0 => decDA .spawn w | 1 => dec3 .qpush w | 2 => decDA .qpop w
  | 3 => decAB .drinc w | 4 => decAB .drdec w | 5 => decDA .drwait w
  | _ => .error .illop

/-- Major 0x2D (R318). -/
def decToken (w : Nat) : Except DecodeError Instr :=
  match fFn w with
  | 0 => decDA .tkreq w | 1 => decA .tkrel w | 2 => dec3 .tklend w | 3 => decD .tkqry w | 4 => decA .ecls w
  | _ => .error .illop

/-- Major 0x2E (R319). -/
def decRdn (w : Nat) : Except DecodeError Instr :=
  match fFn w with
  | 0 => decD .rdnon w | 1 => dec0 .rdnoff w | 2 => decD .rdnchk w
  | _ => .error .illop

/-- Major 0x3C (R73, R344). -/
def decSys (w : Nat) : Except DecodeError Instr :=
  let z := fD w == 0 && fA w == 0
  match w / 2 ^ 10 % 4 with
  | 0 => needZero z (.trap (fieldOf w 0 10))
  | 1 => needZero z (.hcall (fieldOf w 0 10))
  | 2 => needZero (z && fieldOf w 0 10 == 0) .eret
  | _ => .error .illop

/-- Major 0x3D (R348). -/
def decPriv (w : Nat) : Except DecodeError Instr :=
  match fFn w with
  | 0 => dec3 .ctxsv w | 1 => decDA .ctxld w | 2 => decAB .tlbi w | 3 => decDA .prd w
  | 4 => decAB .pwr w | 5 => decA .strip w | 6 => decAB .freeze w | 7 => decAB .sevset w
  | _ => .error .illop

/-- Major 0x3F, with the second word (R74, R140). -/
def decLong (w w2 : Nat) : Except DecodeError Instr :=
  let imm : BitVec 48 := BitVec.ofNat 48 (w % 2 ^ 16 * 2 ^ 32 + w2 % 2 ^ 32)
  match w / 2 ^ 16 % 8 with
  | 0 => .ok (.ldi (fD w) imm)
  | 1 => .ok (.ldiN (fD w) imm)
  | _ => .error .illop

/-- Decoding of one word by its major opcode (R59); `w2` is the word after it, read by major 0x3F alone. -/
def decodeWord (w w2 : Nat) : Except DecodeError Instr :=
  match w / 2 ^ 26 % 64 with
  | 0x01 => decAlu w
  | 0x02 => decMulDiv w
  | 0x03 => decBit w
  | 0x04 => .ok (.addi (fD w) (fA w) (fieldOf w 0 12))
  | 0x05 => .ok (.andi (fD w) (fA w) (fieldOf w 0 12))
  | 0x06 => .ok (.ori (fD w) (fA w) (fieldOf w 0 12))
  | 0x07 => .ok (.xori (fD w) (fA w) (fieldOf w 0 12))
  | 0x08 => decShi w
  | 0x09 => needZero (fFn w == 0) (.cmp (fieldOf w 23 3) (fieldOf w 19 4) (fA w) (fB w))
  | 0x0A => .ok (.cmpi (fieldOf w 23 3) (fieldOf w 19 4) (fA w) (fieldOf w 0 12))
  | 0x0B => .ok (.lui (fD w) (fieldOf w 0 19))
  | 0x0C => .ok (.addpc (fD w) (fieldOf w 0 19))
  | 0x0D => .ok (.sel (fD w) (fA w) (fB w) (fieldOf w 4 1) (fieldOf w 0 4))
  | 0x0E => decPlog w
  | 0x0F => decCrd w
  | 0x10 => decCwr w
  | 0x11 => decFp w
  | 0x12 => decFpx w
  | 0x13 => decFcvt w
  | 0x14 => decBr w
  | 0x15 => .ok (.call (fD w) (fieldOf w 0 19))
  | 0x16 => .ok (.jr (fD w) (fA w) (fieldOf w 0 12))
  | 0x17 => decRepf w
  | 0x18 => decTctl w
  | 0x19 => decLd w
  | 0x1A => decSt w
  | 0x1B => decSync w
  | 0x1C => decAmo w
  | 0x1D => decRed w
  | 0x1E => decMemctl w
  | 0x1F => decXslot w
  | 0x20 => decNeigh w
  | 0x21 => decVop w
  | 0x22 => decVun w
  | 0x23 => decVred w
  | 0x24 => decVmem w
  | 0x25 => decMx w
  | 0x26 => decAcc w
  | 0x27 => decPlane w
  | 0x28 => decStrm w
  | 0x29 => decCb w
  | 0x2A => decCpy w
  | 0x2B => decGrp w
  | 0x2C => decTask w
  | 0x2D => decToken w
  | 0x2E => decRdn w
  | 0x3C => decSys w
  | 0x3D => decPriv w
  | 0x3F => decLong w w2
  | _ => .error .illop

/-- LDI is the one instruction of two words (R54). -/
def isLong (w : Nat) : Bool := w / 2 ^ 26 % 64 == 0x3F

/-- Words of an instruction whose first word is `w`. -/
def lenWords (w : Nat) : Nat := if isLong w then 2 else 1

/-- Decode the first instruction of a list of bytes and answer the rest (R54: words are little-endian). -/
def decode (bs : List Byte) : Except DecodeError (Instr × List Byte) :=
  if bs.length < 4 then .error .truncated
  else
    let w := leNat (bs.take 4)
    if isLong w && bs.length < 8 then .error .truncated
    else
      let r := bs.drop 4
      match decodeWord w (if isLong w then leNat (r.take 4) else 0) with
      | .ok i => .ok (i, if isLong w then r.drop 4 else r)
      | .error e => .error e

/-- A field put at bit `lo` of a word. -/
def putAt {n : Nat} (v : BitVec n) (lo w : Nat) : Nat := w + v.toNat * 2 ^ lo
/-- Words of the three-register shape, and of the shapes with fields "—" (R55). -/
def enc3 (m : Nat) (d a b : Reg) : List Nat := [m + d.toNat * 2 ^ 19 + a.toNat * 2 ^ 12 + b.toNat * 2 ^ 5]
/-- d and a. -/
def encDA (m : Nat) (d a : Reg) : List Nat := [m + d.toNat * 2 ^ 19 + a.toNat * 2 ^ 12]
/-- a and b. -/
def encAB (m : Nat) (a b : Reg) : List Nat := [m + a.toNat * 2 ^ 12 + b.toNat * 2 ^ 5]
/-- a alone. -/
def encA (m : Nat) (a : Reg) : List Nat := [m + a.toNat * 2 ^ 12]
/-- d alone. -/
def encD (m : Nat) (d : Reg) : List Nat := [m + d.toNat * 2 ^ 19]
/-- No operand. -/
def enc0 (m : Nat) : List Nat := [m]
/-- The two words of LDI (R74). -/
def encLong (m : Nat) (d : Reg) (imm : BitVec 48) : List Nat :=
  [m + d.toNat * 2 ^ 19 + imm.toNat / 2 ^ 32, imm.toNat % 2 ^ 32]

/-- The words of an instruction, from the encoding tables of spec/03; an event has none. -/
def encode : Instr → List Nat
  | .add d a b => enc3 0x04000000 d a b
  | .sub d a b => enc3 0x04000001 d a b
  | .and d a b => enc3 0x04000002 d a b
  | .or d a b => enc3 0x04000003 d a b
  | .xor d a b => enc3 0x04000004 d a b
  | .andn d a b => enc3 0x04000005 d a b
  | .shl d a b => enc3 0x04000006 d a b
  | .shr d a b => enc3 0x04000007 d a b
  | .sar d a b => enc3 0x04000008 d a b
  | .rol d a b => enc3 0x04000009 d a b
  | .min d a b => enc3 0x0400000A d a b
  | .max d a b => enc3 0x0400000B d a b
  | .minn d a b => enc3 0x0400000C d a b
  | .maxn d a b => enc3 0x0400000D d a b
  | .adds d a b => enc3 0x0400000E d a b
  | .subs d a b => enc3 0x0400000F d a b
  | .mul d a b => enc3 0x08000000 d a b
  | .mulh d a b => enc3 0x08000001 d a b
  | .mulhn d a b => enc3 0x08000002 d a b
  | .div d a b => enc3 0x08000003 d a b
  | .divn d a b => enc3 0x08000004 d a b
  | .rem d a b => enc3 0x08000005 d a b
  | .remn d a b => enc3 0x08000006 d a b
  | .clz d a => encDA 0x0C000000 d a
  | .ctz d a => encDA 0x0C000001 d a
  | .popc d a => encDA 0x0C000002 d a
  | .brev d a => encDA 0x0C000003 d a
  | .bswap d a => encDA 0x0C000004 d a
  | .bfx d a b => enc3 0x0C000005 d a b
  | .bfxn d a b => enc3 0x0C000006 d a b
  | .bfi d a b => enc3 0x0C000007 d a b
  | .addi d a imm => [putAt imm 0 (putAt a 12 (putAt d 19 (0x10000000)))]
  | .andi d a imm => [putAt imm 0 (putAt a 12 (putAt d 19 (0x14000000)))]
  | .ori d a imm => [putAt imm 0 (putAt a 12 (putAt d 19 (0x18000000)))]
  | .xori d a imm => [putAt imm 0 (putAt a 12 (putAt d 19 (0x1C000000)))]
  | .shli d a sh => [putAt sh 0 (putAt a 12 (putAt d 19 (0x20000000)))]
  | .shri d a sh => [putAt sh 0 (putAt a 12 (putAt d 19 (0x20000100)))]
  | .sari d a sh => [putAt sh 0 (putAt a 12 (putAt d 19 (0x20000200)))]
  | .roli d a sh => [putAt sh 0 (putAt a 12 (putAt d 19 (0x20000300)))]
  | .cmp c p a b => [putAt b 5 (putAt a 12 (putAt p 19 (putAt c 23 (0x24000000))))]
  | .cmpi c p a imm => [putAt imm 0 (putAt a 12 (putAt p 19 (putAt c 23 (0x28000000))))]
  | .lui d imm => [putAt imm 0 (putAt d 19 (0x2C000000))]
  | .addpc d imm => [putAt imm 0 (putAt d 19 (0x30000000))]
  | .sel d a b s p => [putAt p 0 (putAt s 4 (putAt b 5 (putAt a 12 (putAt d 19 (0x34000000)))))]
  | .plog d a b f => [putAt f 0 (putAt b 5 (putAt a 12 (putAt d 19 (0x38000000))))]
  | .crd d n => [putAt n 0 (putAt d 19 (0x3C000000))]
  | .cwr a n => [putAt n 0 (putAt a 12 (0x40000000))]
  | .fadd d a b rm => [putAt rm 0 (putAt b 5 (putAt a 12 (putAt d 19 (0x44000000))))]
  | .fsub d a b rm => [putAt rm 0 (putAt b 5 (putAt a 12 (putAt d 19 (0x44000004))))]
  | .fmul d a b rm => [putAt rm 0 (putAt b 5 (putAt a 12 (putAt d 19 (0x44000008))))]
  | .ffma d a b rm => [putAt rm 0 (putAt b 5 (putAt a 12 (putAt d 19 (0x4400000C))))]
  | .fmin d a b => enc3 0x44000010 d a b
  | .fmax d a b => enc3 0x44000014 d a b
  | .fsgn d a b => enc3 0x44000018 d a b
  | .fabs d a => encDA 0x44000019 d a
  | .fneg d a => encDA 0x4400001A d a
  | .fdiv d a b rm => [putAt rm 0 (putAt b 5 (putAt a 12 (putAt d 19 (0x48000000))))]
  | .fsqrt d a rm => [putAt rm 0 (putAt a 12 (putAt d 19 (0x48000004)))]
  | .frcp d a rm => [putAt rm 0 (putAt a 12 (putAt d 19 (0x48000008)))]
  | .frsq d a rm => [putAt rm 0 (putAt a 12 (putAt d 19 (0x4800000C)))]
  | .fexp2 d a rm => [putAt rm 0 (putAt a 12 (putAt d 19 (0x48000010)))]
  | .flog2 d a rm => [putAt rm 0 (putAt a 12 (putAt d 19 (0x48000014)))]
  | .fclass d a => encDA 0x48000018 d a
  | .fcmp c p a b => [putAt b 5 (putAt a 12 (putAt p 19 (putAt c 23 (0x4800001C))))]
  | .fcvt d a t f rm => [putAt rm 2 (putAt f 4 (putAt t 8 (putAt a 12 (putAt d 19 (0x4C000000)))))]
  | .br p s o => [putAt o 0 (putAt s 21 (putAt p 22 (0x50000000)))]
  | .call d imm => [putAt imm 0 (putAt d 19 (0x54000000))]
  | .jr d a imm => [putAt imm 0 (putAt a 12 (putAt d 19 (0x58000000)))]
  | .repfConstant n s m c => [putAt c 0 (putAt m 16 (putAt s 19 (putAt n 22 (0x5C000000))))]
  | .repfRegister n s m a => [putAt a 8 (putAt m 16 (putAt s 19 (putAt n 22 (0x5C008000))))]
  | .nop => enc0 0x60000000
  | .yield => enc0 0x60000001
  | .exit => enc0 0x60000002
  | .tstart d a b => enc3 0x60000003 d a b
  | .tstop a => encA 0x60000004 a
  | .ld d a s e o => [putAt o 0 (putAt e 9 (putAt s 10 (putAt a 12 (putAt d 19 (0x64000000)))))]
  | .st d a s o => [putAt o 0 (putAt s 10 (putAt a 12 (putAt d 19 (0x68000000))))]
  | .ldfe d a o => [putAt o 0 (putAt a 12 (putAt d 19 (0x6C000000)))]
  | .ldff d a o => [putAt o 0 (putAt a 12 (putAt d 19 (0x6C000200)))]
  | .stef d a o => [putAt o 0 (putAt a 12 (putAt d 19 (0x6C000400)))]
  | .stff d a o => [putAt o 0 (putAt a 12 (putAt d 19 (0x6C000600)))]
  | .stfe d a o => [putAt o 0 (putAt a 12 (putAt d 19 (0x6C000800)))]
  | .feget d a o => [putAt o 0 (putAt a 12 (putAt d 19 (0x6C000A00)))]
  | .feset d a o => [putAt o 0 (putAt a 12 (putAt d 19 (0x6C000C00)))]
  | .amoF d a b o => [putAt o 1 (putAt b 5 (putAt a 12 (putAt d 19 (0x70000001))))]
  | .amoCasF d a b => enc3 0x70000013 d a b
  | .amo a b o => [putAt o 1 (putAt b 5 (putAt a 12 (0x70000000)))]
  | .red a b o => [putAt o 1 (putAt b 5 (putAt a 12 (0x74000000)))]
  | .fenceT => enc0 0x78000000
  | .fenceW => enc0 0x78000001
  | .fenceS => enc0 0x78000002
  | .waitc m c s l => [putAt l 10 (putAt s 14 (putAt c 18 (putAt m 22 (0x78000003))))]
  | .migrate a => encA 0x78000004 a
  | .icinv a b => encAB 0x78000005 a b
  | .xmov d a b => enc3 0x7C000000 d a b
  | .borrow d a => encDA 0x7C000001 d a
  | .retn a => encA 0x7C000002 a
  | .nwr n a k => [putAt k 5 (putAt a 12 (putAt n 19 (0x80000000)))]
  | .narm d => encD 0x80000001 d
  | .npres d a => encDA 0x80000002 d a
  | .vadd d a b => enc3 0x84000000 d a b
  | .vsub d a b => enc3 0x84000001 d a b
  | .vmul d a b => enc3 0x84000002 d a b
  | .vfma d a b => enc3 0x84000003 d a b
  | .vmin d a b => enc3 0x84000004 d a b
  | .vmax d a b => enc3 0x84000005 d a b
  | .vand d a b => enc3 0x84000006 d a b
  | .vor d a b => enc3 0x84000007 d a b
  | .vxor d a b => enc3 0x84000008 d a b
  | .vshl d a b => enc3 0x84000009 d a b
  | .vcmp d a b => enc3 0x8400000A d a b
  | .vsel d a b => enc3 0x8400000B d a b
  | .vcvt d a => encDA 0x88000000 d a
  | .vexp d a => encDA 0x88000001 d a
  | .vrcp d a => encDA 0x88000002 d a
  | .vrsq d a => encDA 0x88000003 d a
  | .vabs d a => encDA 0x88000004 d a
  | .vneg d a => encDA 0x88000005 d a
  | .vmov d a => encDA 0x88000006 d a
  | .vsoft d a => encDA 0x88000007 d a
  | .vfill d a => encDA 0x88000008 d a
  | .vmask d a b => enc3 0x88000009 d a b
  | .vsum d a => encDA 0x8C000000 d a
  | .vmaxr d a => encDA 0x8C000001 d a
  | .vminr d a => encDA 0x8C000002 d a
  | .vscan d a => encDA 0x8C000003 d a
  | .vgath d a b => enc3 0x90000000 d a b
  | .vscat d a b => enc3 0x90000001 d a b
  | .mxa d a b w => [putAt w 2 (putAt b 5 (putAt a 12 (putAt d 19 (0x94000000))))]
  | .mxag d a b w => [putAt w 2 (putAt b 5 (putAt a 12 (putAt d 19 (0x94000001))))]
  | .mxsp d a b w => [putAt w 2 (putAt b 5 (putAt a 12 (putAt d 19 (0x94000002))))]
  | .ezero d => encD 0x98000000 d
  | .eacc d a => encDA 0x98000001 d a
  | .edrn d a b => enc3 0x98000002 d a b
  | .eread d a b => enc3 0x98000003 d a b
  | .bppack d a b => enc3 0x9C000000 d a b
  | .bpunpk d a => encDA 0x9C000001 d a
  | .bscl d a b => enc3 0x9C000002 d a b
  | .ssopen s a => [putAt a 12 (putAt s 19 (0xA0000000))]
  | .ssclose s => [putAt s 12 (0xA0000001)]
  | .ssnext d s => [putAt s 12 (putAt d 19 (0xA0000002))]
  | .sspos d s => [putAt s 12 (putAt d 19 (0xA0000003))]
  | .sisect d s t => [putAt t 5 (putAt s 12 (putAt d 19 (0xA0000004)))]
  | .simerge d s t => [putAt t 5 (putAt s 12 (putAt d 19 (0xA0000005)))]
  | .cbcfg a => encA 0xA4000000 a
  | .cbpush d a => encDA 0xA4000001 d a
  | .cbpop d a => encDA 0xA4000002 d a
  | .cbflush => enc0 0xA4000003
  | .cbstat d => encD 0xA4000004 d
  | .cpy d a => encDA 0xA8000000 d a
  | .cpwp d a => encDA 0xA8000001 d a
  | .cpcast d a b => enc3 0xA8000002 d a b
  | .gjoin g => [putAt g 12 (0xAC000000)]
  | .gleave g => [putAt g 12 (0xAC000001)]
  | .barr g => [putAt g 12 (0xAC000002)]
  | .bwait g => [putAt g 12 (0xAC000003)]
  | .barw g => [putAt g 12 (0xAC000004)]
  | .bwaitt d g b => [putAt b 5 (putAt g 12 (putAt d 19 (0xAC000005)))]
  | .spawn d a => encDA 0xB0000000 d a
  | .qpush d a b => enc3 0xB0000001 d a b
  | .qpop d a => encDA 0xB0000002 d a
  | .drinc a b => encAB 0xB0000003 a b
  | .drdec a b => encAB 0xB0000004 a b
  | .drwait d a => encDA 0xB0000005 d a
  | .tkreq d a => encDA 0xB4000000 d a
  | .tkrel a => encA 0xB4000001 a
  | .tklend d a b => enc3 0xB4000002 d a b
  | .tkqry d => encD 0xB4000003 d
  | .ecls a => encA 0xB4000004 a
  | .rdnon d => encD 0xB8000000 d
  | .rdnoff => enc0 0xB8000001
  | .rdnchk d => encD 0xB8000002 d
  | .trap c => [putAt c 0 (0xF0000000)]
  | .hcall c => [putAt c 0 (0xF0000400)]
  | .eret => enc0 0xF0000800
  | .ctxsv d a b => enc3 0xF4000000 d a b
  | .ctxld d a => encDA 0xF4000001 d a
  | .tlbi a b => encAB 0xF4000002 a b
  | .prd d a => encDA 0xF4000003 d a
  | .pwr a b => encAB 0xF4000004 a b
  | .strip a => encA 0xF4000005 a
  | .freeze a b => encAB 0xF4000006 a b
  | .sevset a b => encAB 0xF4000007 a b
  | .ldi d imm => encLong 0xFC000000 d imm
  | .ldiN d imm => encLong 0xFC010000 d imm
  | _ => []

/-- The bytes of words as memory holds them (R3). -/
def wordBytes : List Nat → List Byte
  | [] => []
  | w :: ws => leBytes 4 w ++ wordBytes ws

/-- What the decoder reads from a word numbered as the table numbers it; the second word of LDI is zero. -/
def decodeTableWord (nbits w : Nat) : Option Instr :=
  match decode (leBytes 8 (w % 2 ^ nbits)) with
  | .ok (i, _) => some i
  | .error _ => none

/-- Register fields of an instruction that name registers of the issuing context, as (d, a, b) (R56, R71): `none` where the field
holds something else or nothing. -/
def Instr.regFields : Instr → Option Reg × Option Reg × Option Reg
  | .add d a b => (some d, some a, some b)
  | .sub d a b => (some d, some a, some b)
  | .and d a b => (some d, some a, some b)
  | .or d a b => (some d, some a, some b)
  | .xor d a b => (some d, some a, some b)
  | .andn d a b => (some d, some a, some b)
  | .shl d a b => (some d, some a, some b)
  | .shr d a b => (some d, some a, some b)
  | .sar d a b => (some d, some a, some b)
  | .rol d a b => (some d, some a, some b)
  | .min d a b => (some d, some a, some b)
  | .max d a b => (some d, some a, some b)
  | .minn d a b => (some d, some a, some b)
  | .maxn d a b => (some d, some a, some b)
  | .adds d a b => (some d, some a, some b)
  | .subs d a b => (some d, some a, some b)
  | .mul d a b => (some d, some a, some b)
  | .mulh d a b => (some d, some a, some b)
  | .mulhn d a b => (some d, some a, some b)
  | .div d a b => (some d, some a, some b)
  | .divn d a b => (some d, some a, some b)
  | .rem d a b => (some d, some a, some b)
  | .remn d a b => (some d, some a, some b)
  | .clz d a => (some d, some a, none)
  | .ctz d a => (some d, some a, none)
  | .popc d a => (some d, some a, none)
  | .brev d a => (some d, some a, none)
  | .bswap d a => (some d, some a, none)
  | .bfx d a b => (some d, some a, some b)
  | .bfxn d a b => (some d, some a, some b)
  | .bfi d a b => (some d, some a, some b)
  | .addi d a _ => (some d, some a, none)
  | .andi d a _ => (some d, some a, none)
  | .ori d a _ => (some d, some a, none)
  | .xori d a _ => (some d, some a, none)
  | .shli d a _ => (some d, some a, none)
  | .shri d a _ => (some d, some a, none)
  | .sari d a _ => (some d, some a, none)
  | .roli d a _ => (some d, some a, none)
  | .cmp _ _ a b => (none, some a, some b)
  | .cmpi _ _ a _ => (none, some a, none)
  | .lui d _ => (some d, none, none)
  | .addpc d _ => (some d, none, none)
  | .sel d a b _ _ => (some d, some a, some b)
  | .crd d _ => (some d, none, none)
  | .cwr a _ => (none, some a, none)
  | .fadd d a b _ => (some d, some a, some b)
  | .fsub d a b _ => (some d, some a, some b)
  | .fmul d a b _ => (some d, some a, some b)
  | .ffma d a b _ => (some d, some a, some b)
  | .fmin d a b => (some d, some a, some b)
  | .fmax d a b => (some d, some a, some b)
  | .fsgn d a b => (some d, some a, some b)
  | .fabs d a => (some d, some a, none)
  | .fneg d a => (some d, some a, none)
  | .fdiv d a b _ => (some d, some a, some b)
  | .fsqrt d a _ => (some d, some a, none)
  | .frcp d a _ => (some d, some a, none)
  | .frsq d a _ => (some d, some a, none)
  | .fexp2 d a _ => (some d, some a, none)
  | .flog2 d a _ => (some d, some a, none)
  | .fclass d a => (some d, some a, none)
  | .fcmp _ _ a b => (none, some a, some b)
  | .fcvt d a _ _ _ => (some d, some a, none)
  | .call d _ => (some d, none, none)
  | .jr d a _ => (some d, some a, none)
  | .tstart d a b => (some d, some a, some b)
  | .tstop a => (none, some a, none)
  | .ld d a _ _ _ => (some d, some a, none)
  | .st d a _ _ => (some d, some a, none)
  | .ldfe d a _ => (some d, some a, none)
  | .ldff d a _ => (some d, some a, none)
  | .stef d a _ => (some d, some a, none)
  | .stff d a _ => (some d, some a, none)
  | .stfe d a _ => (some d, some a, none)
  | .feget d a _ => (some d, some a, none)
  | .feset d a _ => (some d, some a, none)
  | .amoF d a b _ => (some d, some a, some b)
  | .amoCasF d a b => (some d, some a, some b)
  | .amo a b _ => (none, some a, some b)
  | .red a b _ => (none, some a, some b)
  | .migrate a => (none, some a, none)
  | .icinv a b => (none, some a, some b)
  | .xmov d a b => (some d, some a, some b)
  | .borrow d a => (some d, some a, none)
  | .retn a => (none, some a, none)
  | .nwr _ a _ => (none, some a, none)
  | .narm d => (some d, none, none)
  | .npres d a => (some d, some a, none)
  | .vadd d a b => (some d, some a, some b)
  | .vsub d a b => (some d, some a, some b)
  | .vmul d a b => (some d, some a, some b)
  | .vfma d a b => (some d, some a, some b)
  | .vmin d a b => (some d, some a, some b)
  | .vmax d a b => (some d, some a, some b)
  | .vand d a b => (some d, some a, some b)
  | .vor d a b => (some d, some a, some b)
  | .vxor d a b => (some d, some a, some b)
  | .vshl d a b => (some d, some a, some b)
  | .vcmp d a b => (some d, some a, some b)
  | .vsel d a b => (some d, some a, some b)
  | .vcvt d a => (some d, some a, none)
  | .vexp d a => (some d, some a, none)
  | .vrcp d a => (some d, some a, none)
  | .vrsq d a => (some d, some a, none)
  | .vabs d a => (some d, some a, none)
  | .vneg d a => (some d, some a, none)
  | .vmov d a => (some d, some a, none)
  | .vsoft d a => (some d, some a, none)
  | .vfill d a => (some d, some a, none)
  | .vmask d a b => (some d, some a, some b)
  | .vsum d a => (some d, some a, none)
  | .vmaxr d a => (some d, some a, none)
  | .vminr d a => (some d, some a, none)
  | .vscan d a => (some d, some a, none)
  | .vgath d a b => (some d, some a, some b)
  | .vscat d a b => (some d, some a, some b)
  | .mxa d a b _ => (some d, some a, some b)
  | .mxag d a b _ => (some d, some a, some b)
  | .mxsp d a b _ => (some d, some a, some b)
  | .ezero d => (some d, none, none)
  | .eacc d a => (some d, some a, none)
  | .edrn d a b => (some d, some a, some b)
  | .eread d a b => (some d, some a, some b)
  | .bppack d a b => (some d, some a, some b)
  | .bpunpk d a => (some d, some a, none)
  | .bscl d a b => (some d, some a, some b)
  | .ssopen _ a => (none, some a, none)
  | .ssnext d _ => (some d, none, none)
  | .sspos d _ => (some d, none, none)
  | .sisect d _ _ => (some d, none, none)
  | .simerge d _ _ => (some d, none, none)
  | .cbcfg a => (none, some a, none)
  | .cbpush d a => (some d, some a, none)
  | .cbpop d a => (some d, some a, none)
  | .cbstat d => (some d, none, none)
  | .cpy d a => (some d, some a, none)
  | .cpwp d a => (some d, some a, none)
  | .cpcast d a b => (some d, some a, some b)
  | .bwaitt d _ b => (some d, none, some b)
  | .spawn d a => (some d, some a, none)
  | .qpush d a b => (some d, some a, some b)
  | .qpop d a => (some d, some a, none)
  | .drinc a b => (none, some a, some b)
  | .drdec a b => (none, some a, some b)
  | .drwait d a => (some d, some a, none)
  | .tkreq d a => (some d, some a, none)
  | .tkrel a => (none, some a, none)
  | .tklend d a b => (some d, some a, some b)
  | .tkqry d => (some d, none, none)
  | .ecls a => (none, some a, none)
  | .rdnon d => (some d, none, none)
  | .rdnchk d => (some d, none, none)
  | .ctxsv d a b => (some d, some a, some b)
  | .ctxld d a => (some d, some a, none)
  | .tlbi a b => (none, some a, some b)
  | .prd d a => (some d, some a, none)
  | .pwr a b => (none, some a, some b)
  | .strip a => (none, some a, none)
  | .freeze a b => (none, some a, some b)
  | .sevset a b => (none, some a, some b)
  | .ldi d _ => (some d, none, none)
  | .ldiN d _ => (some d, none, none)
  | .repfRegister _ _ _ a => (none, some a, none)
  | _ => (none, none, none)

/-- The instruction with its register fields changed: field 0 is d, 1 is a, 2 is b (R298: what a repeat frame steps). -/
def Instr.mapRegs (g : Nat → Reg → Reg) : Instr → Instr
  | .add d a b => .add (g 0 d) (g 1 a) (g 2 b)
  | .sub d a b => .sub (g 0 d) (g 1 a) (g 2 b)
  | .and d a b => .and (g 0 d) (g 1 a) (g 2 b)
  | .or d a b => .or (g 0 d) (g 1 a) (g 2 b)
  | .xor d a b => .xor (g 0 d) (g 1 a) (g 2 b)
  | .andn d a b => .andn (g 0 d) (g 1 a) (g 2 b)
  | .shl d a b => .shl (g 0 d) (g 1 a) (g 2 b)
  | .shr d a b => .shr (g 0 d) (g 1 a) (g 2 b)
  | .sar d a b => .sar (g 0 d) (g 1 a) (g 2 b)
  | .rol d a b => .rol (g 0 d) (g 1 a) (g 2 b)
  | .min d a b => .min (g 0 d) (g 1 a) (g 2 b)
  | .max d a b => .max (g 0 d) (g 1 a) (g 2 b)
  | .minn d a b => .minn (g 0 d) (g 1 a) (g 2 b)
  | .maxn d a b => .maxn (g 0 d) (g 1 a) (g 2 b)
  | .adds d a b => .adds (g 0 d) (g 1 a) (g 2 b)
  | .subs d a b => .subs (g 0 d) (g 1 a) (g 2 b)
  | .mul d a b => .mul (g 0 d) (g 1 a) (g 2 b)
  | .mulh d a b => .mulh (g 0 d) (g 1 a) (g 2 b)
  | .mulhn d a b => .mulhn (g 0 d) (g 1 a) (g 2 b)
  | .div d a b => .div (g 0 d) (g 1 a) (g 2 b)
  | .divn d a b => .divn (g 0 d) (g 1 a) (g 2 b)
  | .rem d a b => .rem (g 0 d) (g 1 a) (g 2 b)
  | .remn d a b => .remn (g 0 d) (g 1 a) (g 2 b)
  | .clz d a => .clz (g 0 d) (g 1 a)
  | .ctz d a => .ctz (g 0 d) (g 1 a)
  | .popc d a => .popc (g 0 d) (g 1 a)
  | .brev d a => .brev (g 0 d) (g 1 a)
  | .bswap d a => .bswap (g 0 d) (g 1 a)
  | .bfx d a b => .bfx (g 0 d) (g 1 a) (g 2 b)
  | .bfxn d a b => .bfxn (g 0 d) (g 1 a) (g 2 b)
  | .bfi d a b => .bfi (g 0 d) (g 1 a) (g 2 b)
  | .addi d a f2 => .addi (g 0 d) (g 1 a) f2
  | .andi d a f2 => .andi (g 0 d) (g 1 a) f2
  | .ori d a f2 => .ori (g 0 d) (g 1 a) f2
  | .xori d a f2 => .xori (g 0 d) (g 1 a) f2
  | .shli d a f2 => .shli (g 0 d) (g 1 a) f2
  | .shri d a f2 => .shri (g 0 d) (g 1 a) f2
  | .sari d a f2 => .sari (g 0 d) (g 1 a) f2
  | .roli d a f2 => .roli (g 0 d) (g 1 a) f2
  | .cmp f0 f1 a b => .cmp f0 f1 (g 1 a) (g 2 b)
  | .cmpi f0 f1 a f3 => .cmpi f0 f1 (g 1 a) f3
  | .lui d f1 => .lui (g 0 d) f1
  | .addpc d f1 => .addpc (g 0 d) f1
  | .sel d a b f3 f4 => .sel (g 0 d) (g 1 a) (g 2 b) f3 f4
  | .crd d f1 => .crd (g 0 d) f1
  | .cwr a f1 => .cwr (g 1 a) f1
  | .fadd d a b f3 => .fadd (g 0 d) (g 1 a) (g 2 b) f3
  | .fsub d a b f3 => .fsub (g 0 d) (g 1 a) (g 2 b) f3
  | .fmul d a b f3 => .fmul (g 0 d) (g 1 a) (g 2 b) f3
  | .ffma d a b f3 => .ffma (g 0 d) (g 1 a) (g 2 b) f3
  | .fmin d a b => .fmin (g 0 d) (g 1 a) (g 2 b)
  | .fmax d a b => .fmax (g 0 d) (g 1 a) (g 2 b)
  | .fsgn d a b => .fsgn (g 0 d) (g 1 a) (g 2 b)
  | .fabs d a => .fabs (g 0 d) (g 1 a)
  | .fneg d a => .fneg (g 0 d) (g 1 a)
  | .fdiv d a b f3 => .fdiv (g 0 d) (g 1 a) (g 2 b) f3
  | .fsqrt d a f2 => .fsqrt (g 0 d) (g 1 a) f2
  | .frcp d a f2 => .frcp (g 0 d) (g 1 a) f2
  | .frsq d a f2 => .frsq (g 0 d) (g 1 a) f2
  | .fexp2 d a f2 => .fexp2 (g 0 d) (g 1 a) f2
  | .flog2 d a f2 => .flog2 (g 0 d) (g 1 a) f2
  | .fclass d a => .fclass (g 0 d) (g 1 a)
  | .fcmp f0 f1 a b => .fcmp f0 f1 (g 1 a) (g 2 b)
  | .fcvt d a f2 f3 f4 => .fcvt (g 0 d) (g 1 a) f2 f3 f4
  | .call d f1 => .call (g 0 d) f1
  | .jr d a f2 => .jr (g 0 d) (g 1 a) f2
  | .tstart d a b => .tstart (g 0 d) (g 1 a) (g 2 b)
  | .tstop a => .tstop (g 1 a)
  | .ld d a f2 f3 f4 => .ld (g 0 d) (g 1 a) f2 f3 f4
  | .st d a f2 f3 => .st (g 0 d) (g 1 a) f2 f3
  | .ldfe d a f2 => .ldfe (g 0 d) (g 1 a) f2
  | .ldff d a f2 => .ldff (g 0 d) (g 1 a) f2
  | .stef d a f2 => .stef (g 0 d) (g 1 a) f2
  | .stff d a f2 => .stff (g 0 d) (g 1 a) f2
  | .stfe d a f2 => .stfe (g 0 d) (g 1 a) f2
  | .feget d a f2 => .feget (g 0 d) (g 1 a) f2
  | .feset d a f2 => .feset (g 0 d) (g 1 a) f2
  | .amoF d a b f3 => .amoF (g 0 d) (g 1 a) (g 2 b) f3
  | .amoCasF d a b => .amoCasF (g 0 d) (g 1 a) (g 2 b)
  | .amo a b f2 => .amo (g 1 a) (g 2 b) f2
  | .red a b f2 => .red (g 1 a) (g 2 b) f2
  | .migrate a => .migrate (g 1 a)
  | .icinv a b => .icinv (g 1 a) (g 2 b)
  | .xmov d a b => .xmov (g 0 d) (g 1 a) (g 2 b)
  | .borrow d a => .borrow (g 0 d) (g 1 a)
  | .retn a => .retn (g 1 a)
  | .nwr f0 a f2 => .nwr f0 (g 1 a) f2
  | .narm d => .narm (g 0 d)
  | .npres d a => .npres (g 0 d) (g 1 a)
  | .vadd d a b => .vadd (g 0 d) (g 1 a) (g 2 b)
  | .vsub d a b => .vsub (g 0 d) (g 1 a) (g 2 b)
  | .vmul d a b => .vmul (g 0 d) (g 1 a) (g 2 b)
  | .vfma d a b => .vfma (g 0 d) (g 1 a) (g 2 b)
  | .vmin d a b => .vmin (g 0 d) (g 1 a) (g 2 b)
  | .vmax d a b => .vmax (g 0 d) (g 1 a) (g 2 b)
  | .vand d a b => .vand (g 0 d) (g 1 a) (g 2 b)
  | .vor d a b => .vor (g 0 d) (g 1 a) (g 2 b)
  | .vxor d a b => .vxor (g 0 d) (g 1 a) (g 2 b)
  | .vshl d a b => .vshl (g 0 d) (g 1 a) (g 2 b)
  | .vcmp d a b => .vcmp (g 0 d) (g 1 a) (g 2 b)
  | .vsel d a b => .vsel (g 0 d) (g 1 a) (g 2 b)
  | .vcvt d a => .vcvt (g 0 d) (g 1 a)
  | .vexp d a => .vexp (g 0 d) (g 1 a)
  | .vrcp d a => .vrcp (g 0 d) (g 1 a)
  | .vrsq d a => .vrsq (g 0 d) (g 1 a)
  | .vabs d a => .vabs (g 0 d) (g 1 a)
  | .vneg d a => .vneg (g 0 d) (g 1 a)
  | .vmov d a => .vmov (g 0 d) (g 1 a)
  | .vsoft d a => .vsoft (g 0 d) (g 1 a)
  | .vfill d a => .vfill (g 0 d) (g 1 a)
  | .vmask d a b => .vmask (g 0 d) (g 1 a) (g 2 b)
  | .vsum d a => .vsum (g 0 d) (g 1 a)
  | .vmaxr d a => .vmaxr (g 0 d) (g 1 a)
  | .vminr d a => .vminr (g 0 d) (g 1 a)
  | .vscan d a => .vscan (g 0 d) (g 1 a)
  | .vgath d a b => .vgath (g 0 d) (g 1 a) (g 2 b)
  | .vscat d a b => .vscat (g 0 d) (g 1 a) (g 2 b)
  | .mxa d a b f3 => .mxa (g 0 d) (g 1 a) (g 2 b) f3
  | .mxag d a b f3 => .mxag (g 0 d) (g 1 a) (g 2 b) f3
  | .mxsp d a b f3 => .mxsp (g 0 d) (g 1 a) (g 2 b) f3
  | .ezero d => .ezero (g 0 d)
  | .eacc d a => .eacc (g 0 d) (g 1 a)
  | .edrn d a b => .edrn (g 0 d) (g 1 a) (g 2 b)
  | .eread d a b => .eread (g 0 d) (g 1 a) (g 2 b)
  | .bppack d a b => .bppack (g 0 d) (g 1 a) (g 2 b)
  | .bpunpk d a => .bpunpk (g 0 d) (g 1 a)
  | .bscl d a b => .bscl (g 0 d) (g 1 a) (g 2 b)
  | .ssopen f0 a => .ssopen f0 (g 1 a)
  | .ssnext d f1 => .ssnext (g 0 d) f1
  | .sspos d f1 => .sspos (g 0 d) f1
  | .sisect d f1 f2 => .sisect (g 0 d) f1 f2
  | .simerge d f1 f2 => .simerge (g 0 d) f1 f2
  | .cbcfg a => .cbcfg (g 1 a)
  | .cbpush d a => .cbpush (g 0 d) (g 1 a)
  | .cbpop d a => .cbpop (g 0 d) (g 1 a)
  | .cbstat d => .cbstat (g 0 d)
  | .cpy d a => .cpy (g 0 d) (g 1 a)
  | .cpwp d a => .cpwp (g 0 d) (g 1 a)
  | .cpcast d a b => .cpcast (g 0 d) (g 1 a) (g 2 b)
  | .bwaitt d f1 b => .bwaitt (g 0 d) f1 (g 2 b)
  | .spawn d a => .spawn (g 0 d) (g 1 a)
  | .qpush d a b => .qpush (g 0 d) (g 1 a) (g 2 b)
  | .qpop d a => .qpop (g 0 d) (g 1 a)
  | .drinc a b => .drinc (g 1 a) (g 2 b)
  | .drdec a b => .drdec (g 1 a) (g 2 b)
  | .drwait d a => .drwait (g 0 d) (g 1 a)
  | .tkreq d a => .tkreq (g 0 d) (g 1 a)
  | .tkrel a => .tkrel (g 1 a)
  | .tklend d a b => .tklend (g 0 d) (g 1 a) (g 2 b)
  | .tkqry d => .tkqry (g 0 d)
  | .ecls a => .ecls (g 1 a)
  | .rdnon d => .rdnon (g 0 d)
  | .rdnchk d => .rdnchk (g 0 d)
  | .ctxsv d a b => .ctxsv (g 0 d) (g 1 a) (g 2 b)
  | .ctxld d a => .ctxld (g 0 d) (g 1 a)
  | .tlbi a b => .tlbi (g 1 a) (g 2 b)
  | .prd d a => .prd (g 0 d) (g 1 a)
  | .pwr a b => .pwr (g 1 a) (g 2 b)
  | .strip a => .strip (g 1 a)
  | .freeze a b => .freeze (g 1 a) (g 2 b)
  | .sevset a b => .sevset (g 1 a) (g 2 b)
  | .ldi d i => .ldi (g 0 d) i
  | .ldiN d i => .ldiN (g 0 d) i
  | i => i

end Sys2Proof
end

