-- ==== Sys2Proof/Machine/Maps.lean ====
section
/-! DEFINITION. Keyed data as lists of pairs whose keys rise strictly, sets of numbers as rising lists, and bit fields of words. -/
namespace Sys2Proof.Machine

/-- Data by key: keys rise strictly, an absent key stands for a value the reader names. -/
abbrev Map (α : Type) := List (Nat × α)

/-- The value at a key. -/
def mget {α : Type} : Map α → Nat → Option α
  | [], _ => none
  | (k', v) :: r, k => if k = k' then some v else mget r k

/-- Put a value at a key, keeping the keys rising. -/
def mput {α : Type} (k : Nat) (v : α) : Map α → Map α
  | [] => [(k, v)]
  | (k', v') :: r =>
    if k < k' then (k, v) :: (k', v') :: r else if k = k' then (k, v) :: r else (k', v') :: mput k v r

/-- Remove a key. -/
def mdel {α : Type} (k : Nat) : Map α → Map α
  | [] => []
  | (k', v') :: r => if k = k' then mdel k r else (k', v') :: mdel k r

/-- Put a value at a key where the absent key stands for `d`: writing `d` removes the key. -/
def mset {α : Type} [DecidableEq α] (d : α) (k : Nat) (v : α) (m : Map α) : Map α :=
  if v = d then mdel k m else mput k v m

/-- The keys rise strictly. -/
def mrising {α : Type} : Map α → Bool
  | [] => true
  | [_] => true
  | (k, _) :: (k', v') :: r => decide (k < k') && mrising ((k', v') :: r)

/-- Put a number into a rising list. -/
def sadd (k : Nat) : List Nat → List Nat
  | [] => [k]
  | k' :: r => if k < k' then k :: k' :: r else if k = k' then k' :: r else k' :: sadd k r

/-- Remove a number from a rising list. -/
def sdel (k : Nat) : List Nat → List Nat
  | [] => []
  | k' :: r => if k = k' then sdel k r else k' :: sdel k r

/-- Put or remove. -/
def sset (k : Nat) (on : Bool) (l : List Nat) : List Nat := if on then sadd k l else sdel k l

/-- Bits [hi:lo] of a word as a number (R3). -/
def bits (w : Word) (hi lo : Nat) : Nat := w.toNat / 2 ^ lo % 2 ^ (hi + 1 - lo)

/-- Bit n of a word. -/
def bit (w : Word) (n : Nat) : Bool := bits w n n == 1

/-- The word with bits [hi:lo] replaced by the low bits of `v`. -/
def setBits (w : Word) (hi lo v : Nat) : Word :=
  BitVec.ofNat 64 (w.toNat - bits w hi lo * 2 ^ lo + v % 2 ^ (hi + 1 - lo) * 2 ^ lo)

/-- The word with bit n set to b. -/
def setBit (w : Word) (n : Nat) (b : Bool) : Word := setBits w n n (if b then 1 else 0)

/-- A mask with bits [hi:lo] set. -/
def maskBits (hi lo : Nat) : Word := setBits 0 hi lo (2 ^ (hi + 1 - lo) - 1)

/-- The numbers 0 to n - 1 for which `p` holds, ascending. -/
def upTo (n : Nat) (p : Nat → Bool) : List Nat := (List.range n).filter p

/-- Insert by a strict order, after the entries that are not greater. -/
def insertBy {α : Type} (lt : α → α → Bool) (x : α) : List α → List α
  | [] => [x]
  | y :: r => if lt x y then x :: y :: r else y :: insertBy lt x r

/-- Stable insertion sort by a strict order. -/
def sortBy {α : Type} (lt : α → α → Bool) : List α → List α
  | [] => []
  | x :: r => insertBy lt x (sortBy lt r)

/-- Sum of a list. -/
def sumOf : List Nat → Nat
  | [] => 0
  | x :: r => x + sumOf r

end Sys2Proof.Machine
end

