-- ==== Sys2Proof/Payload.lean ====
section
/-! DEFINITION. What the events of the machine carry: one constructor of `Ev` for each event row of spec/opcode_table.json, with the
types of the requests, replies and messages that travel. -/
namespace Sys2Proof

/-- Privilege levels (R324). -/
inductive Mode | u | s | f
  deriving DecidableEq, Repr, Inhabited

/-- Trap causes in the order of their codes 0x00 to 0x3F (R343). -/
inductive Cause
  | none | illop | rsvfld | regrange | priv | align | divzero | fpexc
  | repfnest | brkpt | hcall | watchdog | steptrap | accovf | shape | cdesc
  | pgnp | pgprot | acctbl | sramrange | syncalign | migfail | nlink | borrowerr
  | grouperr | grpfull | taskerr | drainerr | tokenerr | cberr | streamerr | rdnmis
  | uereg | uesram | uedram | uelink | uetq | uectr | preempt | ctxkill
  | lowland | resume | tokrevoke | droop | colltimeout | linkdown | hostirq | debug
  | engfault | mxprec | fmtbad | scalenan | wptrbad | amoalign | exitmem | lenderr
  | partviol | hostdown | firmauth | severity | eccscrub | timeoutmem | darktile | machchk
  deriving DecidableEq, Repr, Inhabited

/-- Which of the four outstanding counters of ctr an operation is counted in (R39, R206). -/
inductive Cls | ld | st | cp | mx
  deriving DecidableEq, Repr, Inhabited

/-- Access kinds of a request tag (R324). -/
inductive AccKind | read | write | atomic | execute
  deriving DecidableEq, Repr, Inhabited

/-- What an access does at its home (R206, R223, R224, R228, R270, R317); `fetch` reads an instruction word (R54). `size` is the log of the
bytes. -/
inductive MemOp
  | load (size : Nat) (sx : Bool)
  | store (size : Nat)
  | ldfe | ldff | stef | stff | stfe | feget | feset
  | amo (op : Nat) (fetch : Bool)
  | red (op : Nat)
  | qpush | qpop | drwait
  | copyRead (size : Nat)
  | copyWrite (size : Nat) (fes : Bool)
  | scale
  | fetch
  deriving DecidableEq, Repr, Inhabited

/-- Who issued a request: module, core, slot and generation (R35, R324). -/
structure Src where
  modn : Nat
  core : Nat
  slot : Nat
  gen : BitVec 16
  deriving DecidableEq, Repr, Inhabited

/-- The tag a home checks: partition and mode; the kind follows from the operation (R324). -/
structure Tag where
  part : Nat
  mode : Mode
  deriving DecidableEq, Repr, Inhabited

/-- Where the answer of an access goes: a register, only a counter, a set command's key (stream number), an element of a
copy channel, the fetched words of a context, a word of what a context reads at issue, a byte of the image that a launcher copies, a write of a save,
a merge entry's commit, a combine entry of a reticle, back over the link core that a request from another module came by (R440), or nowhere. -/
inductive Dest
  | reg (r : Nat)
  | notice
  | setKey (stream : Nat)
  | copyRd (ch n : Nat)
  | copyWr (ch n : Nat)
  | fetch
  | gather (n : Nat)
  | image (ret : Nat)
  | save (id : Nat)
  | commit (entry : Nat)
  | combine (ret entry : Nat)
  | via (core : Nat)
  | nobody
  deriving DecidableEq, Repr, Inhabited

/-- A request on its way to its home (R188). `attempt` counts the attempts of a conditional access (R225), `fwd` says that a skim copy
forwarded it (R205), `granted` that its home's access table has admitted it (R329). -/
structure Access where
  id : Nat
  src : Src
  tag : Tag
  op : MemOp
  va : Word
  pa : Nat
  data : Word
  cmp : Word
  dst : Dest
  attempt : Nat
  fwd : Bool := false
  granted : Bool := false
  deriving DecidableEq, Repr, Inhabited

/-- How a home answers: performed with a value, or failed with a late cause (R222). -/
inductive Status
  | ok
  | failed (c : Cause)
  deriving DecidableEq, Repr, Inhabited

/-- A reply or performed notice on its way back (R188). -/
structure Reply where
  acc : Access
  value : Word
  status : Status
  deriving DecidableEq, Repr, Inhabited

/-- What cancels a waiting conditional access (R227). -/
inductive Interrupt
  | kill (detail : Nat)
  | save (area : Nat)
  | freeze
  | trap
  deriving DecidableEq, Repr, Inhabited

/-- A page-table walk under way (R199, R202); one that a TLBI matches is not installed (R353). `others` are the contexts of its core that missed on
the same page while it waited, by slot, generation and address. -/
structure Walk where
  core : Nat
  slot : Nat
  gen : BitVec 16
  part : Nat
  asid : Nat
  va : Word
  mode : Mode
  install : Bool
  others : List (Nat × BitVec 16 × Word) := []
  deriving DecidableEq, Repr, Inhabited

/-- An invalidation sent by TLBI (R353). -/
structure TlbiReq where
  core : Nat
  slot : Nat
  gen : BitVec 16
  part : Nat
  asid : Nat
  va : Word
  scope : Nat
  deriving DecidableEq, Repr, Inhabited

/-- An invalidation sent by ICINV (R232); `phys` says that its addresses are those of mode F. -/
structure IcReq where
  core : Nat
  slot : Nat
  gen : BitVec 16
  part : Nat
  asid : Nat
  va : Word
  len : Nat
  phys : Bool := false
  deriving DecidableEq, Repr, Inhabited

/-- A neighbour write on its way (R238). -/
structure NWrite where
  id : Nat
  src : Src
  part : Nat
  asid : Nat
  core : Nat
  dir : Nat
  reg : Nat
  data : Word
  deriving DecidableEq, Repr, Inhabited

/-- An HCALL request (R345). -/
structure HReq where
  code : Nat
  part : Nat
  asid : Nat
  src : Src
  args : List Word
  deriving DecidableEq, Repr, Inhabited

/-- A save in progress: who saves whom, where (R349): the area's address and the physical address of each of its 64-byte lines, the
access that waits for its result, the words still to be written by number, the numbers of the writes not yet answered, whether one failed, whether the
state has been taken. -/
structure SaveReq where
  id : Nat
  core : Nat
  issuer : Nat
  igen : BitVec 16
  target : Nat
  tgen : BitVec 16
  va : Word
  pas : List Nat
  tag : Tag
  left : List (Nat × Word)
  asked : List Nat
  bad : Bool
  sent : Bool
  deriving DecidableEq, Repr, Inhabited

/-- A QPOP result that waits for its producer's stamp (R271). -/
structure StampReq where
  reply : Reply
  stamp : Word
  deriving DecidableEq, Repr, Inhabited

/-- A level of the drainage tree: a core, a cluster node of a reticle, a reticle, the root word (R272). -/
inductive DrainNode
  | core (c : Nat)
  | cluster (ret cl : Nat)
  | reticle (ret : Nat)
  | root
  deriving DecidableEq, Repr, Inhabited

/-- What a +1 is for (R273, R274): a DRINC of an amount, a TSTART's child (its slot), a SPAWN's packet with the home it goes to, or a
member of a gang of a reticle's launcher. -/
inductive DrainUse
  | amount (n : Nat)
  | child (slot : Nat)
  | packet (p : List Word) (home : Nat)
  | gang (ret : Nat)
  deriving DecidableEq, Repr, Inhabited

/-- The operation that waits for the acknowledgement of a +1 (R273): the core whose counter it changed, which context and which
outstanding operation wait, with its tag (R324), the result to deliver, the root VA for a failure. -/
structure DrainWait where
  core : Nat
  src : Src
  tag : Tag
  id : Nat
  use : DrainUse
  value : Word
  va : Word
  deriving DecidableEq, Repr, Inhabited

/-- A named barrier of a core of a module (R308). -/
structure BarId where
  modn : Nat
  core : Nat
  bar : Nat
  deriving DecidableEq, Repr, Inhabited

/-- A control block: that of a core, or that of a reticle (R184). -/
inductive Block
  | core (c : Nat)
  | ret (r : Nat)
  deriving DecidableEq, Repr, Inhabited

/-- A gather report: the reticle it speaks of, its key, its live sides, rim strips and devices, its failed maps (R382). -/
structure Report where
  ret : Nat
  key : Nat
  sides : List Nat
  seen : List (Nat × Nat)
  strips : List Nat
  hostSides : List Nat
  devices : Word
  failTiles : List Nat
  failRouters : List Nat
  deriving DecidableEq, Repr, Inhabited

/-- A summary posted on a service line (R384): leader, size of K, lowest live host window index (4 for none), key. -/
structure Summary where
  ret : Nat
  size : Nat
  host : Nat
  key : Nat
  deriving DecidableEq, Repr, Inhabited

/-- An event with what it carries. -/
inductive Ev
  /-- R129, for row ISSUE_SPACING_END. -/
  | issueSpacingEnd (core slot : Nat)
  /-- R254, for row CONTEXT_WAKE. -/
  | contextWake (core slot : Nat)
  /-- R339, for row TAKE_TRAP. -/
  | takeTrap (core slot : Nat)
  /-- R32, for row STRIP_DONE. -/
  | stripDone (core slot : Nat)
  /-- R48, for row MIGRANT_DEPARTURE. -/
  | migrantDeparture (core slot : Nat)
  /-- R50, for row MIGRANT_ARRIVAL. -/
  | migrantArrival (core : Nat) (p : List Word) (src : Nat)
  /-- R50, for row OVERFLOW_REFILL. -/
  | overflowRefill (core : Nat)
  /-- R188, for row LOAD_REQUEST. -/
  | loadRequest (a : Access)
  /-- R207, for row ACTIVE_MESSAGE. -/
  | activeMessage (a : Access)
  /-- R229, for row REMOTE_UPDATE_MIGRANT. -/
  | remoteUpdateMigrant (a : Access)
  /-- R225, for row CONDITIONAL_ATTEMPT. -/
  | conditionalAttempt (a : Access)
  /-- R225, for row ATTEMPT_RESEND. -/
  | attemptResend (a : Access)
  /-- R225, for row WAIT_LIST_PARK. -/
  | waitListPark (a : Access)
  /-- R225, for row PARK_REQUEST_RETRY. -/
  | parkRequestRetry (a : Access)
  /-- R226, for row WAIT_LIST_SERVE. -/
  | waitListServe (core word : Nat)
  /-- R227, for row CANCEL. -/
  | cancel (core slot : Nat) (why : Interrupt)
  /-- R227, for row CANCEL_ANSWER. -/
  | cancelAnswer (core slot : Nat) (performed : Bool) (why : Interrupt)
  /-- R33, for row LOAD_REPLY. -/
  | loadReply (r : Reply)
  /-- R188, for row PERFORMED_NOTICE. -/
  | performedNotice (r : Reply)
  /-- R343, for row MEMORY_TIMEOUT. -/
  | memoryTimeout (a : Access)
  /-- R195, for row COMBINE_JOIN. -/
  | combineJoin (ret node : Nat) (a : Access)
  /-- R195, for row COMBINE_CLOSE. -/
  | combineClose (ret entry : Nat)
  /-- R195, for row COMBINE_REPLY. -/
  | combineReply (ret entry : Nat) (r : Reply)
  /-- R202, for row WALK_COMPLETE. -/
  | walkComplete (w : Walk)
  /-- R353, for row TLB_REMOVAL. -/
  | tlbRemoval (core : Nat) (q : TlbiReq)
  /-- R353, for row TLBI_ACK. -/
  | tlbiAck (q : TlbiReq)
  /-- R232, for row ICACHE_INVALIDATION. -/
  | icacheInvalidation (core : Nat) (q : IcReq)
  /-- R232, for row ICINV_ACK. -/
  | icinvAck (q : IcReq)
  /-- R238, for row NEIGHBOUR_WRITE. -/
  | neighbourWrite (n : NWrite)
  /-- R238, for row NEIGHBOUR_WRITE_LAND. -/
  | neighbourWriteLand (core dir slot : Nat)
  /-- R238, for row NWR_ACK. -/
  | nwrAck (n : NWrite) (accepted : Bool)
  /-- R345, for row HCALL_REQUEST. -/
  | hcallRequest (q : HReq)
  /-- R352, for row HCALL_REPLY. -/
  | hcallReply (core slot : Nat) (gen : BitVec 16) (v1 v2 : Word)
  /-- R349, for row SAVE_AREA_WRITE. -/
  | saveAreaWrite (q : SaveReq)
  /-- R122, for row ENGINE_COMMAND_COMPLETE. -/
  | engineCommandComplete (core id : Nat)
  /-- R113, for row DENSE_SUBSTEP. -/
  | denseSubstep (core : Nat)
  /-- R241, for row COPY_SOURCE_REPLY. -/
  | copySourceReply (core ch : Nat) (r : Reply)
  /-- R242, for row COPY_WRITE_PERFORMED. -/
  | copyWritePerformed (core ch : Nat) (r : Reply)
  /-- R271, for row STAMP_QUERY. -/
  | stampQuery (q : StampReq)
  /-- R271, for row STAMP_SATISFIED. -/
  | stampSatisfied (q : StampReq)
  /-- R273, for row DRAIN_UP. -/
  | drainUp (parent : DrainNode) (child : DrainNode) (root : Nat) (w : DrainWait)
  /-- R273, for row DRAIN_ACK. -/
  | drainAck (child : DrainNode) (root : Nat) (bad : Option Cause) (w : DrainWait)
  /-- R273, for row DRAIN_DOWN. -/
  | drainDown (parent child : DrainNode) (root : Nat) (dec kill fail : Bool) (cause : Option (Src × Tag))
  /-- R276, for row COUNTER_ENTRY_UE. -/
  | counterEntryUe (node : DrainNode) (root : Nat)
  /-- R265, for row LAUNCH_RECORD. -/
  | launchRecord (ret : Nat)
  /-- R266, for row GANG_PLACE. -/
  | gangPlace (ret : Nat)
  /-- R267, for row GANG_RELEASE. -/
  | gangRelease (ret : Nat)
  /-- R267, for row RELEASE_RECEIVED. -/
  | releaseReceived (ret : Nat)
  /-- R280, for row GRANT_ROUND. -/
  | grantRound (ret : Nat)
  /-- R282, for row NOTICE_EXPIRY. -/
  | noticeExpiry (core : Nat)
  /-- R284, for row DROOP_ALARM. -/
  | droopAlarm (ret : Nat)
  /-- R286, for row THERMAL_REPORT. -/
  | thermalReport (ret : Nat) (on : Bool)
  /-- R287, for row LOAN_OFFER. -/
  | loanOffer (ret side n : Nat)
  /-- R287, for row LOAN_RECALL. -/
  | loanRecall (ret side n : Nat)
  /-- R287, for row LOAN_RETURN. -/
  | loanReturn (ret side n : Nat)
  /-- R262, for row WATCHDOG_EXPIRY. -/
  | watchdogExpiry (core slot : Nat)
  /-- R310, for row BARRIER_ARRIVAL. -/
  | barrierArrival (b : BarId) (child : BarId)
  /-- R310, for row BARRIER_VERDICT. -/
  | barrierVerdict (b : BarId) (abort : Bool)
  /-- R312, for row BWAITT_TIMEOUT. -/
  | bwaittTimeout (core slot : Nat)
  /-- R312, for row BARRIER_ABORT_REQUEST. -/
  | barrierAbortRequest (b child : BarId) (phase : BitVec 16)
  /-- R308, for row BARRIER_REGISTRATION. -/
  | barrierRegistration (parent child : BarId)
  /-- R308, for row BARRIER_WITHDRAWAL. -/
  | barrierWithdrawal (parent child : BarId)
  /-- R308, for row REGISTRATION_REPLY. -/
  | registrationReply (child : BarId) (refused : Bool) (phase : BitVec 16)
  /-- R308, for row BARRIER_CONFIG_WRITE. -/
  | barrierConfigWrite (core bar : Nat) (v : Word)
  /-- R194, for row INTERLEAVE_WRITE. -/
  | interleaveWrite (ret : Nat) (v : Word)
  /-- R52, for row POOL_WRITE. -/
  | poolWrite (ret off : Nat) (v : Word)
  /-- R263, for row MAILBOX_WRITE. -/
  | mailboxWrite (ret off : Nat) (v : Word)
  /-- R285, for row BUDGET_WRITE. -/
  | budgetWrite (ret : Nat) (v : Word)
  /-- R323, for row PARTITION_WRITE. -/
  | partitionWrite (ret : Nat) (v : Word)
  /-- R323, for row PARTITION_SCRUB_DONE. -/
  | partitionScrubDone (ret : Nat)
  /-- R338, for row HOSTIRQ_POST. -/
  | hostirqPost (core : Nat) (v : Word)
  /-- R204, for row TIER_MIGRATION_GO. -/
  | tierMigrationGo (core : Nat)
  /-- R399, for row BANK_SPARING_GO. -/
  | bankSparingGo (core : Nat) (mode : Mode)
  /-- R204, for row SKIM_RETIRE. -/
  | skimRetire (core : Nat)
  /-- R205, for row SKIM_COPY_STEP. -/
  | skimCopyStep (core : Nat)
  /-- R399, for row SPARE_COPY_STEP. -/
  | spareCopyStep (core : Nat)
  /-- R204, for row HOTPG_READ. -/
  | hotpgRead (core : Nat) (a : Access)
  /-- R330, for row REFUSAL_LOG_READ. -/
  | refusalLogRead (blk : Block) (off : Nat) (a : Access)
  /-- R292, for row BROKER_COUNT_READ. -/
  | brokerCountRead (ret : Nat) (a : Access)
  /-- R362, for row ERROR_LOG_COUNT_READ. -/
  | errorLogCountRead (ret : Nat) (a : Access)
  /-- R398, for row LNKF_READ. -/
  | lnkfRead (ret : Nat) (a : Access)
  /-- R407, for row LINK_COUNT_READ. -/
  | linkCountRead (core : Nat) (a : Access)
  /-- R390, for row ATTEST_GO. -/
  | attestGo (ret : Nat)
  /-- R390, for row ATTEST_DONE. -/
  | attestDone (ret : Nat)
  /-- R4, for row REGISTER_WRITE. -/
  | registerWrite (blk : Block) (off : Nat) (v : Word)
  /-- R368, for row SRAM_SCRUB_READ. -/
  | sramScrubRead (core bank : Nat)
  /-- R368, for row DRAM_SCRUB_READ. -/
  | dramScrubRead (core ch : Nat)
  /-- R370, for row MESH_FLIT_RETRY. -/
  | meshFlitRetry (ret tile dir : Nat) (tries : Nat)
  /-- R379, for row POWER_UP. -/
  | powerUp
  /-- R380, for row BIST_COMPLETE. -/
  | bistComplete (ret : Nat) (failTiles failRouters strips : List Nat)
  /-- R380, for row PASS_TRAINING_END. -/
  | passTrainingEnd (ret : Nat) (sides hostSides : List Nat) (devices : Word)
  /-- R381, for row ELECTION_KEY. -/
  | electionKey (ret side key : Nat)
  /-- R381, for row ELECTION_SETTLED. -/
  | electionSettled (ret : Nat)
  /-- R381, for row ELECTION_RESTART. -/
  | electionRestart (ret : Nat)
  /-- R382, for row GATHER_REPORT. -/
  | gatherReport (parent : Nat) (r : List Report)
  /-- R382, for row GATHER_TIMEOUT. -/
  | gatherTimeout (parent child : Nat)
  /-- R383, for row ISLAND_PLACEMENT. -/
  | islandPlacement (leader : Nat) (line : Bool)
  /-- R384, for row SUMMARY_COMPARE. -/
  | summaryCompare (leader : Nat)
  /-- R379, for row COORDINATES. -/
  | coordinates (ret : Nat) (image : Nat)
  /-- R391, for row POWER_FAIL. -/
  | powerFail
  /-- R391, for row LOWLAND_GO. -/
  | lowlandGo (ret : Nat) (mode : Mode) (v : Word)
  /-- R392, for row LOWLAND_SIGNAL. -/
  | lowlandSignal (ret : Nat)
  /-- R392, for row LOWLAND_RETAIN. -/
  | lowlandRetain (ret : Nat)
  /-- R395, for row POWER_GOOD. -/
  | powerGood
  /-- R398, for row WAKE. -/
  | wake (port : Nat)
  /-- R395, for row SHELF_WAKE. -/
  | shelfWake
  /-- R395, for row PASS_RETRAIN_DONE. -/
  | passRetrainDone (ret : Nat)
  /-- R26, for row RETENTION_LOSS. -/
  | retentionLoss
  /-- R26, for row DEBUG_FREEZE. -/
  | debugFreeze
  /-- R343, for row DEBUG_REQUEST. -/
  | debugRequest (core slot : Nat) (v : Word)
  /-- R401 and R402, for row HOST_REQUEST: in BAR0 or BAR2. -/
  | hostRequest (port : Nat) (bar0 write : Bool) (off size v : Nat)
  /-- R401, for row HOST_REQUEST: an AtomicOp. -/
  | hostAtomic (port : Nat)
  /-- R403, for row HOST_LINK_DOWN. -/
  | hostLinkDown (port : Nat)
  /-- R403, for row HOST_LINK_UP. -/
  | hostLinkUp (port lanes rate : Nat)
  /-- R405, for row LINK_FLIT. -/
  | linkFlit (core : Nat) (good : Bool) (tries : Nat) (acked : List Nat)
  /-- R405, for row ACK_TIMEOUT. -/
  | ackTimeout (core : Nat)
  /-- R405, for row PHY_LOCK_LOSS. -/
  | phyLockLoss (core : Nat)
  /-- R405, for row JENOON_LINK_UP. -/
  | jenoonLinkUp (core peer : Nat)
  /-- R333, for row IMPORTED_REQUEST. -/
  | importedRequest (core : Nat) (a : Access)
  /-- R408, for row MERGE_ARM. -/
  | mergeArm (core e : Nat) (v : Word)
  /-- R408, for row MERGE_DISARM. -/
  | mergeDisarm (core e : Nat)
  /-- R409, for row MERGE_ABSORB. -/
  | mergeAbsorb (core e : Nat) (a : Access)
  /-- R410, for row MERGE_CLOSE. -/
  | mergeClose (core e m : Nat)
  /-- R410, for row MERGE_COMMIT_DONE. -/
  | mergeCommitDone (core e : Nat)
  /-- R245, for row CB_UNIT_FINISHED. -/
  | cbUnitFinished (core : Nat)
  /-- R215, for row PCIE_COMPLETION. -/
  | pcieCompletion (port : Nat) (r : Reply)
  /-- R397, for row DEBUG_THAW. -/
  | debugThaw
  /-- R406, for row ROUTE_TABLE_WRITE. -/
  | routeTableWrite (ret m : Nat) (v : Word)
  deriving DecidableEq, Repr

/-- The access an event carries to its home over the mesh. -/
def Ev.access? : Ev → Option Access
  | .loadRequest a => some a
  | .activeMessage a => some a
  | .remoteUpdateMigrant a => some a
  | .conditionalAttempt a => some a
  | .waitListPark a => some a
  | .combineJoin _ _ a => some a
  | _ => none

/-- The row of the table that an event is a step of. -/
def Ev.row : Ev → Instr
  | .issueSpacingEnd _ _ => .issueSpacingEnd
  | .contextWake _ _ => .contextWake
  | .takeTrap _ _ => .takeTrap
  | .stripDone _ _ => .stripDone
  | .migrantDeparture _ _ => .migrantDeparture
  | .migrantArrival _ _ _ => .migrantArrival
  | .overflowRefill _ => .overflowRefill
  | .loadRequest _ => .loadRequest
  | .activeMessage _ => .activeMessage
  | .remoteUpdateMigrant _ => .remoteUpdateMigrant
  | .conditionalAttempt _ => .conditionalAttempt
  | .attemptResend _ => .attemptResend
  | .waitListPark _ => .waitListPark
  | .parkRequestRetry _ => .parkRequestRetry
  | .waitListServe _ _ => .waitListServe
  | .cancel _ _ _ => .cancel
  | .cancelAnswer _ _ _ _ => .cancelAnswer
  | .loadReply _ => .loadReply
  | .performedNotice _ => .performedNotice
  | .memoryTimeout _ => .memoryTimeout
  | .combineJoin _ _ _ => .combineJoin
  | .combineClose _ _ => .combineClose
  | .combineReply _ _ _ => .combineReply
  | .walkComplete _ => .walkComplete
  | .tlbRemoval _ _ => .tlbRemoval
  | .tlbiAck _ => .tlbiAck
  | .icacheInvalidation _ _ => .icacheInvalidation
  | .icinvAck _ => .icinvAck
  | .neighbourWrite _ => .neighbourWrite
  | .neighbourWriteLand _ _ _ => .neighbourWriteLand
  | .nwrAck _ _ => .nwrAck
  | .hcallRequest _ => .hcallRequest
  | .hcallReply _ _ _ _ _ => .hcallReply
  | .saveAreaWrite _ => .saveAreaWrite
  | .engineCommandComplete _ _ => .engineCommandComplete
  | .denseSubstep _ => .denseSubstep
  | .copySourceReply _ _ _ => .copySourceReply
  | .copyWritePerformed _ _ _ => .copyWritePerformed
  | .stampQuery _ => .stampQuery
  | .stampSatisfied _ => .stampSatisfied
  | .drainUp _ _ _ _ => .drainUp
  | .drainAck _ _ _ _ => .drainAck
  | .drainDown _ _ _ _ _ _ _ => .drainDown
  | .counterEntryUe _ _ => .counterEntryUe
  | .launchRecord _ => .launchRecord
  | .gangPlace _ => .gangPlace
  | .gangRelease _ => .gangRelease
  | .releaseReceived _ => .releaseReceived
  | .grantRound _ => .grantRound
  | .noticeExpiry _ => .noticeExpiry
  | .droopAlarm _ => .droopAlarm
  | .thermalReport _ _ => .thermalReport
  | .loanOffer _ _ _ => .loanOffer
  | .loanRecall _ _ _ => .loanRecall
  | .loanReturn _ _ _ => .loanReturn
  | .watchdogExpiry _ _ => .watchdogExpiry
  | .barrierArrival _ _ => .barrierArrival
  | .barrierVerdict _ _ => .barrierVerdict
  | .bwaittTimeout _ _ => .bwaittTimeout
  | .barrierAbortRequest _ _ _ => .barrierAbortRequest
  | .barrierRegistration _ _ => .barrierRegistration
  | .barrierWithdrawal _ _ => .barrierWithdrawal
  | .registrationReply _ _ _ => .registrationReply
  | .barrierConfigWrite _ _ _ => .barrierConfigWrite
  | .interleaveWrite _ _ => .interleaveWrite
  | .poolWrite _ _ _ => .poolWrite
  | .mailboxWrite _ _ _ => .mailboxWrite
  | .budgetWrite _ _ => .budgetWrite
  | .partitionWrite _ _ => .partitionWrite
  | .partitionScrubDone _ => .partitionScrubDone
  | .hostirqPost _ _ => .hostirqPost
  | .tierMigrationGo _ => .tierMigrationGo
  | .bankSparingGo _ _ => .bankSparingGo
  | .skimRetire _ => .skimRetire
  | .skimCopyStep _ => .skimCopyStep
  | .spareCopyStep _ => .spareCopyStep
  | .hotpgRead _ _ => .hotpgRead
  | .refusalLogRead _ _ _ => .refusalLogRead
  | .brokerCountRead _ _ => .brokerCountRead
  | .errorLogCountRead _ _ => .errorLogCountRead
  | .lnkfRead _ _ => .lnkfRead
  | .linkCountRead _ _ => .linkCountRead
  | .attestGo _ => .attestGo
  | .attestDone _ => .attestDone
  | .registerWrite _ _ _ => .registerWrite
  | .sramScrubRead _ _ => .sramScrubRead
  | .dramScrubRead _ _ => .dramScrubRead
  | .meshFlitRetry _ _ _ _ => .meshFlitRetry
  | .powerUp => .powerUp
  | .bistComplete _ _ _ _ => .bistComplete
  | .passTrainingEnd _ _ _ _ => .passTrainingEnd
  | .electionKey _ _ _ => .electionKey
  | .electionSettled _ => .electionSettled
  | .electionRestart _ => .electionRestart
  | .gatherReport _ _ => .gatherReport
  | .gatherTimeout _ _ => .gatherTimeout
  | .islandPlacement _ _ => .islandPlacement
  | .summaryCompare _ => .summaryCompare
  | .coordinates _ _ => .coordinates
  | .powerFail => .powerFail
  | .lowlandGo _ _ _ => .lowlandGo
  | .lowlandSignal _ => .lowlandSignal
  | .lowlandRetain _ => .lowlandRetain
  | .powerGood => .powerGood
  | .wake _ => .wake
  | .shelfWake => .shelfWake
  | .passRetrainDone _ => .passRetrainDone
  | .retentionLoss => .retentionLoss
  | .debugFreeze => .debugFreeze
  | .debugRequest _ _ _ => .debugRequest
  | .hostRequest _ _ _ _ _ _ => .hostRequest
  | .hostAtomic _ => .hostRequest
  | .hostLinkDown _ => .hostLinkDown
  | .hostLinkUp _ _ _ => .hostLinkUp
  | .linkFlit _ _ _ _ => .linkFlit
  | .ackTimeout _ => .ackTimeout
  | .phyLockLoss _ => .phyLockLoss
  | .jenoonLinkUp _ _ => .jenoonLinkUp
  | .importedRequest _ _ => .importedRequest
  | .mergeArm _ _ _ => .mergeArm
  | .mergeDisarm _ _ => .mergeDisarm
  | .mergeAbsorb _ _ _ => .mergeAbsorb
  | .mergeClose _ _ _ => .mergeClose
  | .mergeCommitDone _ _ => .mergeCommitDone
  | .cbUnitFinished _ => .cbUnitFinished
  | .pcieCompletion _ _ => .pcieCompletion
  | .debugThaw => .debugThaw
  | .routeTableWrite _ _ _ => .routeTableWrite

end Sys2Proof
end

