-- ==== Sys2Proof/Machine/State.lean ====
section
/-! DEFINITION. The state of one module as plain data (INVENTORY.md lists each piece with its rule), the reasons a step can
stop, and the state after reset. -/
namespace Sys2Proof.Machine

/-- Why the machine stops. -/
inductive Fault
  /-- Raised by every instruction when the slot that is to issue holds no context, or one that is not Ready: nobody executes
  there (R251). Safe: hardware issues nothing. -/
  | noContext
  deriving DecidableEq, Repr, Inhabited

/-- Why a step has no meaning. -/
inductive Refusal
  /-- Raised by an arm of the dispatch whose meaning is not written. Safe. -/
  | notModelled (mnemonic : String)
  deriving DecidableEq, Repr, Inhabited

/-- Presence of a register entry (R33): present, absent with a reply owed, or absent and armed by NARM. -/
inductive Presence | present | owed | armed
  deriving DecidableEq, Repr, Inhabited

/-- One entry of the register file (R29, R33, R367): value, presence, and whether its check bits are wrong and not yet found. -/
structure RegEntry where
  val : Word
  pres : Presence
  bad : Bool
  soft : Option Nat := none
  deriving DecidableEq, Repr, Inhabited

/-- A stripped entry (R32). -/
def RegEntry.stripped : RegEntry := { val := 0, pres := .present, bad := false }

/-- Kinds of context (R27). -/
inductive CtxKind | resident | migrant | message | firmware
  deriving DecidableEq, Repr, Inhabited

/-- Causes of parking with what they wait for (R36). -/
inductive Park
  | regs (rs : List Nat)
  | counter (c : Cls)
  | waitc (mx cp st ld : Nat)
  | fence (k : Nat)
  | cond
  | nwr (dir : Nat)
  | cb
  | icinv (left : Nat)
  | tlbi (left : Nat)
  | matrix (id : Nat)
  | setCmd (id : Nat)
  | firmwareQueue
  | barrier (b : Nat) (timer : Option Nat)
  | lvqFull
  | lvqEmpty
  | partner
  | tsv (n : Nat)
  | machchk
  deriving DecidableEq, Repr, Inhabited

/-- Stalls of a Ready context other than its spacing and a walk (R255): no energy for a vector command, no free hold, no free copy
channel, bytes of a core's tile that it reads at issue under a hold (R76), and words on their way that it reads at issue (R269, R350). -/
inductive Stall
  | veb
  | hold
  | channel
  | bytes (core lo hi : Nat)
  | words
  deriving DecidableEq, Repr, Inhabited

/-- Context states (R28): Departing carries the home and the PC its packet takes. -/
inductive Run
  | ready
  | parked (p : Park)
  | departing (home : Nat) (pc : Word)
  | frozen
  | placed
  | saving
  deriving DecidableEq, Repr, Inhabited

/-- One outstanding operation (R39, R206): its number, its counter, the register it owes, where it performs (none for another
module or a host window), whether its data come back to both members of a pair, and for a counted write its place among the writes issued
(R220). -/
structure OutOp where
  id : Nat
  cls : Cls
  dst : Option Nat
  home : Option Nat
  both : Bool
  nth : Nat := 0
  deriving DecidableEq, Repr, Inhabited

/-- Pending traps of a context, one of each kind (R341). The late and engine traps carry their cause. -/
structure Pend where
  dbg : Option Word
  late : Option (Cause × Word)
  eng : Option (Cause × Word)
  watchdog : Option Word
  severity : Option Word
  step : Option Word
  resume : Option Word
  droop : Option Word
  tokrevoke : Option Word
  deriving DecidableEq, Repr, Inhabited

/-- No trap pending. -/
def Pend.none : Pend :=
  { dbg := .none, late := .none, eng := .none, watchdog := .none, severity := .none, step := .none, resume := .none,
    droop := .none, tokrevoke := .none }

/-- Role in a redundant pair (R373), with the partner's slot. -/
inductive Role
  | single
  | under (partner : Nat)
  | top (partner : Nat)
  deriving DecidableEq, Repr, Inhabited

/-- A held instruction of a pair (R374): its word and operand values; the numbers of the operations that its issue counted, and the registers it
owes; `from_` is the first number that was free at its issue, `issued` the writes counted before it, `cond` says that it is an access with
a condition. -/
structure HeldInstr where
  word : BitVec 32
  ops : List Word
  ids : List Nat
  dsts : List Nat
  from_ : Nat
  issued : Nat
  cond : Bool
  deriving DecidableEq, Repr, Inhabited

/-- An entry of a load-value queue (R374): a read with address, size and, once answered, its value; or a held instruction. -/
inductive LvqEntry
  | read (id : Nat) (va : Word) (size : Nat) (value : Option Word)
  | held (h : HeldInstr)
  deriving DecidableEq, Repr, Inhabited

/-- A held access with a condition is in a queue (R225, R374). -/
def LvqEntry.conditional : LvqEntry → Bool
  | .read _ _ _ _ => false
  | .held h => h.cond

/-- A translation-buffer entry (R202): the leaf's physical page, its size in bits, permission bits. -/
structure TlbEntry where
  part : Nat
  asid : Nat
  page : Nat
  size : Nat
  pa : Nat
  g : Bool
  us : Bool
  x : Bool
  w : Bool
  rd : Bool
  parity : Bool := false
  deriving DecidableEq, Repr, Inhabited

/-- What marks a trap in cause: asynchronous, late, engine (R337). -/
structure TrapKind where
  asyn : Bool
  late : Bool
  eng : Bool
  deriving DecidableEq, Repr, Inhabited

/-- A trap whose delivery waits (R339 step 4, R377): the resumption PC, tval, its marks and its cause. -/
structure HeldTrap where
  epc : Word
  tval : Word
  kind : TrapKind
  cause : Cause
  deriving DecidableEq, Repr, Inhabited

/-- What a fetch of an instruction word came to: the word, or a trap with its tval. -/
inductive FetchEnd
  | word (v : BitVec 32)
  | trap (c : Cause) (tval : Word)
  deriving DecidableEq, Repr, Inhabited

/-- Words that an instruction reads at issue from anywhere, with the rights of its context (R269, R350): those still to be asked for, by number, with
their addresses, the reads on their way, the words that have come, and what the first failed with. -/
structure Gather where
  left : List (Nat × Word × Nat)
  asked : List Nat
  got : Map Word
  bad : Option (Cause × Word × Nat)
  deriving DecidableEq, Repr, Inhabited

/-- A context (R27, R37 to R42, R337). `fetched` are the words of the instruction at PC, or of its frame, that have come from their homes,
by address, `fetching` is the number of a fetch on its way (R255), `expired` says that CNT reached the limit in this cc (R262), `heldTrap` is a
trap whose delivery waits (R339), `gather` holds words read at issue. `resend` is an access to be re-sent (R227), due once its `attempt` is 0, `resendMore` those recorded before it; `busy` is the completing
park of a context frozen in it (R36, R355); `flush` lists the host ports that stores of the context went to since its last FENCE.S, each
with the number of the flushing read on its way (R215); `yielded` is the cc until which YIELD gives up lent positions (R303); `walkFault` and
`walkHit` hold the end of a walk for the access that missed where no entry stands for it (R202, R353); `frameBad` says that an ERET returned into a frame that breaks R300; `cancelling` is what a cancel under way is for (R227); `hcall` is the number of the HCALL that awaits its reply (R345). -/
structure Ctx where
  kind : CtxKind
  run : Run
  prv : Mode
  mode : Mode
  part : Nat
  asid : Nat
  base : Nat
  lim : Nat
  pc : Word
  pw : BitVec 32
  prec : BitVec 8
  ecls : BitVec 3
  fmta : Word
  fmtb : Word
  wdog : Word
  thrc : Word
  trapen : Word
  cause : Word
  epc : Word
  tval : Word
  repst : Word
  grp : Word
  tsv : List (Word × Bool)
  dref : Word
  ovix : Option (Nat × Nat)
  out : List OutOp
  cond : Option Access
  resend : Option Access
  pend : Pend
  issuedW : Nat
  performedW : Nat
  nwrOut : List Nat
  sets : List (Nat × Nat × Nat)
  spacing : Nat
  yielded : Nat
  retired : Nat
  role : Role
  lvq : List LvqEntry
  walkFault : Option (Word × Cause × Word)
  walkHit : Option (Word × TlbEntry)
  walking : Bool
  busy : Option Park
  flush : List (Nat × Option Nat)
  stall : Option Stall
  frameBad : Bool
  cancelling : Option Interrupt
  hcall : Option Nat
  fetched : List (Word × FetchEnd) := []
  fetching : Option Nat := none
  expired : Bool := false
  heldTrap : Option HeldTrap := none
  resendMore : List Access := []
  gather : Option Gather := none
  deriving DecidableEq, Repr, Inhabited

/-- A range of bytes of a tile, from `lo` up to but not including `hi`. -/
structure Range where
  lo : Nat
  hi : Nat
  deriving DecidableEq, Repr, Inhabited

/-- A hold of the tile scoreboard (R217): which command, what it writes and reads. `after` names the accesses (module, core, number) that
waited on the scoreboard when the hold was taken, which it does not stop. -/
structure Hold where
  id : Nat
  writes : List Range
  reads : List Range
  after : List (Nat × Nat × Nat)
  deriving DecidableEq, Repr, Inhabited

/-- A shape record as read at issue (R76, R77). -/
structure Shape where
  at_ : Nat
  fmt : Nat
  rm : Nat
  nd : Nat
  base : Nat
  e : List Nat
  st : List Int
  wen : Bool
  wbeg : Nat
  wend : Nat
  men : Bool
  mask : Nat
  tid : Nat
  auxk : Nat
  aux : Nat
  deriving DecidableEq, Repr, Inhabited

/-- A drain record as read at issue (R124). -/
structure DrainRec where
  ren : Bool
  rfmt : Nat
  rbase : Nat
  rs1 : Int
  rs0 : Int
  kscl : BitVec 32
  pdrop : Nat
  key : Word
  rowb : Nat
  colb : Nat
  deriving DecidableEq, Repr, Inhabited

/-- What an engine command does (R155), with the function that its word named; VFILL's value, the K-blocks of a matrix command, the
streams of a set command. -/
inductive CmdOp
  | vop (fn : Nat)
  | vun (fn : Nat) (value : Word)
  | vred (fn : Nat)
  | vmem (fn : Nat)
  | mx (blocks : List Nat)
  | acc (fn : Nat)
  | plane (fn : Nat)
  | set (fn : Nat) (sa sb : Nat)
  deriving DecidableEq, Repr, Inhabited

/-- The parts that run engine commands one at a time (R153, R155). -/
inductive Part | dense | core | vector | special | accPort | setEngine
  deriving DecidableEq, Repr, Inhabited

/-- The running sum of one output (R116, R117): the 648-bit sum, the near accumulator with its base, SIV to set, and the tile SRAM
address of an untrusted word it met (R369). -/
structure OutSum where
  s : Int
  n : Int
  q : Option Nat
  siv : Bool
  bad : Option Nat
  deriving DecidableEq, Repr, Inhabited

/-- An engine command in progress (R155): issuer, what it took at issue, its progress. A scale is a byte, or 256 plus the tile SRAM
address of an untrusted word. `units` of work (elements, slots) are done `rate` to a cc, one to two cc where `rate` is 0, each charged
`eu`; `done` counts those done, `jobs` the elements written. `todo` are the sub-steps left of a matrix command. A set command holds the
keys read, the number of a key read on its way and for which stream, the outputs written. `bad` is an untrusted word that stopped it,
`stop` the fault of a key, `ended` that nothing is left to do. -/
structure Cmd where
  id : Nat
  slot : Nat
  gen : BitVec 16
  op : CmdOp
  part : Part
  blocking : Bool
  dst : Shape
  a : Option Shape
  b : Option Shape
  drain : Option DrainRec
  wa : Nat
  wb : Nat
  wsa : Nat
  wsb : Nat
  scaleA : List Nat
  scaleB : List Nat
  sums : List OutSum
  todo : List Nat
  units : Nat
  done : Nat
  jobs : Nat
  rate : Nat
  eu : Nat
  flags : BitVec 6
  bad : Option Nat
  keyA : Option Word
  keyB : Option Word
  req : Option (Nat × Bool)
  out : Nat
  stop : Option (Cause × Word)
  ended : Bool
  again : Bool := false
  deriving DecidableEq, Repr, Inhabited

/-- A copy descriptor as read at issue (R76, R78). -/
structure Desc where
  src : Word
  dst : Word
  nd : Nat
  esz : Nat
  fes : Bool
  cast : Nat
  e : List Nat
  ss : List Int
  ds : List Int
  dwen : Bool
  dwbeg : Nat
  dwend : Nat
  swen : Bool
  swbeg : Nat
  swend : Nat
  deriving DecidableEq, Repr, Inhabited

/-- A copy channel (R240 to R244): the copy it runs or ran last. `targets` are its destinations, with the core each must lie in for a
CPCAST; target `self` is the one in this tile, whose pages lie at the tile SRAM offsets of `pages`. `before` are the SEQs of its earlier copies. `reads` counts source reads sent,
`answered` those answered, `buf` the values read and not yet written, `writes` the elements written out, `done` the destination writes
performed at or above the write pointer `wp` (element, target), `owed` the destination writes not yet answered. `stopping` is the fault that stops it and its element. -/
structure Chan where
  seq : Nat
  slot : Nat
  gen : BitVec 16
  id : Nat
  desc : Desc
  asid : Nat
  tag : Tag
  cast : Bool
  targets : List (Nat × Word)
  self : Nat
  pages : Map Nat
  total : Nat
  reads : Nat
  answered : Nat
  buf : List (Nat × Word)
  writes : Nat
  done : List (Nat × Nat)
  owed : Nat
  wp : Nat
  finished : Bool
  fault : Bool
  stopping : Option (Nat × Cause × Word)
  before : List Nat := []
  deriving DecidableEq, Repr, Inhabited

/-- A stream register (R178). -/
structure Stream where
  va : Word
  len : Nat
  pos : Nat
  cnt : Nat
  isOpen : Bool
  rs : Bool
  fmt : Nat
  slot : Nat
  gen : BitVec 16
  deriving DecidableEq, Repr, Inhabited

/-- The reset value of a stream register (R178). -/
def Stream.reset : Stream :=
  { va := 0, len := 0, pos := 0, cnt := 0, isOpen := false, rs := false, fmt := 0, slot := 0, gen := 0 }

/-- A constraint of the conflict-batching unit (R247). -/
structure Constraint where
  tag : Word
  bodies : List Nat
  tested : Bool
  deriving DecidableEq, Repr, Inhabited

/-- A CB instruction that the unit is finishing (R245): its context, the register its result goes to, and the words it writes from an
address on. -/
structure CbBusy where
  slot : Nat
  gen : BitVec 16
  dst : Option Nat
  value : Word
  at_ : Nat
  out : List Word
  deriving DecidableEq, Repr, Inhabited

/-- The conflict-batching unit (R245 to R249). `owner` is slot, generation and, while saved, the save key; `busy` the instructions it is
finishing, oldest first. -/
structure Cbu where
  owner : Option (Nat × BitVec 16)
  savedBy : Option Nat
  ml : Nat
  bl : Nat
  pending : List Constraint
  batch : List Constraint
  closed : List (List Word)
  busy : List CbBusy
  deriving DecidableEq, Repr, Inhabited

/-- The unit with no owner (R245). -/
def Cbu.reset : Cbu :=
  { owner := none, savedBy := none, ml := 0, bl := 0, pending := [], batch := [], closed := [], busy := [] }

/-- A member's state at a barrier (R309). `saved` holds the save key while the member is saved (R347). -/
structure Member where
  bar : Nat
  slot : Nat
  saved : Option Nat
  joining : Bool
  out : Bool
  ap : BitVec 16
  done : Bool
  res : Bool
  deriving DecidableEq, Repr, Inhabited

/-- A registered child of a barrier (R308); a merge entry counts as one, named by its entry (R408). -/
structure Child where
  bar : Nat
  who : Option BarId
  entry : Nat
  deriving DecidableEq, Repr, Inhabited

/-- A held instruction word of the cache (R15): the space it was fetched under, its address, its value. -/
structure ILine where
  part : Nat
  asid : Nat
  va : Word
  phys : Bool
  word : BitVec 32
  parity : Bool := false
  deriving DecidableEq, Repr, Inhabited

/-- A slot whose entries are being stripped (R32), or withheld by a borrower (R28, R234). -/
structure Strip where
  slot : Nat
  base : Nat
  lim : Nat
  deriving DecidableEq, Repr, Inhabited

/-- A merge buffer (R408): values of touched words by index. -/
structure MergeBuf where
  touched : Map Word
  committing : Nat
  deriving DecidableEq, Repr, Inhabited

/-- An entry of a drainage table (R272): its count, the +1s that wait for the parent's answer to the first of them (R273), each with the child it
came from, and how many −1s have met it meanwhile. -/
structure DrainEnt where
  node : DrainNode
  root : Nat
  count : Nat
  waits : List (DrainNode × DrainWait)
  lows : Nat
  deriving DecidableEq, Repr, Inhabited

/-- What the message context of a home has to do in its issue turns (R188, R205, R251): answer a message that has taken its place in the
home order, say that an attempt failed, forward a request to the page's new home, or have served a wait list. -/
inductive Job
  | answer (r : Reply)
  | again (a : Access)
  | forward (a : Access)
  | served
  deriving DecidableEq, Repr, Inhabited

/-- The serving of a word's wait list (R226): whether it goes on in this cc, the entries of the walk not yet reached, and whether this walk performed
any. -/
structure Serving where
  word : Nat
  due : Bool
  left : List Access
  any_ : Bool
  deriving DecidableEq, Repr, Inhabited

/-- A core with what hangs on it: a tile with its engine, or a rim core (R12, R18). `replay` the requests that its link has not acknowledged (R405), `awaited` those acknowledged and not answered (R440), `failedLinks` the mesh
links that failed (R370), `issued` the slot that issued in this cc and whether the cc counts in its CNT (R260), `took` that the home has taken
an access in this cc, `ready` the accesses that wait to enter its order, `servings` the wait lists it serves, oldest first (R207,
R226), `jobs` the work of its message context, `skim` the pages of a tier migration, and `spare` the bank of a sparing, as GO took them (R204, R399; log 48), `removed` the translations that TLBI removed, each with the number of the
first access issued later (R203), `aborts` the abort requests that reached a root barrier in this cc (R312), `residue` how the next residue checks of its dense array come out, true for a failure (R369). Registers of the control block that were
written stand in `cb` by offset; the others read their reset value. -/
structure Core where
  cc : Nat
  slots : Map Ctx
  gens : Map (BitVec 16)
  file : Map RegEntry
  strips : List Strip
  withheld : List Strip
  cb : Map Word
  ringHead : Nat
  ringCount : Nat
  overflow : List (Nat × Nat)
  tlb : List TlbEntry
  icache : List ILine
  holds : List Hold
  blocked : List Access
  cmds : List Cmd
  credit : Nat
  pace : Nat
  chans : Map Chan
  cpSeq : Nat
  streams : Map Stream
  cbu : Cbu
  waits : List Access
  nwr : List NWrite
  members : List Member
  children : List Child
  sseq : Nat
  hcq : List HReq
  hcPop : List Word
  hcStage : List Word
  merges : Map MergeBuf
  hot : Map Nat
  replay : List Access
  awaited : List Access
  failedLinks : List Nat
  residue : List Bool
  issued : Option (Nat × Bool) := none
  took : Bool := false
  ready : List Access := []
  servings : List Serving := []
  jobs : List Job := []
  aborts : List (Nat × BitVec 16) := []
  skim : Option (Nat × Nat) := none
  spare : Word := 0
  removed : List (TlbEntry × Nat) := []
  deriving DecidableEq, Repr, Inhabited

/-- A combine entry of a confluence node (R195): the PA of the word, the tag its members share, the members in order, whether sent. -/
structure Combine where
  node : Nat
  word : Nat
  members : List Access
  sent : Bool
  id : Nat
  deriving DecidableEq, Repr, Inhabited

/-- A launch record on the pending list (R264, R265). `root` is the LPA of its root word, 0 where it is uncounted; `pages` the physical
pages of its .tile image. -/
structure LaunchRec where
  index : Nat
  pa : Nat
  seq : Nat
  prio : Nat
  entry : Word
  root : Nat
  wlim : Nat
  asid : Nat
  alloc : Nat
  ecls : Nat
  rmask : Nat
  cpt : Nat
  tpr : Nat
  kmask : Nat
  arg0 : Word
  arg1 : Word
  timg : Word
  toff : Nat
  tlen : Nat
  pages : List Nat
  deriving DecidableEq, Repr, Inhabited

/-- A gang being placed or awaiting its charges (R266, R267): placed members as (core, slot), charges still owed. Of the image it copies: the
tiles left, the next byte, the number of the read that is on its way, and what the last one brought, if it did not fail. -/
structure Gang where
  rcd : LaunchRec
  members : List (Nat × Nat)
  nextRet : Nat
  placed : Bool
  charges : Nat
  failed : Bool
  tiles : List Nat := []
  next : Nat := 0
  asked : Option Nat := none
  got : Option (Option Word) := none
  deriving DecidableEq, Repr, Inhabited

/-- A reticle's part in Watershed (R379 to R384). Phase 0 before power-up, 7 once published. -/
structure Shed where
  phase : Nat
  key : Nat
  best : Nat
  parent : Option Nat
  trained : List Nat
  sideKeys : List (Nat × Nat)
  children : List Nat
  reports : List Report
  restarts : Nat
  strips : List Nat
  hostSides : List Nat
  devices : Word
  dark : Nat
  draws : Nat
  deriving DecidableEq, Repr, Inhabited

/-- Watershed not begun. -/
def Shed.reset : Shed :=
  { phase := 0, key := 0, best := 0, parent := none, trained := [], sideKeys := [], children := [], reports := [],
    restarts := 0, strips := [], hostSides := [], devices := 0, dark := 0, draws := 0 }

/-- A basin's place in Lowland (R392, R395): running, draining, retained. -/
inductive Low | running | draining | retained
  deriving DecidableEq, Repr, Inhabited

/-- Tokens that a tile has lost and its engine still draws until its next sub-step boundary (R282, R278): they then join the pool, or go
to the tile they are lent to. -/
structure Gain where
  src : Nat
  n : Nat
  dst : Option Nat
  deriving DecidableEq, Repr, Inhabited

/-- An entry of the error log: source kind, who is blamed or which unit found the error, class, action, cause code, address of
kind `ak`, detail (R363). -/
structure LogEntry where
  cls : Nat
  kind : Nat
  act : Nat
  ret : Nat
  tile : Nat
  slot : Nat
  gen : Nat
  addr : Word
  ak : Nat
  code : Nat
  detail : Nat
  deriving DecidableEq, Repr, Inhabited

/-- An error found in this cc (R361): the tile that found it, its entry with the action the matrix gives, and the core of the context it is
charged to, and the slot. -/
structure Found where
  tile : Nat
  entry : LogEntry
  who : Option (Nat × Nat)
  deriving DecidableEq, Repr, Inhabited

/-- A reticle: basin, broker, launcher, trees, Watershed (R9, R279, R263, R272, R379). `unmet` gives the step in which each unmet
tile became so, `idle` the boundary from which each holder counts as idle, `worked` the tiles charged since the last boundary, `offers` the
loans offered by side and not yet taken, `recalled` those called back and not yet returned. `drained` is the length of a drain in cc
(R392), `resumed` that none of its contexts has issued since it left Lowland (R397), `left` what its requests lacked after the grants of its last round (R287). Of the present cc: `late` says that its issues are over, `closed`
that its round or the end of a notice is done, `asked` gives by tile what this cc's requests added to WANT and the CLS before them, `budgeted` is a BUDGET accepted
in it (R289), `found` are the errors found (R361). -/
structure Ret where
  cc : Nat
  cb : Map Word
  dramUsed : Bool
  pool : List Nat
  launch : List LaunchRec
  gang : Option Gang
  step : Nat
  unmet : Map Nat
  idle : Map Nat
  worked : List Nat
  droopHold : Nat
  gains : List Gain
  loanIn : Map Nat
  loanOut : Map Nat
  offers : Map Nat
  recalled : Map Nat
  accepted : Option Nat
  combine : List Combine
  shed : Shed
  low : Low
  drained : Nat
  resumed : Bool
  late : Bool := false
  closed : Bool := false
  asked : Map (Nat × Nat) := []
  budgeted : Option Nat := none
  left : Nat := 0
  found : List Found := []
  deriving DecidableEq, Repr, Inhabited

/-- Who executes: a core and a slot. -/
structure Who where
  core : Nat
  slot : Nat
  deriving DecidableEq, Repr, Inhabited

/-- The supply and freeze inputs of the module (R26, R391). -/
structure Power where
  good : Bool
  lowCause : Nat
  frozen : Bool
  epoch : Nat
  lines : List Summary
  claimed : Option Nat
  deriving DecidableEq, Repr, Inhabited

/-- The whole module. `corrupt` lists the words whose check bits do not agree with them, `soft` the bit or symbol that the check corrects in
those of them where it can (R357). `outbox` holds the requests that have left it, `hostLog` the answers that it has given to others, `departed` the
barrier messages that have gone to other modules. -/
structure State where
  cores : Map Core
  rets : Map Ret
  mem : List Host.Cell
  empties : List Nat
  poison : List Nat
  corrupt : List Nat
  soft : Map Nat
  topo : Map Word
  deadPasses : List (Nat × Nat)
  drain : List DrainEnt
  power : Power
  outbox : List Access
  hostLog : List (Nat × Status × Word)
  departed : List Ev
  inputs : List Ev
  pending : List Ev
  ev : Option Ev
  cur : Who
  ir : BitVec 32
  ids : Nat
  picks : Nat
  deriving DecidableEq, Repr

/-- A core after reset (R27: hardware makes the message context; every other slot is free). Log 3 names the values the manual
does not give. -/
def Core.blank : Core :=
  { cc := 0, slots := [], gens := [], file := [], strips := [], withheld := [], cb := [], ringHead := 0, ringCount := 0,
    overflow := [], tlb := [], icache := [], holds := [], blocked := [], cmds := [], credit := 0, pace := 0, chans := [], cpSeq := 0,
    streams := [], cbu := Cbu.reset, waits := [], nwr := [], members := [], children := [], sseq := 0,
    hcq := [], hcPop := [], hcStage := [], merges := [], hot := [], replay := [], awaited := [], failedLinks := [], residue := [] }

/-- A new context (R42): every named register at its creation value. -/
def Ctx.fresh (kind : CtxKind) (prv : Mode) (part asid base lim : Nat) (pc : Word) : Ctx :=
  { kind := kind, run := .ready, prv := prv, mode := prv, part := part, asid := asid, base := base, lim := lim, pc := pc,
    pw := 1, prec := 0x77, ecls := 0, fmta := 0, fmtb := 0, wdog := 0, thrc := 0, trapen := 0, cause := 0, epc := 0,
    tval := 0, repst := 0, grp := 0, tsv := [(0, true), (0, true), (0, true), (0, true)], dref := 0, ovix := none, out := [],
    cond := none, resend := none, pend := Pend.none, issuedW := 0, performedW := 0, nwrOut := [], sets := [], spacing := 0,
    yielded := 0, retired := 0, role := .single, lvq := [], walkFault := none, walkHit := none, walking := false,
    busy := none, flush := [], stall := none, frameBad := false,
    cancelling := none, hcall := none }

/-- The message context of slot 63: 32 registers at 2,016, mode F (R27, R29). It executes messages, not words, so its state is
that of a context parked with nothing to perform (R251). -/
def Ctx.message : Ctx := { Ctx.fresh .message .f 0 0 2016 32 0 with run := .parked .cond }

/-- A core after reset. -/
def Core.reset : Core := { Core.blank with slots := [(63, Ctx.message)] }

/-- A reticle after reset. -/
def Ret.reset : Ret :=
  { cc := 0, cb := [], dramUsed := false, pool := [], launch := [], gang := none, step := 0, unmet := [], idle := [],
    worked := [], droopHold := 0, gains := [], loanIn := [], loanOut := [], offers := [], recalled := [], accepted := none, combine := [], shed := Shed.reset, low := .running, drained := 0, resumed := false }

/-- The module right after reset: no table published, no context but the message contexts, memory with nothing listed, supply
good, nothing in flight. -/
def State.reset : State :=
  { cores := [], rets := [], mem := [], empties := [], poison := [], corrupt := [], soft := [], topo := [], deadPasses := [], drain := [],
    power := { good := true, lowCause := 0, frozen := false, epoch := 0, lines := [], claimed := none }, outbox := [],
    hostLog := [], departed := [], inputs := [], pending := [], ev := none, cur := { core := 0, slot := 62 }, ir := 0, ids := 1, picks := 0 }

end Sys2Proof.Machine
end

