-- ==== Sys2Proof/Machine/Ops.lean ====
section
/-! DEFINITION. Named operations over the cores, contexts, registers and memory of the state, which every meaning is written
over: reading and writing a register, finishing an instruction, parking, taking a trap and returning from one, replies. -/
namespace Sys2Proof

/-- Bytes an operation touches at its address. -/
def MemOp.bytes : MemOp → Nat
  | .load z _ => 2 ^ z
  | .store z => 2 ^ z
  | .copyRead z => 2 ^ z
  | .copyWrite z _ => 2 ^ z
  | .amo op _ => if op = 10 then 4 else 8
  | .red op => if op = 10 then 4 else 8
  | .scale => 1
  | .fetch => 4
  | _ => 8

/-- The operation may change memory (R217). -/
def MemOp.writes : MemOp → Bool
  | .load _ _ => false
  | .ldff => false
  | .feget => false
  | .copyRead _ => false
  | .drwait => false
  | .scale => false
  | .fetch => false
  | _ => true

/-- The operation's answer carries a value counted in ctr.LD (R206). -/
def MemOp.isLoad : MemOp → Bool
  | .load _ _ => true
  | .ldfe => true
  | .ldff => true
  | .feget => true
  | .amo _ f => f
  | .qpush => true
  | .qpop => true
  | .drwait => true
  | .copyRead _ => true
  | .scale => true
  | .fetch => true
  | _ => false

/-- The operation is one of the conditional accesses (R225, R315, R317). -/
def MemOp.conditional : MemOp → Bool
  | .ldfe => true
  | .ldff => true
  | .stef => true
  | .qpop => true
  | .drwait => true
  | _ => false

/-- A reduction (R229). -/
def MemOp.isRed : MemOp → Bool
  | .red _ => true
  | _ => false

/-- The operation raises the issued-write count (R220). -/
def MemOp.countedWrite : MemOp → Bool
  | .store _ => true
  | .stef => true
  | .stff => true
  | .stfe => true
  | .feset => true
  | .amo _ _ => true
  | .red _ => true
  | _ => false

/-- The whole word is written, whatever it held (R191). -/
def MemOp.overwrites : MemOp → Bool
  | .store z => z == 3
  | .stef => true
  | .stff => true
  | .stfe => true
  | .copyWrite z _ => z == 3
  | _ => false

/-- The event by which a request that leaves its core reaches its home (R188). -/
def Access.event (a : Access) : Ev :=
  if a.op.conditional then .conditionalAttempt a
  else match a.op with
    | .red _ => .remoteUpdateMigrant a
    | .load _ _ => .loadRequest a
    | .copyRead _ => .loadRequest a
    | .scale => .loadRequest a
    | .fetch => .loadRequest a
    | _ => .activeMessage a

end Sys2Proof

namespace Sys2Proof.Machine

/-- What an instruction or an event answers. -/
abbrev Out := Host.Outcome State Fault Refusal

/-! Cores, reticles, contexts. -/

/-- The core of reticle `r` with tile number `t` (R41). -/
def coreId (r t : Nat) : Nat := 256 * r + t
/-- The reticle of a core. -/
def coreRet (c : Nat) : Nat := c / 256
/-- tileid.TILE of a core. -/
def coreTile (c : Nat) : Nat := c % 256
/-- A tile core, as against a rim core (R18). -/
def isTile (c : Nat) : Bool := decide (coreTile c < 192)

/-- A core's state: one never touched is as reset left it. -/
def State.core (s : State) (c : Nat) : Core := (mget s.cores c).getD Core.reset
/-- Replace a core's state. -/
def State.setCore (s : State) (c : Nat) (k : Core) : State := { s with cores := mput c k s.cores }
/-- Change a core's state. -/
def State.modCore (s : State) (c : Nat) (f : Core → Core) : State := s.setCore c (f (s.core c))
/-- A reticle's state. -/
def State.reticle (s : State) (r : Nat) : Ret := (mget s.rets r).getD Ret.reset
/-- Replace a reticle's state. -/
def State.setRet (s : State) (r : Nat) (k : Ret) : State := { s with rets := mput r k s.rets }
/-- Change a reticle's state. -/
def State.modRet (s : State) (r : Nat) (f : Ret → Ret) : State := s.setRet r (f (s.reticle r))

/-- Cores of a reticle at which something has happened. -/
def State.coresOf (s : State) (r : Nat) : List Nat := (s.cores.map (·.1)).filter fun c => coreRet c == r

/-- The context in a slot, if the slot holds one (R27). -/
def State.ctx? (s : State) (w : Who) : Option Ctx := mget (s.core w.core).slots w.slot
/-- Put a context into a slot. -/
def State.setCtx (s : State) (w : Who) (c : Ctx) : State :=
  s.modCore w.core fun k => { k with slots := mput w.slot c k.slots }
/-- Change the context in a slot; a free slot stays free. -/
def State.modCtx (s : State) (w : Who) (f : Ctx → Ctx) : State :=
  match s.ctx? w with
  | none => s
  | some c => s.setCtx w (f c)
/-- The generation of a slot (R35). -/
def State.gen (s : State) (w : Who) : BitVec 16 := (mget (s.core w.core).gens w.slot).getD 0
/-- Raise the generation of a slot (R35). -/
def State.bumpGen (s : State) (w : Who) : State :=
  s.modCore w.core fun k => { k with gens := mput w.slot ((mget k.gens w.slot).getD 0 + 1) k.gens }

/-- Send an event on its way. -/
def State.push (s : State) (i : Ev) : State := { s with pending := s.pending ++ [i] }
/-- Send several. -/
def State.pushAll (s : State) (l : List Ev) : State := { s with pending := s.pending ++ l }
/-- Send an event ahead of those under way, which it goes before. -/
def State.pushFront (s : State) (i : Ev) : State := { s with pending := i :: s.pending }
/-- Take a fresh number. -/
def State.fresh (s : State) : Nat × State := (s.ids, { s with ids := s.ids + 1 })

/-! Registers (R29, R30, R33). -/

/-- Entry of the register file that register `r` of a context names. -/
def Ctx.entry (c : Ctx) (r : Nat) : Nat := c.base + r
/-- Entry `e` of a core's register file; one not listed is stripped (R29, R32). -/
def State.fileEntry (s : State) (c e : Nat) : RegEntry := (mget (s.core c).file e).getD RegEntry.stripped
/-- The entry a register names, x0 apart. -/
def State.regEntry (s : State) (w : Who) (c : Ctx) (r : Nat) : RegEntry :=
  if r = 0 then RegEntry.stripped else s.fileEntry w.core (c.entry r)
/-- The value of a register; x0 reads zero (R30). -/
def State.reg (s : State) (w : Who) (c : Ctx) (r : Nat) : Word := (s.regEntry w c r).val
/-- Put an entry; x0 keeps its own (R30). -/
def State.setEntry (s : State) (w : Who) (c : Ctx) (r : Nat) (e : RegEntry) : State :=
  if r = 0 then s
  else s.modCore w.core fun k => { k with file := mset RegEntry.stripped (c.entry r) e k.file }
/-- Write a register and set its presence bit (R33). -/
def State.setReg (s : State) (w : Who) (c : Ctx) (r : Nat) (v : Word) : State :=
  s.setEntry w c r { val := v, pres := .present, bad := false }
/-- Clear the presence bit of a register a reply is owed to (R33). -/
def State.owe (s : State) (w : Who) (c : Ctx) (r : Nat) : State :=
  s.setEntry w c r { (s.regEntry w c r) with pres := .owed }
/-- Set the presence bit again with the value unchanged (R222, R227). -/
def State.unowe (s : State) (w : Who) (c : Ctx) (r : Nat) : State :=
  s.setEntry w c r { (s.regEntry w c r) with pres := .present }
/-- Write a register of whichever context is in the slot. -/
def State.setRegOf (s : State) (w : Who) (r : Nat) (v : Word) : State :=
  match s.ctx? w with
  | none => s
  | some c => s.setReg w c r v

/-- Strip entries [base, base+n) of a core: zero, fresh check bits, present (R32). -/
def stripEntries (base n : Nat) (f : Map RegEntry) : Map RegEntry := f.filter fun p => p.1 < base || base + n ≤ p.1

/-! Control-block registers: words by offset, with the value each has at reset where never written. -/

/-- Classes' default actions (R357). -/
def defaultAction (cls : Nat) : Nat := [1, 1, 1, 1, 1, 3, 1, 2, 1, 3, 1, 2, 3, 0].getD cls 0
/-- An action in each of the nibbles of source kinds 0 to 7 (R359). -/
def everyKind (a : Nat) : Word := BitVec.ofNat 64 (a * 0x11111111)

/-- Table offset of the access table in every control block (R325). -/
def accOff : Nat := 0x8000

/-- Reset value of a word of a core's control block (R277 for VEB and F, R327 for the access table, R407 for LTO). -/
def coreRegReset (off : Nat) : Word :=
  if off = accOff then 0xC0F8000000000000
  else if off = accOff + 8 then 0x0000FFFFFFFFFFC0
  else if off = 0x0208 then 0x0000400000004000
  else if off = 0x0A08 then 0x0000000000010000
  else 0

/-- Reset value of a word of a reticle's control block (R194, R285, R292, R327, R359). -/
def retRegReset (off : Nat) : Word :=
  if off = accOff then 0xC0F8000000000000
  else if off = accOff + 8 then 0x0000FFFFFFFFFFC0
  else if off = 0x0108 then 0x0000020000000074
  else if off = 0x0600 then 0x1F4
  else if off = 0x0608 then 0x0000000110080230
  else if off = 0x0618 then 0x280
  else if 0x0A00 ≤ off ∧ off < 0x0A70 then everyKind (defaultAction ((off - 0x0A00) / 8))
  else 0

/-- A word of a core's control block. -/
def State.cb (s : State) (c off : Nat) : Word := (mget (s.core c).cb off).getD (coreRegReset off)
/-- Write a word of a core's control block as it stands. -/
def State.setCb (s : State) (c off : Nat) (v : Word) : State := s.modCore c fun k => { k with cb := mput off v k.cb }
/-- A word of a reticle's control block. -/
def State.rcb (s : State) (r off : Nat) : Word := (mget (s.reticle r).cb off).getD (retRegReset off)
/-- Write a word of a reticle's control block as it stands. -/
def State.setRcb (s : State) (r off : Nat) (v : Word) : State := s.modRet r fun k => { k with cb := mput off v k.cb }
/-- A word of either block. -/
def State.blk (s : State) : Block → Nat → Word
  | .core c, off => s.cb c off
  | .ret r, off => s.rcb r off
/-- Write a word of either block. -/
def State.setBlk (s : State) (b : Block) (off : Nat) (v : Word) : State :=
  match b with
  | .core c => s.setCb c off v
  | .ret r => s.setRcb r off v

/-- Raise a field by one, keeping it at its greatest value once there. -/
def satInc (w : Word) (hi lo : Nat) : Word :=
  if bits w hi lo + 1 < 2 ^ (hi + 1 - lo) then setBits w hi lo (bits w hi lo + 1) else w

/-! The topology table (R386, R387): one table, which every live reticle holds. -/

/-- A word of the topology table by its offset; zero before it is published. -/
def State.topoWord (s : State) (off : Nat) : Word := (mget s.topo off).getD 0
/-- The table has been published. -/
def State.published (s : State) : Bool := bit (s.topoWord 0x2000) 63
/-- Word `i` of a reticle's entry. -/
def State.topoEntry (s : State) (r i : Nat) : Word := s.topoWord (0x2040 + 64 * r + 8 * i)
/-- A reticle is live. -/
def State.retLive (s : State) (r : Nat) : Bool := decide (r < 49) && bit (s.topoEntry r 0) 63
/-- The live reticles in ascending number. -/
def State.liveRets (s : State) : List Nat := upTo 49 s.retLive
/-- The module number (R386): tileid.MOD. -/
def State.modn (s : State) : Nat := bits (s.topoWord 0x2000) 55 48
/-- Reticle on the other end of a side: 0 north, 1 east, 2 south, 3 west (R8, R10). -/
def neighbourRet (r side : Nat) : Option Nat :=
  let x := r % 7
  let y := r / 7
  match side with
  | 0 => if y = 0 then none else some (r - 7)
  | 1 => if x = 6 then none else some (r + 1)
  | 2 => if y = 6 then none else some (r + 7)
  | _ => if x = 0 then none else some (r - 1)
/-- The opposite side. -/
def opposite (side : Nat) : Nat := (side + 2) % 4
/-- The pass on a side of a reticle is live (R387), and has not been lost since (R288). -/
def State.passLive (s : State) (r side : Nat) : Bool :=
  s.retLive r && bit (s.topoEntry r 0) (62 - side) && !s.deadPasses.contains (r, side)
/-- A tile failed its test or is cut off (R16, R387). -/
def State.tileFailed (s : State) (r t : Nat) : Bool := bit (s.topoEntry r (1 + t / 64)) (t % 64)
/-- Tile of a live reticle that has not failed. -/
def State.tileLive (s : State) (r t : Nat) : Bool := decide (t < 192) && s.retLive r && !s.tileFailed r t
/-- Lowest-numbered live tile of a reticle, whose core is home of the reticle control block (R186). -/
def State.firstTile (s : State) (r : Nat) : Nat := ((List.range 192).find? fun t => s.tileLive r t).getD 0
/-- Edge ordinal of a reticle (R183). -/
def edgeOrdinals : List Nat := [0, 1, 2, 3, 4, 5, 6, 7, 13, 14, 20, 21, 27, 28, 34, 35, 41, 42, 43, 44, 45, 46, 47, 48]
/-- A reticle on the edge of the wafer (R8). -/
def isEdge (r : Nat) : Bool := edgeOrdinals.contains r
/-- The reticles with host ports in the order of their windows: (3,0), (6,3), (3,6), (0,3) (R18, R183). -/
def hostRets : List Nat := [3, 27, 45, 21]
/-- A rim core exists and its device is present (R18, R20, R41). -/
def State.rimLive (s : State) (r t : Nat) : Bool :=
  let e := s.topoEntry r 0
  s.retLive r && isEdge r &&
    (if t < 192 then false
     else if t < 208 then bit e 47
     else if t < 212 then bit e (39 + 2 * (t - 208)) || bit e (40 + 2 * (t - 208))
     else if t = 212 then bit e 38 || bit e 36
     else if t = 213 then !hostRets.contains r && bit e 37
     else false)
/-- A core that is there and works. -/
def State.coreLive (s : State) (c : Nat) : Bool :=
  if isTile c then s.tileLive (coreRet c) (coreTile c) else s.rimLive (coreRet c) (coreTile c)

/-- Kinds of tile (R11). -/
inductive TileKind | d | a | v | s
  deriving DecidableEq, Repr, Inhabited
/-- The kind of a tile follows from its place in its cluster (R11). -/
def tileKind (t : Nat) : TileKind :=
  let lx := t % 16 % 4
  let ly := t / 16 % 4
  if ly < 2 then .d
  else if ly = 2 then (if lx < 3 then .a else .v)
  else if lx < 2 then .v else .s
/-- Cluster of a tile, or 12 for a rim core (R11, R272). -/
def clusterOf (t : Nat) : Nat := if t < 192 then 4 * (t / 16 / 4) + t % 16 / 4 else 12
/-- Tokens at full rate by kind (R23). -/
def TileKind.full : TileKind → Nat
  | .d => 8 | .a => 7 | .v => 5 | .s => 4

/-- The partition of a reticle, if it belongs to one (R323). -/
def State.pid (s : State) (r : Nat) : Nat := bits (s.rcb r 0x0700) 5 0
/-- PVAL. -/
def State.pval (s : State) (r : Nat) : Bool := bit (s.rcb r 0x0700) 63
/-- Two reticles are of one partition. -/
def State.samePart (s : State) (r q : Nat) : Bool := s.pval r && s.pval q && s.pid r == s.pid q

/-! The counters of ctr and the outstanding operations (R39, R206, R214). -/

/-- How many operations of a class are outstanding. -/
def Ctx.count (c : Ctx) (k : Cls) : Nat := (c.out.filter fun o => o.cls == k).length
/-- Nothing is outstanding. -/
def Ctx.drained (c : Ctx) : Bool := c.out.isEmpty
/-- The control register ctr (R39). -/
def Ctx.ctr (c : Ctx) : Word :=
  BitVec.ofNat 64 (c.count .mx * 2 ^ 12 + c.count .cp * 2 ^ 8 + c.count .st * 2 ^ 4 + c.count .ld)
/-- Raise a counter: one more outstanding operation. -/
def Ctx.add (c : Ctx) (o : OutOp) : Ctx := { c with out := c.out ++ [o] }
/-- The outstanding operation of a number, the latest to be issued. -/
def Ctx.op? (c : Ctx) (id : Nat) : Option OutOp := c.out.reverse.find? fun o => o.id == id
/-- Lower a counter: an operation is no longer outstanding. -/
def Ctx.done (c : Ctx) (id : Nat) : Ctx := { c with out := c.out.filter fun o => o.id != id }

/-! The predicate word (R37). -/

/-- A predicate; p0 reads 1. -/
def Ctx.pred (c : Ctx) (p : Nat) : Bool := p == 0 || c.pw.getLsbD p
/-- Write a predicate; a write to p0 is discarded (R61). -/
def Ctx.setPred (c : Ctx) (p : Nat) (b : Bool) : Ctx :=
  if p = 0 then c
  else { c with pw := BitVec.ofNat 32 (setBit (c.pw.setWidth 64) p b).toNat }
/-- Set sticky flags, given in the order of pw[21:16] (R37, R128). -/
def Ctx.raise (c : Ctx) (f : BitVec 6) : Ctx := { c with pw := c.pw ||| BitVec.ofNat 32 (f.toNat * 2 ^ 16) }

/-! Modes. -/

/-- Code of a mode (R41). -/
def modeCode : Mode → Nat
  | .u => 0 | .s => 1 | .f => 2
/-- The mode of a code; 3 does not occur. -/
def modeOf : Nat → Mode
  | 0 => .u | 1 => .s | _ => .f
/-- A cause's code (R343). -/
def causeCode (c : Cause) : Nat := c.ctorIdx
/-- The context is in a handler (R339). -/
def Ctx.inh (c : Ctx) : Bool := bit c.cause 15
/-- A frame is active and not suspended (R298). -/
def Ctx.framing (c : Ctx) : Bool := bit c.repst 63 && !bit c.repst 62
/-- The source a context's requests carry (R35). -/
def State.src (s : State) (w : Who) : Src := { modn := s.modn, core := w.core, slot := w.slot, gen := s.gen w }
/-- The tag of a context's requests (R324). -/
def Ctx.tag (c : Ctx) : Tag := { part := c.part, mode := c.mode }

/-- The control register slotid (R41). -/
def State.slotid (s : State) (w : Who) (c : Ctx) : Word :=
  BitVec.ofNat 64 (c.part * 2 ^ 48 + c.asid * 2 ^ 32 + (s.gen w).toNat * 2 ^ 16 + modeCode c.prv * 2 ^ 12
    + (if c.kind == .message then 2 ^ 11 else 0)
    + (match c.role with | .single => 0 | .under _ => 2 ^ 9 | .top _ => 2 ^ 9 + 2 ^ 10)
    + (if c.kind == .migrant then 2 ^ 8 else 0) + w.slot)
/-- The control register tileid (R41). -/
def State.tileid (s : State) (w : Who) : Word :=
  BitVec.ofNat 64 (s.modn * 2 ^ 16 + coreRet w.core * 2 ^ 8 + coreTile w.core)
/-- The result layout of TSTART, a handle (R305). -/
def State.handle (s : State) (w : Who) : Word := BitVec.ofNat 64 ((s.gen w).toNat * 2 ^ 16 + w.slot)

/-! Finishing an instruction (R127, R129, R298, R342). -/

/-- The PC, repst after the instruction at PC completes its issue in a frame (R298), or as given outside one. `len` is the
instruction's length in words. -/
def nextInFrame (c : Ctx) (len : Nat) : Word × Word :=
  let r := c.repst
  let off := bits r 46 42
  let pos := bits r 41 38
  let first := c.pc - BitVec.ofNat 64 (4 * off)
  if pos < bits r 61 58 then
    (c.pc + BitVec.ofNat 64 (4 * len), setBits (setBits r 46 42 (off + len)) 41 38 (pos + 1))
  else if bits r 15 0 + 1 < bits r 31 16 then
    (first, setBits (setBits (setBits r 46 42 0) 41 38 0) 15 0 (bits r 15 0 + 1))
  else (first + BitVec.ofNat 64 (4 * (bits r 51 47 + 1)), 0)

/-- A topcoat of a redundant pair (R373). -/
def Ctx.isTop (c : Ctx) : Bool :=
  match c.role with
  | .top _ => true
  | _ => false

/-- STEPTRAP becomes pending when an instruction completes its issue in U with SSE set (R342); a pair's is its undercoat's (R377). -/
def stepDue (was c : Ctx) : Ctx :=
  if bit was.trapen 0 && was.mode == .u && !was.isTop then { c with pend := { c.pend with step := some was.pc } } else c

/-- No stall, and nothing found for the instruction at PC, is left: words, the end of a walk. -/
def Ctx.unheld (c : Ctx) : Ctx :=
  { c with stall := none, walkFault := none, walkHit := none, fetched := [], fetching := none, gather := none }

/-- The instruction at PC has completed its issue: PC and frame advance, spacing runs, the retire count rises. -/
def Ctx.finished (c : Ctx) (cc len spacing : Nat) : Ctx :=
  let pr := if c.framing then nextInFrame c len else (c.pc + BitVec.ofNat 64 (4 * len), c.repst)
  stepDue c { c.unheld with pc := pr.1, repst := pr.2, spacing := cc + spacing, yielded := 0, retired := c.retired + 1 }

/-- The clock of the basin a core is in (R9). -/
def State.now (s : State) (c : Nat) : Nat := (s.reticle (coreRet c)).cc

/-- Finish the current instruction of a context: `len` words long, with `spacing` cc to its next issue. -/
def State.finish (s : State) (w : Who) (len spacing : Nat) : State :=
  s.modCtx w fun c => c.finished (s.now w.core) len spacing

/-- Finish a control transfer to a target (R294). A frame never holds one (R297). -/
def State.finishTo (s : State) (w : Who) (target : Word) (spacing : Nat) : State :=
  s.modCtx w fun c => stepDue c { c.unheld with
    pc := target, spacing := s.now w.core + spacing, yielded := 0, retired := c.retired + 1 }

/-- Park a context (R36). -/
def State.park (s : State) (w : Who) (p : Park) : State := s.modCtx w fun c => { c with run := .parked p }
/-- Make a context Ready from the next cc on (R28, R254). -/
def State.wake (s : State) (w : Who) : State :=
  s.modCtx w fun c => { c with run := .ready, spacing := Nat.max c.spacing (s.now w.core + 1) }

/-! The error log (R362, R363) and CTXKILL entries (R366). -/

/-- Write an entry to a reticle's log, or raise LOST when the ring is full (R362). Answers the entry number and whether it was
written. -/
def State.logEntry (s : State) (r : Nat) (e : LogEntry) : State × Nat × Bool :=
  let head := bits (s.rcb r 0x0C00) 31 0
  let tail := bits (s.rcb r 0x0C08) 31 0
  if (head + 2 ^ 32 - tail) % 2 ^ 32 = 256 then (s.setRcb r 0x0C10 (satInc (s.rcb r 0x0C10) 15 0), head, false)
  else
    let at_ := 0x4000 + 32 * (head % 256)
    let w0 := BitVec.ofNat 64 (e.cls * 2 ^ 58 + e.kind * 2 ^ 52 + e.act * 2 ^ 48 + e.ret * 2 ^ 40 + e.tile * 2 ^ 32
      + e.slot * 2 ^ 24 + e.gen)
    let w2 := BitVec.ofNat 64 (e.ak * 2 ^ 62 + e.code * 2 ^ 56 + e.detail % 2 ^ 32)
    let w3 := BitVec.ofNat 64 (head * 2 ^ 32 + (s.reticle r).cc % 2 ^ 32)
    let s := s.setRcb r at_ w0
    let s := s.setRcb r (at_ + 8) e.addr
    let s := s.setRcb r (at_ + 16) w2
    let s := s.setRcb r (at_ + 24) w3
    (s.setRcb r 0x0C00 (BitVec.ofNat 64 ((head + 1) % 2 ^ 32)), head, true)

/-- Source kind of a context (R358). -/
def Ctx.srcKind (c : Ctx) : Nat :=
  match c.role, c.kind with
  | .single, .migrant => 3
  | .single, .resident => if c.prv == .s then 1 else 0
  | .single, _ => 2
  | _, _ => 4

/-! Routes to other modules (R406, R407). -/

/-- Link core of a route that is up: the primary, or the alternate once in use or where the primary is down (R406, R407). -/
def State.route (s : State) (r m : Nat) : Option Nat :=
  let e := s.rcb r (0x3000 + 8 * m)
  let prim := coreId (bits e 53 48) (bits e 47 40)
  let alt := coreId (bits e 29 24) (bits e 23 16)
  if !bit e 63 then none
  else if bit e 61 then (if bit (s.cb alt 0x0A00) 63 then some alt else none)
  else if bit (s.cb prim 0x0A00) 63 then some prim
  else if bit e 62 && bit (s.cb alt 0x0A00) 63 then some alt
  else none

/-- A module can be reached: only where the route is not valid, or neither link is up, a request traps (R394, R406). -/
def State.reachable (s : State) (r m : Nat) : Bool := (s.route r m).isSome

/-! Barriers (R307 to R312): each barrier's two words in the control block of its core. -/

/-- Configuration word of a barrier. -/
def barCfg (b : Nat) : Nat := 0x0300 + 16 * b
/-- Status word of a barrier. -/
def barSt (b : Nat) : Nat := 0x0308 + 16 * b
/-- The parent a configuration word names. -/
def parentOf (w : Word) : Option BarId :=
  if bit w 63 then
    some { modn := bits w 62 55, core := coreId (bits w 54 49) (bits w 48 41), bar := bits w 40 35 }
  else none
/-- A barrier's children (R308). -/
def State.childrenOf (s : State) (c b : Nat) : List BarId :=
  ((s.core c).children.filter fun k => k.bar == b).filterMap (·.who)
/-- Member entries of a barrier. -/
def State.member? (s : State) (c b slot : Nat) : Option Member :=
  (s.core c).members.find? fun m => m.bar == b && m.slot == slot && m.saved.isNone
/-- Replace a member's entry. -/
def State.modMember (s : State) (c b slot : Nat) (f : Member → Member) : State :=
  s.modCore c fun k => { k with members := k.members.map fun m =>
    if m.bar == b && m.slot == slot && m.saved.isNone then f m else m }

/-- Word 0 of merge entry `e` of a link core (R408). -/
def mergeOff (e : Nat) : Nat := 0x0C00 + 64 * e
/-- Armed merge entries bound to a barrier of their core (R408). -/
def State.armedAt (s : State) (c b : Nat) : List Nat :=
  [0, 1, 2, 3].filter fun e => 212 ≤ coreTile c && bit (s.cb c (mergeOff e)) 63 && bits (s.cb c (mergeOff e)) 53 48 == b
/-- Lower NCH of a barrier by one (R308). -/
def State.dropChild (s : State) (c b : Nat) (p : Child → Bool) : State :=
  let g := s.cb c (barCfg b)
  let s := s.setCb c (barCfg b) (setBits g 34 26 (bits g 34 26 - 1))
  s.modCore c fun k => { k with children := k.children.eraseP fun x => x.bar == b && p x }
/-- A verdict at the bound barrier ends a merge entry's phase (R411): disarmed, its range held; an abort discards the buffer. -/
def State.endMerge (s : State) (c b e : Nat) (abort : Bool) : State :=
  let w := s.cb c (mergeOff e)
  let w := setBit (setBit (setBit w 63 false) 62 false) 61 true
  let w := if abort then setBit w 60 true else w
  let s := s.setCb c (mergeOff e) w
  let s := s.modCore c fun k => { k with merges := mdel e k.merges }
  s.dropChild c b fun x => x.who.isNone && x.entry == e
/-- The reduction that commits one touched word (R410): an access of the link core's own partition in mode S. -/
def State.commitRed (s : State) (c e i id : Nat) (v : Word) : Access :=
  { id := id, src := { modn := s.modn, core := c, slot := 63, gen := s.gen { core := c, slot := 63 } }
    tag := { part := s.pid (coreRet c), mode := .s }, op := .red (bits (s.cb c (mergeOff e)) 58 56), va := 0
    pa := s.modn * 2 ^ 48 + bits (s.cb c (mergeOff e + 8)) 47 3 * 8 + 8 * i, data := v, cmp := 0, dst := .commit e,
    attempt := 0 }
/-- Begin the commit of a locked entry (R410): one reduction for each touched word, in ascending address. -/
def State.startCommit (s : State) (c e : Nat) : State :=
  let t := ((mget (s.core c).merges e).getD { touched := [], committing := 0 }).touched
  let reds := (t.zip (List.range t.length)).map fun x =>
    Ev.remoteUpdateMigrant (s.commitRed c e x.1.1 (s.ids + x.2) x.1.2)
  let s := { s with ids := s.ids + t.length }
  let s := s.modCore c fun k => { k with merges := mput e { touched := t, committing := t.length + 1 } k.merges }
  if t.isEmpty then s.push (.mergeCommitDone c e) else s.pushAll reds

/-- Locked merge entries bound to a barrier of their core (R410). -/
def State.lockedAt (s : State) (c b : Nat) : List Nat := (s.armedAt c b).filter fun e => bit (s.cb c (mergeOff e)) 62
/-- A merge entry of a barrier is committing: the phase is decided (R410). -/
def State.committing (s : State) (c b : Nat) : Bool :=
  (s.armedAt c b).any fun e => ((mget (s.core c).merges e).map (·.committing)).getD 0 != 0
/-- The locked entries of a barrier begin their commits, which come before its verdict of completion (R410). -/
def State.commitAt (s : State) (c b : Nat) : State :=
  if s.committing c b then s else (s.lockedAt c b).foldl (fun s e => s.startCommit c e) s

/-- Apply a verdict at a barrier in one step (R310 steps 1 to 5, R411 for merge entries bound to it); a child whose
module cannot be reached is not told (R440). -/
def State.applyVerdict (s : State) (c b : Nat) (abort : Bool) : State :=
  let s := (s.armedAt c b).foldl (fun s e => s.endMerge c b e abort) s
  let w := s.cb c (barSt b)
  let ph := bits w 47 32
  let ph' := (ph + 1) % 2 ^ 16
  let mine : Member → Bool := fun m => m.bar == b
  let members := (s.core c).members.map fun m =>
    if mine m then
      let m := if m.out && m.ap.toNat == ph && !m.joining then { m with done := true, res := abort } else m
      { m with joining := false }
    else m
  let joined := ((s.core c).members.filter fun m => mine m && m.joining)
  let arrived := (joined.filter fun m => m.out).length
  let w := setBit w 63 abort
  let w := setBit w 62 false
  let w := setBits w 47 32 ph'
  let w := setBits w 31 23 0
  let w := setBits w 5 0 (bits w 5 0 + joined.length)
  let w := setBits w 19 14 0
  let w := setBits w 13 8 arrived
  let s := s.modCore c fun k => { k with members := members }
  let s := s.setCb c (barSt b) w
  let kids := (s.childrenOf c b).filter fun k => k.modn == s.modn || s.reachable (coreRet c) k.modn
  s.pushAll (kids.map fun k => Ev.barrierVerdict k abort)

/-- A barrier completes locally (R310): a root gives its verdict, after the commit of the merge entries bound to it (R410); any other
sets WUP and sends its arrival to its parent. Members that joined with their arrivals standing may complete the next phase at
once; `fuel` bounds that chain, which ends because a phase consumes the arrivals it ends. -/
def State.testCompletion (s : State) (c b : Nat) (fuel : Nat) : State :=
  match fuel with
  | 0 => s
  | fuel + 1 =>
    let w := s.cb c (barSt b)
    let g := s.cb c (barCfg b)
    let nmem := bits w 5 0
    let nch := bits g 34 26
    if bits w 13 8 = nmem ∧ bits w 31 23 = nch ∧ 1 ≤ nmem + nch ∧ !bit w 62 then
      match parentOf g with
      | none =>
        if (s.lockedAt c b).isEmpty then (s.applyVerdict c b false).testCompletion c b fuel else s.commitAt c b
      | some p => (s.setCb c (barSt b) (setBit w 62 true)).push
          (.barrierArrival p { modn := s.modn, core := c, bar := b })
    else s

/-- A verdict reaches a barrier: it is applied, and local completion is tested again (R310). -/
def State.verdict (s : State) (c b : Nat) (abort : Bool) : State := (s.applyVerdict c b abort).testCompletion c b 3

/-- A barrier loses its parent and aborts its phase (R312, R370, R440). -/
def State.orphan (s : State) (c b : Nat) : State :=
  (s.setCb c (barCfg b) (setBit (s.cb c (barCfg b)) 63 false)).verdict c b true

/-- GLEAVE's effect on one barrier (R311). -/
def State.leaveBarrier (s : State) (w : Who) (b : Nat) : State :=
  match s.member? w.core b w.slot with
  | none => s
  | some m =>
    let st := s.cb w.core (barSt b)
    let st := if !m.joining && m.out && !m.done && !bit st 62 then setBits st 13 8 (bits st 13 8 - 1) else st
    let st := if m.joining then setBits st 19 14 (bits st 19 14 - 1) else setBits st 5 0 (bits st 5 0 - 1)
    let s := s.setCb w.core (barSt b) st
    let s := s.modCore w.core fun k => { k with members := k.members.filter fun x =>
      !(x.bar == b && x.slot == w.slot && x.saved.isNone) }
    let s := s.modCtx w fun c => { c with grp := setBit c.grp b false }
    s.testCompletion w.core b 3

/-- Leave every barrier in grp, in ascending number (R43 step 3). -/
def State.leaveAll (s : State) (w : Who) : State :=
  match s.ctx? w with
  | none => s
  | some c => (upTo 48 fun b => bit c.grp b).foldl (fun s b => s.leaveBarrier w b) s

/-! The drainage tree's counters (R272 to R274). -/

/-- Count an entry holds; an entry exists while its count is nonzero. -/
def State.drainCount (s : State) (n : DrainNode) (root : Nat) : Nat :=
  ((s.drain.find? fun e => e.node == n && e.root == root).map (·.count)).getD 0
/-- The +1s that wait at an entry for its parent (R273). -/
def State.drainWaits (s : State) (n : DrainNode) (root : Nat) : List (DrainNode × DrainWait) :=
  ((s.drain.find? fun e => e.node == n && e.root == root).map (·.waits)).getD []
/-- The −1s that have met an entry while +1s wait at it. -/
def State.drainLows (s : State) (n : DrainNode) (root : Nat) : Nat :=
  ((s.drain.find? fun e => e.node == n && e.root == root).map (·.lows)).getD 0
/-- Replace an entry; one that holds nothing is removed. -/
def State.putDrain (s : State) (e : DrainEnt) : State :=
  let rest := s.drain.filter fun x => !(x.node == e.node && x.root == e.root)
  { s with drain := if e.count = 0 ∧ e.waits = [] then rest else e :: rest }
/-- Set an entry's count; zero removes it. -/
def State.setDrain (s : State) (n : DrainNode) (root count : Nat) : State :=
  s.putDrain { node := n, root := root, count := count, waits := s.drainWaits n root, lows := s.drainLows n root }
/-- Set the +1s and the −1s that wait at an entry whose count is zero. -/
def State.setDrainWaits (s : State) (n : DrainNode) (root : Nat) (l : List (DrainNode × DrainWait)) (lows : Nat) : State :=
  s.putDrain { node := n, root := root, count := s.drainCount n root, waits := l, lows := lows }
/-- A node has no room for one more entry (R272). -/
def State.drainFull (s : State) (n : DrainNode) : Bool :=
  decide (Config.drainEntries ≤ (s.drain.filter fun e => e.node == n).length)
/-- The parent of a node (R272). -/
def drainParent : DrainNode → DrainNode
  | .core c => .cluster (coreRet c) (clusterOf (coreTile c))
  | .cluster r _ => .reticle r
  | .reticle _ => .root
  | .root => .root
/-- The charge core of a reference (R274). -/
def drefCore (d : Word) : Nat := coreId (bits d 62 57) (bits d 56 49)
/-- The root's local PA of a reference. -/
def drefRoot (d : Word) : Nat := bits d 44 0 * 8
/-- Send a −1 for a charged context to its charge core, with KILL set for a kill (R274), under the context's tag (R324). -/
def State.uncharge (s : State) (d : Word) (kill : Bool) (cause : Option (Src × Tag)) : State :=
  if bit d 63 then s.push (.drainDown (.core (drefCore d)) (.core (drefCore d)) (drefRoot d) true kill false cause) else s

/-! Freeing a slot (R32, R35, R43, R44). -/

/-- Withheld slots a context borrowed (R234). -/
def State.borrowed (s : State) (w : Who) : List (Nat × Nat × Nat) :=
  match s.ctx? w with
  | none => []
  | some c => c.sets
/-- Strip and free a context's borrowed sets (R236). -/
def State.releaseSets (s : State) (w : Who) : State :=
  let sets := s.borrowed w
  let s := s.modCore w.core fun k => { k with
    withheld := k.withheld.filter fun x => !(sets.any fun t => t.1 == x.slot)
    file := sets.foldl (fun f t => stripEntries t.2.1 t.2.2 f) k.file
    strips := k.strips ++ sets.map fun t => { slot := t.1, base := t.2.1, lim := t.2.2 } }
  let s := s.pushAll (sets.map fun t => Ev.stripDone w.core t.1)
  s.modCtx w fun c => { c with sets := [] }
/-- Release the streams a context owns (R178). -/
def State.releaseStreams (s : State) (w : Who) : State :=
  s.modCore w.core fun k => { k with streams := k.streams.filter fun p =>
    !(p.2.isOpen && p.2.slot == w.slot && p.2.gen == (mget k.gens w.slot).getD 0) }
/-- Reset and release the conflict-batching unit of its owner (R245). -/
def State.releaseCbu (s : State) (w : Who) : State :=
  if (s.core w.core).cbu.owner = some (w.slot, s.gen w) ∧ (s.core w.core).cbu.savedBy = none then
    s.modCore w.core fun k => { k with cbu := { Cbu.reset with busy := k.cbu.busy } }
  else s
/-- Return an overflow entry to its pool (R52). -/
def State.returnOverflow (s : State) (o : Option (Nat × Nat)) : State :=
  match o with
  | none => s
  | some (r, e) =>
    s.modRet r fun k => { k with pool := sdel e k.pool }

/-- Neighbour writes held for a slot whose generation changes are refused (R238). -/
def State.refuseHeld (s : State) (w : Who) : State :=
  let gone := (s.core w.core).nwr.filter fun n => n.src.slot == w.slot
  let s := s.modCore w.core fun k => { k with nwr := k.nwr.filter fun n => n.src.slot != w.slot }
  s.pushAll (gone.map fun n => Ev.nwrAck n false)

/-- Neighbour writes that a context sent and that have not landed are discarded when its generation changes (R35). -/
def State.dropSent (s : State) (w : Who) : State :=
  { s with cores := s.cores.map fun (p : Nat × Core) =>
      (p.1, { p.2 with nwr := p.2.nwr.filter fun n => !(n.src.core == w.core && n.src.slot == w.slot) }) }

/-- Take the context out of its slot: the generation rises, and the entries are stripped before the slot is free (R32, R35). -/
def State.vacate (s : State) (w : Who) : State :=
  match s.ctx? w with
  | none => s
  | some c =>
    let s := ((s.bumpGen w).refuseHeld w).dropSent w
    let s := s.modCore w.core fun k => { k with
      slots := mdel w.slot k.slots
      file := stripEntries c.base c.lim k.file
      strips := k.strips ++ [{ slot := w.slot, base := c.base, lim := c.lim }] }
    s.push (.stripDone w.core w.slot)

/-- The dense array stops with a command among those numbered: its credit is discarded, and it paces at the tile's holding next (R113,
R157). -/
def Core.dropCredit (k : Core) (gone : List Nat) : Core :=
  if (k.cmds.find? fun x => x.part == .dense).any fun x => gone.contains x.id then
    { k with credit := 0, pace := bits ((mget k.cb 0x0200).getD 0) 3 0 }
  else k

/-- Stop what a killed context has under way at its tile: its engine commands and copies stop, its holds go (R157, R243); a
conditional access of its that waits at a home is withdrawn there by a cancel (R227). -/
def State.stopUnits (s : State) (w : Who) : State :=
  let g := s.gen w
  let s := match (s.ctx? w).bind (·.cond) with
    | none => s
    | some a => s.push (.cancel w.core w.slot (.kill a.id))
  s.modCore w.core fun k =>
    let gone := (k.cmds.filter fun x => x.slot == w.slot && x.gen == g).map (·.id)
      ++ (k.chans.filter fun p => !p.2.finished && p.2.slot == w.slot && p.2.gen == g).map (·.2.id)
    { (k.dropCredit gone) with
      cmds := k.cmds.filter fun x => !(x.slot == w.slot && x.gen == g)
      chans := k.chans.map fun p =>
        if p.2.slot == w.slot && p.2.gen == g then (p.1, { p.2 with finished := true }) else p
      holds := k.holds.filter fun h => !gone.contains h.id }

/-- The other member of a pair (R373). -/
def Ctx.partner (c : Ctx) : Option Nat :=
  match c.role with
  | .single => none
  | .under p => some p
  | .top p => some p

/-- Kill one context (R44, R366), its partner apart: barriers are left, borrowed sets, streams, the CBU and the overflow entry are
released in that order, the charge is withdrawn with KILL, the slot is stripped and freed. -/
def State.killOne (s : State) (w : Who) : State :=
  match s.ctx? w with
  | none => s
  | some c =>
    let s := s.stopUnits w
    let s := s.leaveAll w
    let s := s.releaseSets w
    let s := s.releaseStreams w
    let s := s.releaseCbu w
    let s := s.returnOverflow c.ovix
    let s := match c.role with
      | .top _ => s
      | _ => s.uncharge c.dref true (some (s.src w, c.tag))
    s.vacate w

/-- Kill a context, with its partner if it is one of a pair (R306), and log the kill unless `covered` by its cause's own entry
(R366). -/
def State.kill (s : State) (w : Who) (detail : Nat) (covered : Bool) : State :=
  match s.ctx? w with
  | none => s
  | some c =>
    if c.kind == .message then s
    else
      let s := if covered then s
        else (s.logEntry (coreRet w.core)
          { cls := 63, kind := c.srcKind, act := 3, ret := coreRet w.core, tile := coreTile w.core, slot := w.slot,
            gen := (s.gen w).toNat, addr := 0, ak := 0, code := causeCode .ctxkill, detail := detail }).1
      let s := s.killOne w
      match c.partner with
      | none => s
      | some p => s.killOne { core := w.core, slot := p }

/-! The severity matrix (R357 to R364). -/

/-- Action of the matrix for a class and a source kind (R359). -/
def State.action (s : State) (r cls kind : Nat) : Nat := bits (s.rcb r (0x0A00 + 8 * cls)) (4 * kind + 3) (4 * kind)

/-- The severity target of a reticle: a supervisor context of the partition whose generation is the one named (R364). -/
def State.severityTarget (s : State) (r : Nat) : Option Who :=
  let t := s.rcb r 0x0C18
  let w : Who := { core := coreId (bits t 53 48) (bits t 47 40), slot := bits t 37 32 }
  match s.ctx? w with
  | some c =>
    if bit t 63 && s.samePart r (coreRet w.core) && (s.gen w).toNat == bits t 31 16 && c.prv == .s then some w else none
  | none => none

/-- Make SEVERITY pending at a severity target (R364). -/
def State.signalSeverity (s : State) (w : Who) (seq : Nat) (kept : Bool) : State :=
  let v := BitVec.ofNat 64 (seq + if kept then 0 else 2 ^ 63)
  s.modCtx w fun c => { c with pend := { c.pend with severity := some v } }

/-- Every occupied slot of a reticle's cores, in ascending core and slot. -/
def State.whosOf (s : State) (r : Nat) : List Who :=
  ((s.cores.filter fun p => coreRet p.1 == r).map fun p =>
    p.2.slots.map fun q => { core := p.1, slot := q.1 }).flatten

/-- Packets of a save ring stand in memory at the ring, entry by entry (R51); those of a rim core in its private bank, which the
physical map does not show (R18): the model gives it addresses above every LPA. -/
def ringBase (c : Nat) : Nat :=
  if isTile c then 0x100000000000 + 2 ^ 30 * coreRet c + 2 ^ 22 * coreTile c + Config.ringLo
  else 2 ^ 48 + 2 ^ 18 * c
/-- Address of entry `i` of a core's ring. -/
def ringEntry (c i : Nat) : Nat := ringBase c + 256 * (i % Config.ringPackets)

/-! Memory: bytes by LPA (R183), FE and poison by word (R190, R191). -/

/-- A byte; an address nothing has written reads 0 (R191). -/
def memByte (m : List Host.Cell) (a : Nat) : Byte := (mget m a).getD 0
/-- `n` bytes from `a` up, little-endian (R3). -/
def memRead (m : List Host.Cell) (a : Nat) : Nat → Nat
  | 0 => 0
  | n + 1 => (memByte m a).toNat + 256 * memRead m (a + 1) n
/-- Write one byte, keeping the canonical form. -/
def memPut (m : List Host.Cell) (a : Nat) (b : Byte) : List Host.Cell := mset (0 : Byte) a b m
/-- Write `n` bytes of a number, little-endian. -/
def memWrite (m : List Host.Cell) (a : Nat) : Nat → Nat → List Host.Cell
  | 0, _ => m
  | n + 1, v => memWrite (memPut m a (BitVec.ofNat 8 v)) (a + 1) n (v / 256)
/-- Write words from `a` up. -/
def memWords (m : List Host.Cell) (a : Nat) : List Word → List Host.Cell
  | [] => m
  | w :: r => memWords (memWrite m a 8 w.toNat) (a + 8) r
/-- Read `n` words from `a` up. -/
def readWords (m : List Host.Cell) (a : Nat) : Nat → List Word
  | 0 => []
  | n + 1 => BitVec.ofNat 64 (memRead m a 8) :: readWords m (a + 8) n
/-- Remove every byte of a range, which then reads 0. -/
def memClear (m : List Host.Cell) (lo hi : Nat) : List Host.Cell := m.filter fun p => p.1 < lo || hi ≤ p.1
/-- The canonical form of a memory: addresses rise strictly and no entry holds what an unlisted address reads. -/
def memWf (m : List Host.Cell) : Bool := mrising m && m.all fun p => p.2 != 0
/-- The canonical form of the state's memory. -/
def State.memOk (s : State) : Bool := memWf s.mem

/-- FE bit of the word at a word address: 1 unless listed empty (R190). -/
def State.full (s : State) (wa : Nat) : Bool := !s.empties.contains wa
/-- Set the FE bit. -/
def State.setFull (s : State) (wa : Nat) (f : Bool) : State := { s with empties := sset wa (!f) s.empties }
/-- Poison bit of a word. -/
def State.poisoned (s : State) (wa : Nat) : Bool := s.poison.contains wa
/-- Address of the word an address lies in. -/
def wordAt (a : Nat) : Nat := a / 8 * 8

/-- Packets at and after the head of a ring. -/
def State.ringPacket (s : State) (c i : Nat) : List Word := readWords s.mem (ringEntry c i) 32

/-- The overflow entry a packet holds (R49). -/
def packetOvix (p : List Word) : Option (Nat × Nat) :=
  let w := p.getD 7 0
  if bits w 43 24 = 2 ^ 20 - 1 then none else some (bits w 21 16, bits w 43 24)

/-- The source and tag of what is done for the migrant of a packet (R49, R324). -/
def State.packetCause (s : State) (c : Nat) (p : List Word) : Src × Tag :=
  ({ modn := s.modn, core := c, slot := 63, gen := 0 }, { part := bits (p.getD 1 0) 53 48, mode := .u })

/-- Dispose of a migrant packet as a kill without a slot (R52): −1 with KILL, the entry returns, a CTXKILL entry is written. -/
def State.killPacket (s : State) (c : Nat) (p : List Word) (detail : Nat) : State :=
  let s := s.uncharge (p.getD 5 0) true (some (s.packetCause c p))
  let s := s.returnOverflow (packetOvix p)
  let e : LogEntry :=
    { cls := 63, kind := 3, act := 3, ret := coreRet c, tile := coreTile c, slot := 0, gen := 0, addr := 0, ak := 0,
      code := causeCode .ctxkill, detail := detail }
  (s.logEntry (coreRet c) e).1

/-- Address of an overflow entry in its pool (R52). -/
def State.poolEntry (s : State) (o : Nat × Nat) : Nat := bits (s.rcb o.1 0x0400) 63 16 * 2 ^ 16 % 2 ^ 48 + 256 * o.2

/-- Name an overflow entry's follower in its LINK (R49): 0xF_FFFF for none. -/
def State.setLink (s : State) (o : Nat × Nat) (next : Option (Nat × Nat)) (m : List Host.Cell) : List Host.Cell :=
  let b := s.poolEntry o + 56
  memWrite m b 8 (setBits (BitVec.ofNat 64 (memRead m b 8)) 63 44 ((next.map (·.2)).getD 0xFFFFF)).toNat

/-- The LINKs of a queue of overflow entries, each naming the next (R49). -/
def State.relink (s : State) : List (Nat × Nat) → List Host.Cell → List Host.Cell
  | [], m => m
  | o :: l, m => State.relink s l (s.setLink o l.head? m)

/-- Discard the packets on a core's ring and overflow queue for which `p` holds, as kills (R365, R372). -/
def State.discardPackets (s : State) (c : Nat) (p : List Word → Bool) : State :=
  let k := s.core c
  let ring := (List.range k.ringCount).map fun i => s.ringPacket c (k.ringHead + i)
  let ovq := k.overflow.map fun o => (o, readWords s.mem (s.poolEntry o) 32)
  let s := (ring.filter p).foldl (fun s x => s.killPacket c x 0) s
  let s := ((ovq.map (·.2)).filter p).foldl (fun s x => s.killPacket c x 0) s
  let keep := ring.filter fun x => !p x
  let mem := (keep.zip (List.range keep.length)).foldl
    (fun m x => memWords m (ringEntry c (k.ringHead + x.2)) x.1) s.mem
  let left := (ovq.filter fun x => !p x.2).map (·.1)
  let s : State := { s with mem := State.relink s left mem }
  s.modCore c fun k => { k with ringCount := keep.length, overflow := left }

/-- Stop every unit of a core, as under a kill (R365). -/
def Core.stopAll (k : Core) : Core :=
  let chans := k.chans.map fun p => (p.1, { p.2 with finished := true })
  { (k.dropCredit (k.cmds.map (·.id))) with cmds := [], holds := [], cbu := Cbu.reset, chans := chans }

/-- Reset a partition (R365): every U and S context of its reticles is killed, packets are discarded, units stop.
The launcher's pending list stays, its records to be placed again. Where the partition holds every live reticle a Watershed follows. -/
def State.resetPartition (s : State) (pid : Nat) : State :=
  let rs := upTo 49 fun r => s.pval r && s.pid r == pid
  let whole := s.published && s.liveRets.all fun r => rs.contains r
  let s := rs.foldl (fun s r =>
    let s := s.modRet r fun k => { k with gang := none }
    let s := ((s.whosOf r).filter fun w => match s.ctx? w with
      | some c => c.kind == .resident || c.kind == .migrant
      | none => false).foldl (fun s w => s.kill w 0 false) s
    ((s.cores.map (·.1)).filter fun c => coreRet c == r).foldl
      (fun s c => (s.discardPackets c fun _ => true).modCore c Core.stopAll) s) s
  if whole then s.push .powerUp else s

/-- Blame for an error: source kind and, where there is one, the context (R358). -/
structure Blame where
  kind : Nat
  who : Option Who
  deriving DecidableEq, Repr, Inhabited

/-- The context that a request's source names, if it is still there (R35). -/
def State.srcWho (s : State) (src : Src) : Option Who :=
  let w : Who := { core := src.core, slot := src.slot }
  if src.modn = s.modn ∧ s.gen w = src.gen ∧ (s.ctx? w).isSome then some w else none
/-- Blame a request's source (R358). -/
def State.blame (s : State) (src : Src) (mode : Mode) : Blame :=
  match s.srcWho src with
  | some w => { kind := ((s.ctx? w).map Ctx.srcKind).getD 0, who := some w }
  | none => { kind := modeCode mode, who := none }

/-- The slot that stands for a context among those that errors are charged to: an undercoat's for both members of a pair (R358). -/
def State.chargedSlot (s : State) (w : Who) : Nat :=
  match s.ctx? w with
  | none => w.slot
  | some c => match c.role with
    | .top p => p
    | _ => w.slot

/-- A context is killed by action 3 (R360): a message context is stripped and goes on. -/
def State.killBlamed (s : State) (w : Who) : State :=
  match s.ctx? w with
  | none => s
  | some c =>
    if c.kind == .message then s.modCore w.core fun k => { k with file := stripEntries c.base c.lim k.file } else s.kill w 0 true

/-- An error is reported at a reticle (R360): unless the matrix has it ignored it joins the errors of the cc, and action 3 kills the blamed
context at once. -/
def State.report (s : State) (r cls : Nat) (b : Blame) (tile : Nat) (addr : Word) (ak : Nat) (code detail : Nat) : State :=
  let act := s.action r cls b.kind
  if act = 0 then s
  else
    let e : LogEntry :=
      { cls := cls, kind := b.kind, act := act, ret := ((b.who.map fun w => coreRet w.core).getD r),
        tile := ((b.who.map fun w => coreTile w.core).getD tile), slot := ((b.who.map fun w => w.slot).getD 0),
        gen := ((b.who.map fun w => (s.gen w).toNat).getD 0), addr := addr, ak := ak, code := code, detail := detail }
    let f : Found := { tile := tile, entry := e, who := b.who.map fun w => (w.core, s.chargedSlot w) }
    let s := s.modRet r fun k => { k with found := k.found ++ [f] }
    match b.who with
    | some w => if act = 3 then s.killBlamed w else s
    | none => s

/-- The errors of a cc in the order in which they are logged (R361). -/
def foundOrder (l : List Found) : List Found :=
  sortBy (fun x y => decide (x.tile < y.tile) || (x.tile == y.tile && decide (x.entry.cls < y.entry.cls))) l

/-- An error's action is not taken beside a stronger one on the same context, nor twice (R361); `before` are those logged before it. -/
def Found.weaker (f : Found) (l before : List Found) : Bool :=
  f.who.isSome && (l.any (fun x => x.who == f.who && decide (f.entry.act < x.entry.act))
    || before.any fun x => x.who == f.who && x.entry.act == f.entry.act)

/-- One error of a cc is logged and its action applied (R360, R361, R364); a kill was made when it was found. -/
def State.settleError (s : State) (r : Nat) (f : Found) (weak : Bool) : State :=
  let target := s.severityTarget r
  let s := if !weak && f.entry.act == 2 && target.isNone then s.setRcb r 0x0C10 (satInc (s.rcb r 0x0C10) 31 16) else s
  let act := if weak then 1
    else if f.entry.act = 3 ∧ f.who = none ∧ f.entry.cls ≠ 9 then 1
    else if f.entry.act = 2 ∧ target = none then 1
    else f.entry.act
  let lg := s.logEntry r { f.entry with act := act }
  match act, target with
  | 2, some w => lg.1.signalSeverity w lg.2.1 lg.2.2
  | 4, _ => if s.pval r then lg.1.resetPartition (s.pid r) else lg.1
  | _, _ => lg.1

/-- Several errors, the ones before them settled. -/
def State.settleFound (r : Nat) (l : List Found) : List Found → List Found → State → State
  | [], _, s => s
  | f :: rest, before, s => State.settleFound r l rest (before ++ [f]) (s.settleError r f (f.weaker l before))

/-- The errors found in a cc of a reticle are logged, and their actions applied, at its end (R361). -/
def State.settleErrors (s : State) (r : Nat) : State :=
  let l := foundOrder (s.reticle r).found
  if l.isEmpty then s else State.settleFound r l l [] (s.modRet r fun k => { k with found := [] })

/-! Taking a trap and returning from one (R339 to R346). -/

/-- A synchronous trap. -/
def TrapKind.sync : TrapKind := { asyn := false, late := false, eng := false }

/-- The cause register at a trap (R339 step 6). -/
def causeWord (mode : Mode) (k : TrapKind) (c : Cause) : Word :=
  BitVec.ofNat 64 (2 ^ 15 + modeCode mode * 2 ^ 12 + (if k.asyn then 2 ^ 10 else 0) + (if k.late then 2 ^ 9 else 0)
    + (if k.eng then 2 ^ 8 else 0) + causeCode c)

/-- The vector of a context's core, by the privilege it was created with; none when its valid bit is clear (R338, R339). -/
def State.vector (s : State) (w : Who) (c : Ctx) : Option Word :=
  let v := s.cb w.core (if c.prv == .s then 0x0808 else 0x0800)
  if bit v 0 then some (setBits v 1 0 0) else none

/-- TSV0 to TSV3: the values and presence bits of x1 to x4 (R339 step 5). -/
def State.saveRegs (s : State) (w : Who) (c : Ctx) : List (Word × Bool) :=
  [1, 2, 3, 4].map fun r => ((s.regEntry w c r).val, (s.regEntry w c r).pres == .present)

/-- A register entry is found to have wrong check bits: one that can be corrected is written back and reported (R357), any other is stripped and
reported (R367). Answers whether it was lost. -/
def State.foundBad (s : State) (w : Who) (c : Ctx) (e : Nat) : State × Bool :=
  let b : Blame := { kind := c.srcKind, who := some w }
  match (s.fileEntry w.core e).soft with
  | some n =>
    let s := s.modCore w.core fun k => { k with file := mset RegEntry.stripped e { s.fileEntry w.core e with bad := false, soft := none } k.file }
    (s.report (coreRet w.core) 4 b (coreTile w.core) (BitVec.ofNat 64 e) 3 0 n, false)
  | none =>
    let s := s.modCore w.core fun k => { k with file := mdel e k.file }
    (s.report (coreRet w.core) 5 b (coreTile w.core) (BitVec.ofNat 64 e) 3 (causeCode .uereg) 0, true)

/-- Registers of a context that the core itself reads, to save or to send them, up to the first that is lost (R367): the tval of its UEREG. -/
def State.checkRegs (w : Who) (c : Ctx) : List Nat → State → State × Option Word
  | [], s => (s, none)
  | r :: l, s =>
    if (s.regEntry w c r).bad then
      let f := s.foundBad w c (c.entry r)
      if f.2 then (f.1, some (BitVec.ofNat 64 (r + c.entry r * 2 ^ 8))) else State.checkRegs w c l f.1
    else State.checkRegs w c l s

/-- A reply is owed to x1, x2, x3 or x4 (R339 step 4). -/
def State.owedLow (s : State) (w : Who) (c : Ctx) : Bool :=
  [1, 2, 3, 4].any fun r => (s.regEntry w c r).pres == .owed

/-- The topcoat of an undercoat that is running: none while a trap of the pair has frozen it (R377). -/
def State.runningTop (s : State) (w : Who) (c : Ctx) : Option (Who × Ctx) :=
  match c.role with
  | .under p =>
    let t : Who := { core := w.core, slot := p }
    (s.ctx? t).bind fun x => if x.run = .frozen then none else some (t, x)
  | _ => none

/-- A trap of a pair that waits has found its members apart: RDNMIS, or a register lost by one of them (R367, R376). -/
def Ctx.diverged (c : Ctx) : Bool :=
  match c.heldTrap with
  | some h => h.cause == .rdnmis || h.cause == .uereg
  | none => false

/-- A pair's undercoat waits with its trap until both members are at equal retire counts with the queue empty (R377). In a handler it is
alone. DESIGN CHOICE (log 62): members known to be apart may stand at equal counts with entries left, which nothing will compare. -/
def State.pairBehind (s : State) (w : Who) (c : Ctx) : Bool :=
  match s.runningTop w c with
  | some (_, x) => (!c.lvq.isEmpty && !c.diverged) || x.retired != c.retired
  | none => false

/-- Delivery of a trap waits: for a reply owed to x1 to x4, or for the pair to stand at one instruction (R339 step 4, R377). -/
def State.trapWaits (s : State) (w : Who) (c : Ctx) : Bool :=
  c.mode != .f && (s.pairBehind w c || (!c.inh && (s.vector w c).isSome && s.owedLow w c))

/-- Steps 5 to 8 of taking a trap (R339): the handler is entered. -/
def State.enter (s : State) (w : Who) (c : Ctx) (e v : Word) (k : TrapKind) (cz : Cause) (vec : Word) : State :=
  let s := s.setCtx w { c.unheld with
    run := .ready
    tsv := s.saveRegs w c
    epc := e
    tval := v
    cause := causeWord c.mode k cz
    repst := if bit c.repst 63 then setBit c.repst 62 true else c.repst
    mode := .s
    pc := vec
    spacing := s.now w.core + 8
    yielded := 0
    heldTrap := none
    frameBad := false }
  match c.role with
  | .under p => s.modCtx { core := w.core, slot := p } fun t => { t with run := .frozen, busy := some .partner, pc := e }
  | _ => s

/-- A trap of a context (R339, R340): taken, or, where it cannot be delivered, the context is parked (mode F) or killed. While delivery
waits the trap is kept. Where one of x1 to x4 is lost as they are saved, UEREG is taken in its place (R367; log 55). -/
def State.trap (s : State) (w : Who) (e : Word) (v : Word) (k : TrapKind) (cz : Cause) : State :=
  match s.ctx? w with
  | none => s
  | some c =>
    if c.mode == .f then
      (s.park w .machchk).report (coreRet w.core) 11 { kind := 2, who := some w } (coreTile w.core) 0 0 (causeCode cz) 0
    else if s.trapWaits w c then s.setCtx w { c with heldTrap := some { epc := e, tval := v, kind := k, cause := cz } }
    else if c.inh then s.kill w (causeCode cz) false
    else match s.vector w c with
      | none => s.kill w (causeCode cz) false
      | some vec =>
        let f := State.checkRegs w c [1, 2, 3, 4] s
        match f.2 with
        | none => f.1.enter w c e v k cz vec
        | some x => if f.1.gen w = s.gen w then f.1.enter w c e x .sync .uereg vec else f.1

/-- repst breaks one of the bounds of R300. -/
def badFrame (r : Word) : Bool :=
  bit r 63 && (decide (bits r 61 58 < bits r 41 38) || decide (bits r 51 47 < bits r 46 42) || bits r 31 16 == 0
    || decide (bits r 31 16 ≤ bits r 15 0))

/-- When a context next resumes normal execution, by ERET, thaw or CTXLD, an access recorded to be re-sent is due: it is sent before the
next instruction issues (R227). -/
def State.resume (s : State) (w : Who) : State :=
  s.modCtx w fun c => { c with resend := c.resend.map fun a => { a with attempt := 0 } }

/-- Return from a handler (R346): a topcoat that the trap froze goes on with its undercoat, at one retire count (R377). The caller has
checked INH. -/
def State.eret (s : State) (w : Who) : State :=
  match s.ctx? w with
  | none => s
  | some c =>
    let s := s.modCtx w fun c => stepDue { c with mode := .s } { c with
      cause := setBit c.cause 15 false
      mode := modeOf (bits c.cause 13 12)
      pc := c.epc
      repst := if bit c.repst 63 && badFrame c.repst then c.repst else setBit c.repst 62 false
      frameBad := bit c.repst 63 && badFrame c.repst
      spacing := s.now w.core + 8
      yielded := 0
      retired := c.retired + 1 }
    let s := match c.role with
      | .under p => s.modCtx { core := w.core, slot := p } fun (t : Ctx) =>
          if t.busy = some Park.partner then
            { t with
              run := .ready, busy := none, pc := c.epc, retired := c.retired + 1
              repst := if badFrame t.repst then t.repst else setBit t.repst 62 false
              spacing := s.now w.core + 8 }
          else t
      | _ => s
    s.resume w

/-! Allotment and creation of contexts (R31, R42). -/

/-- Ranges of the register file that are taken on a core: allotments, withheld sets, entries being stripped. -/
def Core.taken (k : Core) : List (Nat × Nat) :=
  (k.slots.filter fun p => p.1 != 63).map (fun p => (p.2.base, p.2.lim))
    ++ k.withheld.map (fun x => (x.base, x.lim)) ++ k.strips.map (fun x => (x.base, x.lim))
/-- Lowest base, a multiple of 8, of `n` contiguous free entries below 2,016 (R29, R31). -/
def Core.findBase (k : Core) (n : Nat) : Option Nat :=
  ((List.range 252).map (8 * ·)).find? fun b =>
    decide (b + n ≤ Config.sharedEntries) && k.taken.all fun t => decide (b + n ≤ t.1) || decide (t.1 + t.2 ≤ b)
/-- Lowest free slot that a context of an ordinary kind may take: not 63, and not 62 of tile (0, 0) (R27, R31). -/
def Core.findSlot (k : Core) (c : Nat) : Option Nat :=
  (List.range 63).find? fun sl =>
    !(sl == 62 && coreTile c == 0) && (mget k.slots sl).isNone && !(k.withheld.any fun x => x.slot == sl)
      && !(k.strips.any fun x => x.slot == sl)
/-- A slot and a run of entries (R31). -/
def Core.place (k : Core) (c n : Nat) : Option (Nat × Nat) :=
  match k.findSlot c, k.findBase n with
  | some sl, some b => some (sl, b)
  | _, _ => none

/-- Sign-extend a number of `n` bits to a word. -/
def sextN (n v : Nat) : Word := BitVec.ofInt 64 (if v % 2 ^ n < 2 ^ (n - 1) then (v % 2 ^ n : Nat) else (v % 2 ^ n : Nat) - (2 ^ n : Nat))

end Sys2Proof.Machine
end

