-- ==== Sys2Proof/Machine/Place.lean ====
section
/-! DEFINITION. Where every address performs: the local physical map (R183, R184), the interleave (R193), homes (R186), what
belongs to failed tiles and dark reticles (R185), and the access tables that guard each home (R325 to R330). -/
namespace Sys2Proof

/-- Kind of an operation's request (R324). -/
def MemOp.kind : MemOp → AccKind
  | .load _ _ => .read
  | .store _ => .write
  | .ldfe => .read
  | .ldff => .read
  | .stef => .write
  | .stff => .write
  | .stfe => .write
  | .feget => .read
  | .feset => .write
  | .amo _ _ => .atomic
  | .red _ => .atomic
  | .qpush => .atomic
  | .qpop => .atomic
  | .drwait => .read
  | .copyRead _ => .read
  | .copyWrite _ _ => .write
  | .scale => .read
  | .fetch => .execute

end Sys2Proof

namespace Sys2Proof.Machine

/-- What a local physical address names. `dram` gives the channel core, the channel in its window, and whether it is HBM4E. -/
inductive Place
  | sram (c off : Nat)
  | ctl (c off : Nat)
  | rctl (r off : Nat)
  | dram (c ch : Nat) (hbm : Bool)
  | host (port : Nat)
  | hole
  deriving DecidableEq, Repr, Inhabited

/-- Bits [hi:lo] of a number. -/
def nbits (v hi lo : Nat) : Nat := v / 2 ^ lo % 2 ^ (hi + 1 - lo)

/-- First LPA of the LPDDR6 windows (R183). -/
def lpBase : Nat := 0x080000000000
/-- First LPA of the reticle windows. -/
def retBase : Nat := 0x100000000000
/-- First LPA of the host windows. -/
def hostBase : Nat := 0x200000000000
/-- Populated bytes of an HBM4E window. -/
def hbmPop : Nat := 0xE70000000

/-- LPA of a byte of a tile's SRAM or control block (R184). -/
def tileAddr (c off : Nat) : Nat := retBase + 2 ^ 30 * coreRet c + 2 ^ 22 * coreTile c + off

/-- The place an LPA names (R183, R184, R193). -/
def State.placeOf (s : State) (a : Nat) : Place :=
  if a < 24 * 2 ^ 36 then
    let o := a % 2 ^ 36
    let r := edgeOrdinals.getD (a / 2 ^ 36) 0
    if o < hbmPop then
      let ch := if o < bits (s.rcb r 0x0108) 6 0 * 2 ^ 29 then nbits o 12 8 else nbits o 20 16
      .dram (coreId r (192 + ch / 2)) ch true
    else .hole
  else if lpBase ≤ a ∧ a < lpBase + 24 * 2 ^ 38 then
    let o := (a - lpBase) % 2 ^ 38
    let r := edgeOrdinals.getD ((a - lpBase) / 2 ^ 38) 0
    let ch := if o < bits (s.rcb r 0x0108) 41 32 * 2 ^ 29 then nbits o 10 8 else nbits o 18 16
    .dram (coreId r (208 + ch / 2)) ch false
  else if retBase ≤ a ∧ a < retBase + 49 * 2 ^ 30 then
    let r := (a - retBase) / 2 ^ 30
    let ti := nbits a 29 22
    let off := a % 2 ^ 22
    if ti < 192 then
      (if off < Config.sramBytes then .sram (coreId r ti) off
       else if off < 0x310000 then .ctl (coreId r ti) (off - 0x300000)
       else .hole)
    else if ti < 214 then
      (if isEdge r ∧ !(ti == 213 && hostRets.contains r) ∧ 0x300000 ≤ off ∧ off < 0x310000 then
         .ctl (coreId r ti) (off - 0x300000)
       else .hole)
    else if ti = 255 ∧ off < 0x10000 then .rctl r off
    else .hole
  else if hostBase ≤ a ∧ a < hostBase + 4 * 2 ^ 42 then .host ((a - hostBase) / 2 ^ 42)
  else .hole

/-- Link core of a host port (R18). -/
def hostCore (port : Nat) : Nat := coreId (hostRets.getD port 0) 212

/-- The core that is home of a place (R186). -/
def State.homeCore (s : State) : Place → Nat
  | .sram c _ => c
  | .ctl c _ => c
  | .rctl r _ => coreId r (s.firstTile r)
  | .dram c _ _ => c
  | .host p => hostCore p
  | .hole => 0

/-- The control block whose access table governs a place (R325). -/
def blockOf : Place → Block
  | .sram c _ => .core c
  | .ctl c _ => .core c
  | .rctl r _ => .ret r
  | .dram c _ _ => .core c
  | .host p => .core (hostCore p)
  | .hole => .core 0

/-- Entries of a block's access table (R325). -/
def accEntries : Block → Nat
  | .core c => if isTile c then 32 else if coreTile c < 212 then 64 else 16
  | .ret _ => 16

/-- A populated place is there and works: not of a failed tile, nor a device of a dark reticle (R185). -/
def State.placeLive (s : State) : Place → Bool
  | .sram c _ => s.coreLive c
  | .ctl c _ => s.coreLive c
  | .rctl r _ => s.retLive r
  | .dram c ch true => s.retLive (coreRet c) && ch < 32 && bit (s.topoEntry (coreRet c) 0) 47
  | .dram c ch false => s.retLive (coreRet c) && bit (s.topoEntry (coreRet c) 0) (39 + ch)
  | .host p => s.retLive (hostRets.getD p 0) && bit (s.topoEntry (hostRets.getD p 0) 0) 38
  | .hole => false

/-- A DRAM word, as R194, R199, R263 and R272 require of the addresses they name. -/
def Place.isDram : Place → Bool
  | .dram _ _ _ => true
  | _ => false
/-- A word of a control block (R184). -/
def Place.isCtl : Place → Bool
  | .ctl _ _ => true
  | .rctl _ _ => true
  | _ => false

/-- A range of LPAs lies wholly in populated DRAM (R52, R183, R263). An empty range does. -/
def dramRange (lo n : Nat) : Bool :=
  n == 0
    || (lo / 2 ^ 36 < 24 && decide (lo % 2 ^ 36 + n ≤ hbmPop))
    || (decide (lpBase ≤ lo) && decide (lo + n ≤ lpBase + 24 * 2 ^ 38))
/-- A PA is local to the module: its MOD is the module's and its reserved bits are zero (R182). -/
def State.isLocalPa (s : State) (pa : Nat) : Bool := pa / 2 ^ 48 == s.modn
/-- LPA of a PA. -/
def lpaOf (pa : Nat) : Nat := pa % 2 ^ 48
/-- PA of an LPA of this module. -/
def State.paOf (s : State) (lpa : Nat) : Nat := s.modn * 2 ^ 48 + lpa

/-- Address of an SRAM byte that lies in a tile's save ring (R51). -/
def Place.inRing : Place → Bool
  | .sram _ off => Config.ringLo ≤ off && off < Config.ringHi
  | _ => false

/-! Access tables. -/

/-- Bit of an access kind in word 0 of a table entry (R326). -/
def kindBit : AccKind → Nat
  | .execute => 55
  | .atomic => 54
  | .write => 53
  | .read => 52
/-- Bit of a mode in word 0 of a table entry (R326). -/
def modeBit : Mode → Nat
  | .f => 51
  | .s => 50
  | .u => 49

/-- Entry `i` of a table matches a tag and a word (R328 step 2). -/
def entryMatches (w0 w1 : Word) (t : Tag) (lpa : Nat) : Bool :=
  bit w0 63 && decide (bits w0 47 6 ≤ nbits lpa 47 6) && decide (nbits lpa 47 6 ≤ bits w1 47 6)
    && (bit w0 62 || bits w0 61 56 == t.part) && bit w0 (modeBit t.mode)

/-- The table's answer: the first entry that matches decides; none refuses (R328). -/
def State.tableAdmits (s : State) (b : Block) (t : Tag) (k : AccKind) (lpa : Nat) : Bool :=
  match (List.range (accEntries b)).find? fun i =>
      entryMatches (s.blk b (accOff + 16 * i)) (s.blk b (accOff + 16 * i + 8)) t lpa with
  | some i => bit (s.blk b (accOff + 16 * i)) (kindBit k)
  | none => false

/-- Reticle of a block. -/
def blockRet : Block → Nat
  | .core c => coreRet c
  | .ret r => r

/-- A request is admitted at its home: by the table, and not while a reassignment scrub refuses all but F (R323, R328). -/
def State.admits (s : State) (p : Place) (t : Tag) (k : AccKind) (lpa : Nat) : Bool :=
  let b := blockOf p
  !(bit (s.rcb (blockRet b) 0x0700) 62 && t.mode != .f) && s.tableAdmits b t k lpa

/-- Log a refusal at the target, with the word refused (R330). -/
def State.logRefusal (s : State) (b : Block) (t : Tag) (k : AccKind) (lpa : Nat) (src : Src) : State :=
  let v := s.blk b 0x8800
  let n := satInc (s.blk b 0x8808) 15 0
  if bit v 63 then s.setBlk b 0x8808 n
  else
    let w0 := BitVec.ofNat 64 (2 ^ 63 + t.part * 2 ^ 56 + modeCode t.mode * 2 ^ 54
      + 2 ^ (kindBit k - 2) + wordAt lpa % 2 ^ 48)
    let w1 := BitVec.ofNat 64 (src.modn * 2 ^ 56 + coreRet src.core * 2 ^ 48 + coreTile src.core * 2 ^ 40 + bits n 15 0)
    (s.setBlk b 0x8800 w0).setBlk b 0x8808 w1

/-! Tiles beside each other (R10, R237). -/

/-- The tile beside a tile in a direction, across a live pass if need be; none where the wafer ends or the pass is dead. -/
def State.tileBeside (s : State) (c dir : Nat) : Option Nat :=
  let r := coreRet c
  let t := coreTile c
  let tx := t % 16
  let ty := t / 16
  let across (t' : Nat) : Option Nat :=
    if s.passLive r dir then (neighbourRet r dir).map fun q => coreId q t' else none
  match dir with
  | 0 => if ty = 0 then across (16 * 11 + tx) else some (coreId r (t - 16))
  | 1 => if tx = 15 then across (16 * ty) else some (coreId r (t + 1))
  | 2 => if ty = 11 then across tx else some (coreId r (t + 16))
  | _ => if tx = 0 then across (16 * ty + 15) else some (coreId r (t - 1))

end Sys2Proof.Machine
end

