-- ==== Sys2Proof/Machine/Units.lean ====
section
/-! DEFINITION. A word in its place now (R205), the lists of those who wait on it (R226), and the writes that hardware of the module makes for
itself: they perform at the word's home, or at its copy, in one step (R208, R328). -/
namespace Sys2Proof.Machine

/-- Store `n` bytes. -/
def State.storeBytes (s : State) (a n v : Nat) : State := { s with mem := memWrite s.mem a n v }
/-- A word written whole has fresh check bits and P clear (R191). -/
def State.freshWord (s : State) (wa : Nat) : State := { s with poison := sdel wa s.poison, corrupt := sdel wa s.corrupt }

/-- The word whose wait list an access stands on (R225, R315): a QPOP's is the header's word 1. -/
def waitWord (a : Access) : Nat :=
  match a.op with
  | .qpop => wordAt (lpaOf a.pa) + 8
  | _ => wordAt (lpaOf a.pa)
/-- Some access waits on the word's list (R226). -/
def State.someoneWaits (s : State) (c wa : Nat) : Bool := (s.core c).waits.any fun a => waitWord a == wa
/-- Serve the wait list of a word from the next cc on (R226), unless it is being served. -/
def State.serveSoon (s : State) (c wa : Nat) : State :=
  if s.someoneWaits c wa && !((s.core c).servings.any fun v => v.word == wa) then
    let v : Serving :=
      { word := wa, due := false, left := (s.core c).waits.filter fun a => waitWord a == wa, any_ := false }
    s.modCore c fun k => { k with servings := k.servings ++ [v] }
  else s
/-- Change FE of a word; where it changes, the word's wait list is served (R224, R226). -/
def State.changeFull (s : State) (c wa : Nat) (f : Bool) : State :=
  if s.full wa = f then s else (s.setFull wa f).serveSoon c wa

/-- An access has entered the home order of a channel core: the boundaries are fixed from now on (R194). -/
def State.useDram (s : State) (p : Place) : State :=
  match p with
  | .dram c _ _ => if s.published then s.modRet (coreRet c) fun k => { k with dramUsed := true } else s
  | _ => s

/-- Note an access at a channel core: the page counts (R204), and the boundaries are fixed (R194). DESIGN CHOICE (log 48): a forwarded access
counts for the page of its copy, where it performs. -/
def State.noteDram (s : State) (p : Place) (l : Nat) : State :=
  match p with
  | .dram c _ _ =>
    (s.modCore c fun k => { k with hot := mput (l / 2 ^ 16) ((mget k.hot (l / 2 ^ 16)).getD 0 + 1) k.hot }).useDram p
  | _ => s

/-- Where skim forwarding sends a word (R205): one below the line of a page being copied, or copied and not retired, performs at the
copy. -/
def State.movedTo (s : State) (l : Nat) : Option Nat :=
  match s.placeOf l with
  | .dram c _ _ =>
    (match (s.core c).skim with
      | some (src, dst) =>
        if src = l / 2 ^ 16 * 2 ^ 16 ∧ l % 2 ^ 16 < bits (s.cb c 0x0018) 16 0 then some (dst + l % 2 ^ 16) else none
      | none => none)
  | _ => none

/-- The LPA at which a word performs now (R205). -/
def State.nowAt (s : State) (l : Nat) : Nat := (s.movedTo l).getD l

/-- The table of a word's home admits an access of a tag, or logs its refusal (R328, R330). -/
def State.unitAdmits (s : State) (src : Src) (tag : Tag) (k : AccKind) (l : Nat) : State × Bool :=
  let l := s.nowAt l
  let p := s.placeOf l
  let s := s.noteDram p l
  if s.admits p tag k l then (s, true) else (s.logRefusal (blockOf p) tag k l src, false)

/-- Several words, up to the first refused. -/
def State.unitAdmitsAll (s : State) (src : Src) (tag : Tag) (k : AccKind) : List Nat → State × Bool
  | [] => (s, true)
  | l :: r =>
    let x := s.unitAdmits src tag k l
    if x.2 then x.1.unitAdmitsAll src tag k r else x

/-- Write a word whole. -/
def State.unitWrite (s : State) (l : Nat) (v : Word) : State :=
  let a := s.nowAt l
  (({ s with mem := memWrite s.mem a 8 v.toNat } : State).freshWord a)

/-- Write words from an address up. -/
def State.unitWriteAll (s : State) (l : Nat) : List Word → State
  | [] => s
  | v :: r => (s.unitWrite l v).unitWriteAll (l + 8) r

end Sys2Proof.Machine
end

