-- ==== Sys2Proof/Machine/Blocks.lean ====
section
/-! DEFINITION. Control-block registers (R184): which bits a write changes, which a read clears, and the registers whose write or read
does more than store or show a word. An offset that no rule names reads zero and ignores writes (R4). -/
namespace Sys2Proof.Machine

/-- Which kind of core a control block belongs to. -/
def isChannelCore (c : Nat) : Bool := 192 ≤ coreTile c && decide (coreTile c < 212)
/-- A link core (R18). -/
def isLinkCore (c : Nat) : Bool := decide (212 ≤ coreTile c)
/-- The link core of a host port. -/
def isHostLink (c : Nat) : Bool := isLinkCore c && hostRets.contains (coreRet c)
/-- The host port a link core serves. -/
def portOf (c : Nat) : Nat := (hostRets.findIdx? fun r => r == coreRet c).getD 0

/-- Writable bits of the two words of an access-table entry (R326). -/
def accMask (odd : Bool) : Word := if odd then maskBits 47 6 else maskBits 63 62 ||| maskBits 61 49 ||| maskBits 47 6

/-- Offset `off` lies in a table of `n` entries of 16 bytes at 0x8000. -/
def inAcc (off n : Nat) : Bool := accOff ≤ off && decide (off < accOff + 16 * n)

/-- Plainly writable bits of a core's control-block word; zero for the words that are read-only or handled on their own. -/
def coreMask (c off : Nat) : Word :=
  if inAcc off (accEntries (.core c)) then accMask (off / 8 % 2 == 1)
  else if off = 0x0800 ∨ off = 0x0808 then maskBits 63 2 ||| 1
  else if isChannelCore c ∧ (off = 0x0000 ∨ off = 0x0008) then maskBits 55 16
  else if isChannelCore c ∧ off = 0x0030 then maskBits 16 12 ||| maskBits 7 0
  else if isHostLink c ∧ off = 0x0A10 then maskBits 51 40
  else if isLinkCore c ∧ !isHostLink c ∧ 0x9000 ≤ off ∧ off < 0x9200 then maskBits 63 48 ||| maskBits 1 0
  else 0

/-- Plainly writable bits of a reticle's control-block word. -/
def retMask (off : Nat) : Word :=
  if inAcc off 16 then accMask (off / 8 % 2 == 1)
  else if off = 0x0100 then maskBits 55 15
  else if off = 0x0C18 then maskBits 63 63 ||| maskBits 53 40 ||| maskBits 37 16
  else 0

/-- The word with the bits of a mask taken from `v`. -/
def maskIn (mask old v : Word) : Word := (old &&& ~~~mask) ||| (v &&& mask)
/-- The word with the bits of a mask cleared where `v` has ones (W1C, R4). -/
def clearOnes (mask old v : Word) : Word := old &&& ~~~(v &&& mask)

/-! The registers whose writes do more. -/

/-- Barrier configuration (R308): performed only while nothing of the phase stands; registration messages follow. -/
def State.barrierConfig (s : State) (c b : Nat) (v : Word) : State :=
  let g := s.cb c (barCfg b)
  let st := s.cb c (barSt b)
  let g := clearOnes (maskBits 25 25) g v
  if bits st 5 0 = 0 ∧ bits st 19 14 = 0 ∧ bits st 13 8 = 0 ∧ bits st 31 23 = 0 ∧ !bit st 62 then
    let old := parentOf g
    let g' := maskIn (maskBits 63 35) g v
    let new := parentOf g'
    let s := s.setCb c (barCfg b) g'
    let me : BarId := { modn := s.modn, core := c, bar := b }
    if old = new then s
    else
      let s := match old with
        | some p => s.push (.barrierWithdrawal p me)
        | none => s
      match new with
      | some p => s.push (.barrierRegistration p me)
      | none => s
  else s

/-- The DRAM boundaries (R194): performed only on an edge reticle, with both values in range, before any access since publication. -/
def State.interleave (s : State) (r : Nat) (v : Word) : State :=
  if isEdge r && !(s.reticle r).dramUsed && decide (bits v 41 32 ≤ 512) && decide (bits v 6 0 ≤ 116) then
    s.setRcb r 0x0108 (maskIn (maskBits 41 32 ||| maskBits 6 0) 0 v)
  else s

/-- POOLPA and MIGLIM (R52): ignored while entries are held, or where the pool would not lie in populated DRAM. -/
def State.poolWrite (s : State) (r off : Nat) (v : Word) : State :=
  let pa := if off = 0x0400 then bits v 63 16 * 2 ^ 16 else bits (s.rcb r 0x0400) 63 16 * 2 ^ 16
  let n := if off = 0x0408 then bits v 19 0 else bits (s.rcb r 0x0408) 19 0
  if (s.reticle r).pool.isEmpty && (n == 0 || (s.isLocalPa pa && dramRange (lpaOf pa) (256 * n))) then
    (if off = 0x0400 then s.setRcb r off (maskIn (maskBits 63 16) 0 v) else s.setRcb r off (maskIn (maskBits 19 0) 0 v))
  else s

/-- Root reticle of the partition a reticle is of: its lowest-numbered live one (R263). -/
def State.rootRet (s : State) (r : Nat) : Nat := ((List.range 49).find? fun q => s.retLive q && s.samePart r q).getD r

/-- Address of mailbox record `i` (R264). -/
def State.mbxRecord (s : State) (r i : Nat) : Nat := bits (s.rcb r 0x0500) 47 7 * 2 ^ 7 + 128 * i

/-- The launcher of a reticle's partition as a source: the firmware context in slot 62 of tile (0, 0) of the root reticle (R263). -/
def State.launcherSrc (s : State) (r : Nat) : Src :=
  let c := coreId r 0
  { modn := s.modn, core := c, slot := 62, gen := (mget (s.core c).gens 62).getD 0 }
/-- The tag of the launcher's accesses to records: mode F (R263, R324). -/
def State.launcherTag (s : State) (r : Nat) : Tag := { part := s.pid r, mode := .f }

/-- The launcher makes a word of a record empty, where the word's home admits it (R263, R264, R328). -/
def State.launcherEmpties (s : State) (r l : Nat) : State :=
  let x := s.unitAdmits (s.launcherSrc r) (s.launcherTag r) .write l
  let a := x.1.nowAt l
  if x.2 then x.1.changeFull (x.1.homeCore (x.1.placeOf a)) a false else x.1
/-- The launcher writes a word of a record, where the word's home admits it (R263, R264, R328). -/
def State.launcherWrites (s : State) (r l n : Nat) : State :=
  let x := s.unitAdmits (s.launcherSrc r) (s.launcherTag r) .write l
  if x.2 then x.1.unitWrite l (BitVec.ofNat 64 n) else x.1

/-- The mailbox registers (R263): the write takes effect while no gang is being placed, resets NEXT, and makes every record free. DESIGN CHOICE
(log 60): a write that would give MBXN a value above 256, to which the map gives no fate, is ignored. -/
def State.mailbox (s : State) (r off : Nat) (v : Word) : State :=
  let pa := if off = 0x0500 then bits v 55 7 * 2 ^ 7 else bits (s.rcb r 0x0500) 55 7 * 2 ^ 7
  let n := if off = 0x0508 then bits v 8 0 else bits (s.rcb r 0x0508) 8 0
  let busy := match (s.reticle r).gang with
    | some g => !g.placed
    | none => false
  if s.pval r && s.rootRet r == r && !busy && decide (n ≤ 256)
      && (n == 0 || (s.isLocalPa pa && dramRange (lpaOf pa) (128 * n))) then
    let s := s.setRcb r 0x0500 (BitVec.ofNat 64 pa)
    let s := s.setRcb r 0x0508 (BitVec.ofNat 64 n)
    let s := s.setRcb r 0x0510 (setBits (s.rcb r 0x0510) 15 8 0)
    (List.range n).foldl (fun s i =>
      let a := s.mbxRecord r i
      let s := s.launcherEmpties r a
      s.launcherWrites r (a + 8) 0xFF) s
  else s

/-- The last BUDGET value accepted for a basin (R285). -/
def State.budgetOf (s : State) (r : Nat) : Nat := 
  (((s.reticle r).budgeted.orElse fun _ => (s.reticle r).accepted)).getD (bits (s.rcb r 0x0600) 9 0)
/-- BUDGET (R24, R285, R289): accepted, for the next round after this cc, where the value and the module's sum over live basins stay within their limits, else BERR. -/
def State.budget (s : State) (r : Nat) (v : Word) : State :=
  let old := clearOnes (maskBits 63 63) (s.rcb r 0x0600) v
  let n := bits v 9 0
  let others := sumOf (((s.liveRets).filter fun q => q != r).map fun q => s.budgetOf q)
  if n ≤ 640 ∧ others + n ≤ Config.budgetSum then (s.setRcb r 0x0600 old).modRet r fun k => { k with budgeted := some n }
  else s.setRcb r 0x0600 (setBit old 63 true)

/-- Where the values that a partition write is to leave wait for its scrub (R323); beyond the block, so no access reaches it. -/
def scrubOff : Nat := 0x10000

/-- Tokens held in a reticle (R279). -/
def State.granted (s : State) (r : Nat) : Nat := sumOf ((List.range 192).map fun t => bits (s.cb (coreId r t) 0x0200) 3 0)
/-- Loans taken and given (R279). -/
def Ret.lentIn (k : Ret) : Nat := sumOf (k.loanIn.map (·.2))
/-- Loans given. -/
def Ret.lentOut (k : Ret) : Nat := sumOf (k.loanOut.map (·.2))

/-- Nothing of a reticle stands in the way of a new partition (R323). -/
def State.partitionFree (s : State) (r : Nat) : Bool :=
  ((s.whosOf r).all fun w => match s.ctx? w with
    | some c => c.kind == .message || c.kind == .firmware
    | none => true)
    && (s.reticle r).pool.isEmpty && s.granted r == 0 && (s.reticle r).lentIn == 0 && (s.reticle r).lentOut == 0
    && ((s.cores.map (·.1)).filter fun c => coreRet c == r).all fun c =>
        (List.range 48).all fun b =>
          bits (s.cb c (barSt b)) 5 0 == 0 && bits (s.cb c (barSt b)) 19 14 == 0
            && bits (s.cb c (barCfg b)) 34 26 == 0 && !bit (s.cb c (barCfg b)) 63

/-- Access and import tables of a core return to reset, its translation buffer empties (R323 step 2). -/
def Core.resetTables (k : Core) : Core :=
  { k with cb := k.cb.filter fun p => p.1 < accOff || (accOff + 0x400 ≤ p.1 && p.1 < 0x9000) || 0x9200 ≤ p.1, tlb := [] }

/-- Partition membership (R323): SCRB and the tables at once, the SRAM scrub and the new values when it is done. A walk under way brings no
entry into the emptied buffers (R331). -/
def State.partition (s : State) (r : Nat) (v : Word) : State :=
  let old := clearOnes (maskBits 61 61) (s.rcb r 0x0700) v
  let s := s.setRcb r 0x0700 old
  if bit v 63 = bit old 63 ∧ bits v 5 0 = bits old 5 0 then s
  else if !bit old 62 && s.partitionFree r then
    let s := s.setRcb r 0x0700 (setBit old 62 true)
    let s := s.setRcb r scrubOff (maskIn (maskBits 63 63 ||| maskBits 5 0) 0 v)
    let s := s.modRet r fun k => { k with cb := k.cb.filter fun p => p.1 < accOff || accOff + 0x100 ≤ p.1 }
    let s := { s with
      cores := s.cores.map fun (p : Nat × Core) => if coreRet p.1 = r then (p.1, p.2.resetTables) else p
      pending := s.pending.map fun (e : Ev) => match e with
        | .walkComplete k => .walkComplete (if coreRet k.core = r then { k with install := false } else k)
        | _ => e }
    s.push (.partitionScrubDone r)
  else s.setRcb r 0x0700 (setBit old 61 true)

/-- HOSTIRQ request (R338): PND is set and any pending request replaced. -/
def State.hostirq (s : State) (c : Nat) (v : Word) : State :=
  s.setCb c 0x0810 (maskIn (maskBits 63 16 ||| maskBits 5 0) 0 v ||| maskBits 15 15)

/-- Window offset of a DRAM LPA lies at or above the boundary: a page region (R193). -/
def State.inPageRegion (s : State) (a : Nat) : Bool :=
  match s.placeOf a with
  | .dram c _ true => decide (bits (s.rcb (coreRet c) 0x0108) 6 0 * 2 ^ 29 ≤ a % 2 ^ 36)
  | .dram c _ false => decide (bits (s.rcb (coreRet c) 0x0108) 41 32 * 2 ^ 29 ≤ (a - lpBase) % 2 ^ 38)
  | _ => false

/-- Status bits of a skim copy: ERR, DONE, BUSY (R204). -/
def State.skimBusy (s : State) (c : Nat) : Bool := bit (s.cb c 0x0020) 0

/-- GO with KIND 1: a tier migration of the pages that SKSRC and SKDST name then (R204). -/
def State.tierGo (s : State) (c : Nat) : State :=
  let src := bits (s.cb c 0x0000) 55 16 * 2 ^ 16
  let dst := bits (s.cb c 0x0008) 55 16 * 2 ^ 16
  if !s.skimBusy c && src != dst && s.isLocalPa src && s.isLocalPa dst && s.inPageRegion (lpaOf src)
      && s.inPageRegion (lpaOf dst) && s.homeCore (s.placeOf (lpaOf src)) == c then
    let s := s.setCb c 0x0018 0
    let s := s.setCb c 0x0020 (setBits (s.cb c 0x0020) 1 0 1)
    (s.modCore c fun k => { k with skim := some (lpaOf src, lpaOf dst) }).push (.skimCopyStep c)
  else s.setCb c 0x0020 (setBit (s.cb c 0x0020) 2 true)

/-- GO with KIND 0: bank sparing, from mode F only (R399). -/
def State.spareGo (s : State) (c : Nat) (mode : Mode) : State :=
  let ch := bits (s.cb c 0x0030) 16 16
  if mode == .f && !s.skimBusy c && !bit (s.cb c 0x0040) ch then
    let s := s.setCb c 0x0038 0
    let s := s.setCb c 0x0020 (setBits (s.cb c 0x0020) 1 0 1)
    (s.modCore c fun k => { k with spare := s.cb c 0x0030 }).push (.spareCopyStep c)
  else s.setCb c 0x0020 (setBit (s.cb c 0x0020) 2 true)

/-- RETIRE (R204, R205): ends the forwarding of a migration that is done. -/
def State.skimRetire (s : State) (c : Nat) : State :=
  if bit (s.cb c 0x0020) 1 && (s.core c).skim.isSome then
    (s.setCb c 0x0020 (setBits (s.cb c 0x0020) 1 0 0)).modCore c fun k => { k with skim := none }
  else s

/-- The skim control word (R204): KIND is kept, GO and RETIRE act and read 0. -/
def State.skimControl (s : State) (c : Nat) (mode : Mode) (v : Word) : State :=
  let s := s.setCb c 0x0010 (maskIn (maskBits 3 2) 0 v)
  let s := if bit v 1 then s.skimRetire c else s
  if bit v 0 then
    (if bits v 3 2 = 1 then s.tierGo c
     else if bits v 3 2 = 0 then s.spareGo c mode
     else s.setCb c 0x0020 (setBit (s.cb c 0x0020) 2 true))
  else s

/-- Start of an attestation (R390). -/
def State.attest (s : State) (r : Nat) : State :=
  if bit (s.rcb r 0x0D30) 1 then s else (s.setRcb r 0x0D30 2).push (.attestDone r)

/-- Some basin is entering, in or leaving Lowland. -/
def State.lowlandOn (s : State) : Bool := s.power.lowCause != 0 || s.rets.any fun p => p.2.low != .running
/-- Assert the carrier's Lowland line: the signal goes to every live reticle (R391). -/
def State.enterLowland (s : State) (cause : Nat) : State :=
  ({ s with power := { s.power with lowCause := cause } } : State).pushAll (s.liveRets.map Ev.lowlandSignal)
/-- The Lowland control word (R391, R397, R398). -/
def State.lowlandGo (s : State) (r : Nat) (mode : Mode) (v : Word) : State :=
  let old := clearOnes (maskBits 1 1) (s.rcb r 0x0F00) v
  let s := s.setRcb r 0x0F00 old
  if !bit v 0 then s
  else if mode == .f && r == bits (s.topoWord 0x2000) 29 24 && s.published && !s.lowlandOn then s.enterLowland 2
  else s.setRcb r 0x0F00 (setBit old 1 true)
/-- Begin the exit of every basin (R395): a basin still draining exits when it has entered. -/
def State.leaveLowland (s : State) : State :=
  let rs := (s.rets.filter fun p => p.2.low == .retained).map (·.1)
  ({ s with power := { s.power with lowCause := 0 } } : State).pushAll (rs.map Ev.passRetrainDone)
/-- WAKE, or the shelf's pulse: ends a command Lowland (R395, R398). -/
def State.wakeUp (s : State) : State := if s.power.lowCause = 2 then s.leaveLowland else s

/-- An entry of the module route table (R406): performed only while ALT = 0 or AV = 0; a performed write clears ALT (R407). -/
def State.routeWrite (s : State) (r m : Nat) (v : Word) : State :=
  let old := s.rcb r (0x3000 + 8 * m)
  if bit old 61 && bit old 62 then s
  else s.setRcb r (0x3000 + 8 * m) (maskIn (maskBits 63 62 ||| maskBits 53 40 ||| maskBits 29 16) 0 v)

/-! Merge entries (R408 to R410). -/

/-- First and one past the last LPA of an entry's range. -/
def State.mergeRange (s : State) (c e : Nat) : Nat × Nat :=
  let b := bits (s.cb c (mergeOff e + 8)) 47 3 * 8
  (b, b + 8 * bits (s.cb c (mergeOff e)) 12 0)
/-- Entries of the module that are armed or held, other than the one named. -/
def State.mergesOn (s : State) (c e : Nat) : List (Nat × Nat) :=
  ((s.cores.filter fun p => isLinkCore p.1).map fun p =>
    ([0, 1, 2, 3].filter fun i => !(p.1 == c && i == e)
      && (bit (s.cb p.1 (mergeOff i)) 63 || bit (s.cb p.1 (mergeOff i)) 61)).map fun i => (p.1, i)).flatten
/-- A range lies in one populated window of the module (R183, R408): DRAM of one window, or the SRAM of one tile. -/
def State.oneWindow (s : State) (lo hi : Nat) : Bool :=
  dramRange lo (hi - lo)
    && (decide (lo < lpBase) || decide ((lo - lpBase) / 2 ^ 38 = (hi - 1 - lpBase) / 2 ^ 38))
    || (match s.placeOf lo, s.placeOf (hi - 1) with
        | .sram c _, .sram c' _ => c == c'
        | _, _ => false)

/-- Write with ARM = 1 (R408). -/
def State.mergeArm (s : State) (c e : Nat) (v : Word) : State :=
  let old := clearOnes (maskBits 59 59 ||| maskBits 55 55) (s.cb c (mergeOff e)) v
  let b := bits v 53 48
  let n := bits v 12 0
  let base := bits (s.cb c (mergeOff e + 8)) 47 3 * 8
  let hi := base + 8 * n
  let st := s.cb c (barSt b)
  if 1 ≤ n ∧ n ≤ 4096 ∧ s.cb c (mergeOff e + 16) ≠ 0 ∧ s.oneWindow base hi ∧ b < 48 ∧ !bit (s.cb c (barCfg b)) 63
      ∧ bits st 13 8 = 0 ∧ bits st 31 23 = 0 ∧ !bit st 62 ∧ (s.core c).children.length < Config.memberPool
      ∧ !bit old 63
      ∧ ((s.mergesOn c e).all fun q => decide ((s.mergeRange q.1 q.2).2 ≤ base) || decide (hi ≤ (s.mergeRange q.1 q.2).1)) then
    let w := maskIn (maskBits 58 56 ||| maskBits 53 48 ||| maskBits 12 0) old v
    let w := setBits (setBit w 63 true) 62 60 0
    let s := s.setCb c (mergeOff e) w
    let s := s.setCb c (mergeOff e + 0x18) 0
    let s := s.modCore c fun k => { k with
      merges := mput e { touched := [], committing := 0 } k.merges
      children := k.children ++ [{ bar := b, who := none, entry := e }] }
    let g := s.cb c (barCfg b)
    s.setCb c (barCfg b) (setBits g 34 26 (bits g 34 26 + 1))
  else s.setCb c (mergeOff e) (setBit old 59 true)

/-- Write with ARM = 0 (R408). -/
def State.mergeDisarm (s : State) (c e : Nat) : State :=
  let w := s.cb c (mergeOff e)
  if !bit w 63 then s.setCb c (mergeOff e) (setBit w 61 false)
  else if bit w 62 then s.setCb c (mergeOff e) (setBit w 59 true)
  else
    let b := bits w 53 48
    let s := s.setCb c (mergeOff e) (setBit (setBit (setBit w 63 false) 61 false) 60 true)
    let s := s.modCore c fun k => { k with merges := mdel e k.merges }
    let s := s.dropChild c b fun x => x.who.isNone && x.entry == e
    s.testCompletion c b 3

/-- A CLOSE from module `m` (R410): ignored from a module outside EXP or already closed; the last one locks the entry, which then
arrives at its barrier. -/
def State.mergeClose (s : State) (c e m : Nat) : State :=
  let w := s.cb c (mergeOff e)
  let exp := s.cb c (mergeOff e + 0x10)
  let got := s.cb c (mergeOff e + 0x18)
  if bit w 63 && decide (m < 64) && bit exp m && !bit got m then
    let got := setBit got m true
    let s := s.setCb c (mergeOff e + 0x18) got
    if got = exp then
      let s := s.setCb c (mergeOff e) (setBit w 62 true)
      let b := bits w 53 48
      let st := s.cb c (barSt b)
      (s.setCb c (barSt b) (setBits st 31 23 (bits st 31 23 + 1))).testCompletion c b 3
    else s
  else s

/-- A write to a word of a merge entry. -/
def State.mergeWrite (s : State) (c e i m : Nat) (v : Word) : State :=
  let armed := bit (s.cb c (mergeOff e)) 63
  match i with
  | 0 =>
    if bit v 63 then s.mergeArm c e v
    else
      let w := clearOnes (maskBits 59 59 ||| maskBits 55 55) (s.cb c (mergeOff e)) v
      let s := (s.setCb c (mergeOff e) w).mergeDisarm c e
      if armed && bit w 62 then s
      else s.setCb c (mergeOff e) (maskIn (maskBits 58 56 ||| maskBits 53 48 ||| maskBits 12 0) (s.cb c (mergeOff e)) v)
  | 1 => if armed then s else s.setCb c (mergeOff e + 8) (maskIn (maskBits 47 3) 0 v)
  | 2 => if armed then s else s.setCb c (mergeOff e + 16) v
  | 4 => s.mergeClose c e m
  | _ => s

/-! Reading and writing any register. -/

/-- Page of a channel core most accessed since the last read, and its count (R204). DESIGN CHOICE (log 48): of pages accessed equally often the
lowest. -/
def hotWord (s : State) (c : Nat) : Word :=
  let best := (s.core c).hot.foldl (fun (b : Nat × Nat) p => if b.2 < p.2 then p else b) (0, 0)
  if best.2 = 0 then 0 else BitVec.ofNat 64 (s.paOf (best.1 * 2 ^ 16) % 2 ^ 56 + Nat.min best.2 65535)

/-- Walks of a reticle under way (R202): queued and busy. -/
def State.walksOf (s : State) (r : Nat) : Nat :=
  (s.pending.filter fun e => match e with
    | .walkComplete w => coreRet w.core == r
    | _ => false).length

/-- The value a register shows. -/
def State.readBlk (s : State) (b : Block) (off : Nat) : Word :=
  match b with
  | .core c =>
    if isChannelCore c ∧ off = 0x0028 then hotWord s c
    else if isChannelCore c ∧ off = 0x0038 then
      setBits (s.cb c off) 63 32 (Config.bankLines c)
    else if isLinkCore c ∧ 0x0C00 ≤ off ∧ off < 0x0D00 ∧ off % 64 = 0x20 then 0
    else if isTile c ∧ s.tileFailed (coreRet c) (coreTile c) ∧ (off = 0x0200 ∨ off = 0x0208) then 0
    else if !isTile c ∧ (off = 0x0200 ∨ off = 0x0208) then 0
    else if (isHostLink c ∨ !isLinkCore c) ∧ off = 0x0A08 then 0
    else s.cb c off
  | .ret r =>
    if 0x2000 ≤ off ∧ off < 0x2C80 then s.topoWord off
    else if off = 0x0108 ∧ !isEdge r then 0
    else if off = 0x0110 then
      BitVec.ofNat 64 (Nat.min (s.walksOf r - 8) 64 * 2 ^ 8 + Nat.min (s.walksOf r) 8)
    else if off = 0x0410 then BitVec.ofNat 64 (s.reticle r).pool.length
    else if (off = 0x0500 ∨ off = 0x0508 ∨ off = 0x0510) ∧ !(s.pval r && s.rootRet r == r) then 0
    else if off = 0x0510 then setBits (s.rcb r off) 3 0 (s.reticle r).launch.length
    else if off = 0x0600 then setBits (s.rcb r off) 9 0 (s.budgetOf r)
    else if off = 0x0610 then
      let unmet := sumOf ((List.range 192).map fun t =>
        bits (s.cb (coreId r t) 0x0200) 7 4 - bits (s.cb (coreId r t) 0x0200) 3 0)
      BitVec.ofNat 64 (unmet * 2 ^ 48 + (s.reticle r).lentOut * 2 ^ 32 + (s.reticle r).lentIn * 2 ^ 16 + s.granted r)
    else if 0x0E00 ≤ off ∧ off < 0x0E60 then Config.idPub r ((off - 0x0E00) / 8)
    else if 0x0E60 ≤ off ∧ off < 0x0E90 then (if s.published then Config.firmwareMeasure r ((off - 0x0E60) / 8) else 0)
    else if off = scrubOff then 0
    else s.rcb r off

/-- What a read clears (R4: RC fields). -/
def State.afterRead (s : State) (b : Block) (off : Nat) : State :=
  match b with
  | .core c =>
    if off = 0x8800 then s.setCb c off (setBit (s.cb c off) 63 false)
    else if off = 0x8808 then s.setCb c off (setBits (s.cb c off) 15 0 0)
    else if isChannelCore c ∧ off = 0x0028 then s.modCore c fun k => { k with hot := [] }
    else if isLinkCore c ∧ off = 0x0A00 then s.setCb c off (setBits (s.cb c off) 31 0 0)
    else s
  | .ret r =>
    if off = 0x8800 then s.setRcb r off (setBit (s.rcb r off) 63 false)
    else if off = 0x8808 then s.setRcb r off (setBits (s.rcb r off) 15 0 0)
    else if off = 0x0638 then s.setRcb r off (setBits (s.rcb r off) 31 0 0)
    else if off = 0x0C10 then s.setRcb r off (setBits (s.rcb r off) 31 0 0)
    else if off = 0x0F18 then s.setRcb r off (setBits (s.rcb r off) 15 0 0)
    else s

/-- A write of a register: the value, the mode of its request, and the module that issued it. -/
def State.writeBlk (s : State) (b : Block) (off : Nat) (v : Word) (mode : Mode) (m : Nat) : State :=
  match b with
  | .core c =>
    if 0x0300 ≤ off ∧ off < 0x0600 then
      (if off % 16 = 0 then s.barrierConfig c ((off - 0x0300) / 16) v else s)
    else if off = 0x0810 then s.hostirq c v
    else if isChannelCore c ∧ off = 0x0010 then s.skimControl c mode v
    else if isChannelCore c ∧ off = 0x0020 then s.setCb c off (clearOnes (maskBits 2 2) (s.cb c off) v)
    else if isLinkCore c ∧ 0x0C00 ≤ off ∧ off < 0x0D00 then
      s.mergeWrite c ((off - 0x0C00) / 64) (off % 64 / 8) m v
    else if isLinkCore c ∧ !isHostLink c ∧ off = 0x0A08 then
      (if bits v 23 0 = 0 then s else s.setCb c off (maskIn (maskBits 23 0) 0 v))
    else if isHostLink c ∧ off = 0x0F20 then (if bit v 0 then s.wakeUp else s)
    else s.setCb c off (maskIn (coreMask c off) (s.cb c off) v)
  | .ret r =>
    if off = 0x0108 then s.interleave r v
    else if off = 0x0400 ∨ off = 0x0408 then s.poolWrite r off v
    else if off = 0x0500 ∨ off = 0x0508 then s.mailbox r off v
    else if off = 0x0600 then s.budget r v
    else if off = 0x0608 then
      let w := maskIn (maskBits 33 16 ||| maskBits 11 8) (s.rcb r off) v
      s.setRcb r off (if bits v 7 0 = 0 then w else setBits w 7 0 (bits v 7 0))
    else if off = 0x0618 then (if bits v 9 0 ≤ 640 then s.setRcb r off (setBits (s.rcb r off) 9 0 (bits v 9 0)) else s)
    else if off = 0x0700 then s.partition r v
    else if off = 0x0C08 then
      let head := bits (s.rcb r 0x0C00) 31 0
      (if (head + 2 ^ 32 - bits v 31 0) % 2 ^ 32 ≤ 256 then s.setRcb r off (maskIn (maskBits 31 0) 0 v) else s)
    else if 0x0D00 ≤ off ∧ off < 0x0D30 then (if bit (s.rcb r 0x0D30) 1 then s else s.setRcb r off v)
    else if off = 0x0D30 then (if bit v 0 then s.attest r else s)
    else if off = 0x0F00 then s.lowlandGo r mode v
    else if 0x3000 ≤ off ∧ off < 0x3200 then s.routeWrite r ((off - 0x3000) / 8) v
    else if off = scrubOff then s
    else s.setRcb r off (maskIn (retMask off) (s.rcb r off) v)

end Sys2Proof.Machine
end

