-- ==== Sys2Proof/Machine/Fp.lean ====
section
/-! DEFINITION. The number formats bit by bit and the one rounding function (spec/04 R86 to R107). A finite value is a sign, a
natural significand and a power of two; results carry the flags they raise in the order of pw[21:16]. -/
namespace Sys2Proof.Machine

/-- Flags in the order of pw[21:16]: OV, NX, NV, DZ, AO, SI from bit 0 (R37, R128). -/
abbrev Flags := BitVec 6

/-- Overflow. -/
def fOV : Flags := 1
/-- Inexact. -/
def fNX : Flags := 2
/-- Invalid operation. -/
def fNV : Flags := 4
/-- Division by zero. -/
def fDZ : Flags := 8
/-- Accumulator overflow. -/
def fAO : Flags := 16
/-- Scale invalid. -/
def fSI : Flags := 32

/-- A floating-point layout (R90): exponent bits, fraction bits, and whether it is E4M3, which has no infinity. -/
structure Fmt where
  eb : Nat
  fb : Nat
  e4m3 : Bool
  deriving DecidableEq, Repr

/-- FP32. -/
def fp32 : Fmt := { eb := 8, fb := 23, e4m3 := false }
/-- FP16. -/
def fp16 : Fmt := { eb := 5, fb := 10, e4m3 := false }
/-- BF16. -/
def bf16 : Fmt := { eb := 8, fb := 7, e4m3 := false }
/-- E4M3. -/
def e4m3 : Fmt := { eb := 4, fb := 3, e4m3 := true }
/-- E5M2. -/
def e5m2 : Fmt := { eb := 5, fb := 2, e4m3 := false }

/-- Bytes of an element. -/
def Fmt.bytes (f : Fmt) : Nat := (1 + f.eb + f.fb) / 8
/-- Exponent bias (R90). -/
def Fmt.bias (f : Fmt) : Nat := 2 ^ (f.eb - 1) - 1
/-- Exponent of the least significant bit of a subnormal. -/
def Fmt.emin (f : Fmt) : Int := 1 - (f.bias : Int) - (f.fb : Int)
/-- The sign bit as a number. -/
def Fmt.sign (f : Fmt) : Nat := 2 ^ (f.eb + f.fb)
/-- The canonical NaN (R90). -/
def Fmt.nan (f : Fmt) : Nat :=
  if f.e4m3 then 0x7F else (2 ^ f.eb - 1) * 2 ^ f.fb + 2 ^ (f.fb - 1)
/-- Infinity of a sign; E4M3 has none. -/
def Fmt.inf (f : Fmt) (neg : Bool) : Nat := (2 ^ f.eb - 1) * 2 ^ f.fb + (if neg then f.sign else 0)
/-- The largest finite value of a sign (R90). -/
def Fmt.largest (f : Fmt) (neg : Bool) : Nat :=
  (if f.e4m3 then 0x7E else (2 ^ f.eb - 2) * 2 ^ f.fb + (2 ^ f.fb - 1)) + (if neg then f.sign else 0)
/-- Zero of a sign. -/
def Fmt.zero (f : Fmt) (neg : Bool) : Nat := if neg then f.sign else 0

/-- The value of an encoding (R91, R92). -/
inductive FVal
  | nan (signalling : Bool)
  | inf (neg : Bool)
  | fin (neg : Bool) (m : Nat) (e : Int)
  deriving DecidableEq, Repr

/-- Read an encoding (R90, R91). -/
def unpack (f : Fmt) (x : Nat) : FVal :=
  let neg := x / f.sign % 2 == 1
  let ex := x / 2 ^ f.fb % 2 ^ f.eb
  let fr := x % 2 ^ f.fb
  if f.e4m3 && ex == 15 && fr == 7 then .nan false
  else if !f.e4m3 && ex == 2 ^ f.eb - 1 then
    if fr == 0 then .inf neg else .nan (decide (fr < 2 ^ (f.fb - 1)))
  else if ex == 0 then .fin neg fr f.emin
  else .fin neg (fr + 2 ^ f.fb) (f.emin + (ex : Int) - 1)

/-- The value is negative or carries a minus sign. -/
def FVal.neg : FVal → Bool
  | .nan _ => false
  | .inf n => n
  | .fin n _ _ => n

/-- Any NaN. -/
def FVal.isNan : FVal → Bool
  | .nan _ => true
  | _ => false

/-- A signalling NaN (R92). -/
def FVal.isSig : FVal → Bool
  | .nan s => s
  | _ => false

/-- NV if any of the operands is a signalling NaN (R92). -/
def sigFlags (l : List FVal) : Flags := if l.any FVal.isSig then fNV else 0

/-- Bits of a number. -/
def bitLen (m : Nat) : Nat := if m = 0 then 0 else m.log2 + 1

/-- Cut a magnitude in [m 2^e, (m+1) 2^e), strictly above its lower end when `sticky`, at 2^q and round it by `mode`
(0 RNE, 1 RTZ, 2 RUP, 3 RDN): the multiple of 2^q, and whether it differs from the value (R93 steps 1 to 3). -/
def roundAt (mode : Nat) (neg : Bool) (m : Nat) (e q : Int) (sticky : Bool) : Nat × Bool :=
  if q ≤ e then (m * 2 ^ (e - q).toNat, sticky)
  else
    let sh := (q - e).toNat
    let n0 := m / 2 ^ sh
    let r := m % 2 ^ sh
    let half := 2 ^ (sh - 1)
    let inexact := r != 0 || sticky
    let up := match mode with
      | 0 => decide (half < r) || (r == half && (sticky || n0 % 2 == 1))
      | 1 => false
      | 2 => inexact && !neg
      | _ => inexact && neg
    (if up then n0 + 1 else n0, inexact)

/-- The encoding of n 2^q, with n at most 2^(fb+1), when it is within the format; `none` when it overflows. -/
def packMag (f : Fmt) (n : Nat) (q : Int) : Option Nat :=
  let (n, q) := if n = 2 ^ (f.fb + 1) then (2 ^ f.fb, q + 1) else (n, q)
  if n < 2 ^ f.fb then some n
  else
    let ex := (q - f.emin).toNat + 1
    if f.e4m3 then if 15 < ex ∨ (ex = 15 ∧ n = 2 ^ f.fb + 7) then none else some (ex * 2 ^ f.fb + (n - 2 ^ f.fb))
    else if 2 ^ f.eb - 1 ≤ ex then none else some (ex * 2 ^ f.fb + (n - 2 ^ f.fb))

/-- The result of an overflow (R93 step 4; R95 for E4M3). -/
def overflowTo (f : Fmt) (mode : Nat) (neg : Bool) : Nat :=
  if f.e4m3 then f.largest neg
  else match mode with
    | 0 => f.inf neg
    | 1 => f.largest neg
    | 2 => if neg then f.largest neg else f.inf neg
    | _ => if neg then f.inf neg else f.largest neg

/-- round(x, mode) of R93 for a nonzero magnitude, with its flags. -/
def roundTo (f : Fmt) (mode : Nat) (neg : Bool) (m : Nat) (e : Int) (sticky : Bool) : Nat × Flags :=
  let top : Int := e + (bitLen m : Int) - 1
  let q := max (top - (f.fb : Int)) f.emin
  let (n, ix) := roundAt mode neg m e q sticky
  match packMag f n q with
  | some b => (b + (if neg then f.sign else 0), if ix then fNX else 0)
  | none => (overflowTo f mode neg, fOV ||| fNX)

/-- The rounded value of an exact m 2^e, zero included. -/
def roundFin (f : Fmt) (mode : Nat) (neg : Bool) (m : Nat) (e : Int) : Nat × Flags :=
  if m = 0 then (f.zero neg, 0) else roundTo f mode neg m e false

/-- Sum of two finite values as an integer at the lower exponent. -/
def sumAt (n1 : Bool) (m1 : Nat) (e1 : Int) (n2 : Bool) (m2 : Nat) (e2 : Int) : Int × Int :=
  let e := min e1 e2
  let a : Int := (m1 * 2 ^ (e1 - e).toNat : Nat)
  let b : Int := (m2 * 2 ^ (e2 - e).toNat : Nat)
  ((if n1 then -a else a) + (if n2 then -b else b), e)

/-- Rounded sum of two finite values with the zero signs of R94. -/
def addFin (f : Fmt) (mode : Nat) (n1 : Bool) (m1 : Nat) (e1 : Int) (n2 : Bool) (m2 : Nat) (e2 : Int) : Nat × Flags :=
  let (v, e) := sumAt n1 m1 e1 n2 m2 e2
  if v = 0 then
    if n1 = n2 then (f.zero n1, 0) else (f.zero (mode == 3), 0)
  else roundTo f mode (decide (v < 0)) v.natAbs e false

/-- The value with its sign inverted, for subtraction. -/
def FVal.negate : FVal → FVal
  | .nan s => .nan s
  | .inf n => .inf (!n)
  | .fin n m e => .fin (!n) m e

/-- a + b (R92, R93, R94). -/
def fAddV (f : Fmt) (mode : Nat) (a b : FVal) : Nat × Flags :=
  match a, b with
  | .nan _, _ => (f.nan, sigFlags [a, b])
  | _, .nan _ => (f.nan, sigFlags [a, b])
  | .inf n1, .inf n2 => if n1 = n2 then (f.inf n1, 0) else (f.nan, fNV)
  | .inf n1, .fin _ _ _ => (f.inf n1, 0)
  | .fin _ _ _, .inf n2 => (f.inf n2, 0)
  | .fin n1 m1 e1, .fin n2 m2 e2 => addFin f mode n1 m1 e1 n2 m2 e2

/-- a b (R92 to R94). -/
def fMulV (f : Fmt) (mode : Nat) (a b : FVal) : Nat × Flags :=
  match a, b with
  | .nan _, _ => (f.nan, sigFlags [a, b])
  | _, .nan _ => (f.nan, sigFlags [a, b])
  | .inf n1, .inf n2 => (f.inf (n1 != n2), 0)
  | .inf n1, .fin n2 m _ => if m = 0 then (f.nan, fNV) else (f.inf (n1 != n2), 0)
  | .fin n1 m _, .inf n2 => if m = 0 then (f.nan, fNV) else (f.inf (n1 != n2), 0)
  | .fin n1 m1 e1, .fin n2 m2 e2 => roundFin f mode (n1 != n2) (m1 * m2) (e1 + e2)

/-- a b + c with one rounding (R149): 0 times infinity is invalid whatever c is. -/
def fFmaV (f : Fmt) (mode : Nat) (a b c : FVal) : Nat × Flags :=
  let bad := match a, b with
    | .inf _, .fin _ m _ => m == 0
    | .fin _ m _, .inf _ => m == 0
    | _, _ => false
  if bad then (f.nan, fNV)
  else if a.isNan || b.isNan || c.isNan then (f.nan, sigFlags [a, b, c])
  else match a, b with
    | .fin n1 m1 e1, .fin n2 m2 e2 => match c with
      | .fin n3 m3 e3 => addFin f mode (n1 != n2) (m1 * m2) (e1 + e2) n3 m3 e3
      | .inf n3 => (f.inf n3, 0)
      | .nan _ => (f.nan, 0)
    | _, _ =>
      let n := a.neg != b.neg
      match c with
      | .inf n3 => if n = n3 then (f.inf n, 0) else (f.nan, fNV)
      | _ => (f.inf n, 0)

/-- a / b (R92, R149). -/
def fDivV (f : Fmt) (mode : Nat) (a b : FVal) : Nat × Flags :=
  match a, b with
  | .nan _, _ => (f.nan, sigFlags [a, b])
  | _, .nan _ => (f.nan, sigFlags [a, b])
  | .inf _, .inf _ => (f.nan, fNV)
  | .inf n1, .fin n2 _ _ => (f.inf (n1 != n2), 0)
  | .fin n1 _ _, .inf n2 => (f.zero (n1 != n2), 0)
  | .fin n1 m1 e1, .fin n2 m2 e2 =>
    if m2 = 0 then if m1 = 0 then (f.nan, fNV) else (f.inf (n1 != n2), fDZ)
    else if m1 = 0 then (f.zero (n1 != n2), 0)
    else roundTo f mode (n1 != n2) (m1 * 2 ^ 64 / m2) (e1 - e2 - 64) (m1 * 2 ^ 64 % m2 != 0)

/-- Bits of the integer square root, from bit k - 1 down. -/
def isqrtGo : Nat → Nat → Nat → Nat
  | 0, _, r => r
  | k + 1, n, r => if (r + 2 ^ k) * (r + 2 ^ k) ≤ n then isqrtGo k n (r + 2 ^ k) else isqrtGo k n r

/-- Integer square root. -/
def isqrt (n : Nat) : Nat := isqrtGo (n.log2 / 2 + 1) n 0

/-- Significand and even exponent of the same value. -/
def evenExp (m : Nat) (e : Int) : Nat × Int := if e % 2 = 0 then (m, e) else (2 * m, e - 1)

/-- Square root (R92, R94, R96). -/
def fSqrtV (f : Fmt) (mode : Nat) (a : FVal) : Nat × Flags :=
  match a with
  | .nan s => (f.nan, if s then fNV else 0)
  | .inf n => if n then (f.nan, fNV) else (f.inf false, 0)
  | .fin n m e =>
    if m = 0 then (f.zero n, 0)
    else if n then (f.nan, fNV)
    else
      let (m, e) := evenExp m e
      let r := isqrt (m * 2 ^ 128)
      roundTo f mode false r (e / 2 - 64) (r * r != m * 2 ^ 128)

/-- Reciprocal (R96). -/
def fRcpV (f : Fmt) (mode : Nat) (a : FVal) : Nat × Flags :=
  match a with
  | .nan s => (f.nan, if s then fNV else 0)
  | .inf n => (f.zero n, 0)
  | .fin n m e => if m = 0 then (f.inf n, fDZ)
    else roundTo f mode n (2 ^ 96 / m) (-e - 96) (2 ^ 96 % m != 0)

/-- Reciprocal square root (R96). -/
def fRsqV (f : Fmt) (mode : Nat) (a : FVal) : Nat × Flags :=
  match a with
  | .nan s => (f.nan, if s then fNV else 0)
  | .inf n => if n then (f.nan, fNV) else (f.zero false, 0)
  | .fin n m e =>
    if m = 0 then (f.inf n, fDZ)
    else if n then (f.nan, fNV)
    else
      let (m, e) := evenExp m e
      let r := isqrt (2 ^ 192 / m)
      roundTo f mode false r (-(e / 2) - 96) (r * r * m != 2 ^ 192)

/-- Fixed-point places of the series below. -/
def seriesP : Nat := 512

/-- ln 2 to 1,024 binary places, rounded down. -/
def ln2At1024 : Nat :=
  0xb17217f7d1cf79abc9e3b39803f2f6af40f343267298b62d8a0d175b8baafa2be7b876206debac98559552fb4afa1b10ed2eae35c138214427573b291169b8253e96ca16224ae8c51acbda11317c387eb9ea9bc3b136603b256fa0ec7657f74b72ce87b19d6548caf5dfa6bd38303248655fa1872f20e3a2da2d97c50f3fd5c6

/-- ln 2 at the places of the series, rounded down. -/
def ln2Fix : Nat := ln2At1024 / 2 ^ (1024 - seriesP)

/-- Terms of exp: n more terms after `t`, the k-th, of argument y. -/
def expTerms : Nat → Nat → Nat → Nat → Nat
  | 0, _, t, _ => t
  | n + 1, k, t, y => t + expTerms n (k + 1) (t * y / (2 ^ seriesP * (k + 1))) y

/-- Terms of atanh: u is the current odd power, z2 the square. -/
def atanhTerms : Nat → Nat → Nat → Nat → Nat
  | 0, _, _, _ => 0
  | n + 1, k, u, z2 => u / (2 * k + 1) + atanhTerms n (k + 1) (u * z2 / 2 ^ seriesP) z2

/-- Round a positive value known to lie in [lo, hi) 2^(-seriesP + e): the bits below the guard are dropped, and both ends agree
above it for every argument of the formats (log 9). -/
def roundBetween (f : Fmt) (mode : Nat) (neg : Bool) (lo : Nat) (e : Int) : Nat × Flags :=
  roundTo f mode neg (lo / 2 ^ 64) (e - (seriesP : Int) + 64) true

/-- 2^x (R96): exact at integers, else the series for the fraction. -/
def fExp2V (f : Fmt) (mode : Nat) (a : FVal) : Nat × Flags :=
  match a with
  | .nan s => (f.nan, if s then fNV else 0)
  | .inf n => if n then (f.zero false, 0) else (f.inf false, 0)
  | .fin n m e =>
    if m = 0 then roundTo f mode false 1 0 false
    else
      let big := decide ((12 : Int) ≤ e + (bitLen m : Int) - 1)
      if big then roundTo f mode false 1 (if n then -4000 else 4000) false
      else
        let s := (-e).toNat
        let num : Int := (if 0 ≤ e then m * 2 ^ e.toNat else m : Nat)
        let v : Int := if n then -num else num
        let k := v / (2 ^ s : Nat)
        let fr := (v % (2 ^ s : Nat)).toNat
        if fr = 0 then roundTo f mode false 1 k false
        else roundBetween f mode false (expTerms 120 0 (2 ^ seriesP) (fr * ln2Fix / 2 ^ s)) k

/-- log2 x (R96): exact at powers of two, else the series for the significand. -/
def fLog2V (f : Fmt) (mode : Nat) (a : FVal) : Nat × Flags :=
  match a with
  | .nan s => (f.nan, if s then fNV else 0)
  | .inf n => if n then (f.nan, fNV) else (f.inf false, 0)
  | .fin n m e =>
    if m = 0 then (f.inf true, fDZ)
    else if n then (f.nan, fNV)
    else
      let one := 2 ^ m.log2
      let k : Int := e + (m.log2 : Int)
      if m = one then roundFin f mode (decide (k < 0)) k.natAbs 0
      else
        let z := (m - one) * 2 ^ seriesP / (m + one)
        let ln := 2 * atanhTerms 170 0 z (z * z / 2 ^ seriesP)
        let lg := ln * 2 ^ seriesP / (ln2Fix + 1)
        if 0 ≤ k then roundBetween f mode false (k.toNat * 2 ^ seriesP + lg) 0
        else roundBetween f mode true (k.natAbs * 2 ^ seriesP - lg - 2 ^ 32) 0

/-- The order of two values that are no NaN, with −0 below +0 (R107): a is below b. -/
def fBelow (a b : FVal) : Bool :=
  match a, b with
  | .inf n1, .inf n2 => n1 && !n2
  | .inf n1, .fin _ _ _ => n1
  | .fin _ _ _, .inf n2 => !n2
  | .fin n1 m1 e1, .fin n2 m2 e2 =>
    let (d, _) := sumAt n1 m1 e1 (!n2) m2 e2
    if d = 0 then n1 && !n2 else decide (d < 0)
  | _, _ => false

/-- a = b as numbers, zeros alike (R151). -/
def fEqual (a b : FVal) : Bool :=
  match a, b with
  | .inf n1, .inf n2 => n1 == n2
  | .fin n1 m1 e1, .fin n2 m2 e2 => (sumAt n1 m1 e1 (!n2) m2 e2).1 == 0
  | _, _ => false

/-- min or max under R107 of two encodings of one format. -/
def fMinMax (f : Fmt) (wantMax : Bool) (x y : Nat) : Nat × Flags :=
  let a := unpack f x
  let b := unpack f y
  let fl := sigFlags [a, b]
  if a.isNan && b.isNan then (f.nan, fl)
  else if a.isNan then (y, fl)
  else if b.isNan then (x, fl)
  else if wantMax then (if fBelow a b then y else x, fl)
  else (if fBelow b a then y else x, fl)

/-- The comparison of R151: condition 0 EQ, 1 NE, 2 LT, 3 LE, 4 UN, 5 ORD, with NV. -/
def fCompare (cond : Nat) (a b : FVal) : Bool × Flags :=
  let un := a.isNan || b.isNan
  let quiet := sigFlags [a, b]
  let loud : Flags := if un then fNV else 0
  match cond with
  | 0 => (!un && fEqual a b, quiet)
  | 1 => (un || !fEqual a b, quiet)
  | 2 => (!un && fBelow a b && !fEqual a b, loud)
  | 3 => (!un && (fBelow a b || fEqual a b), loud)
  | 4 => (un, quiet)
  | _ => (!un, quiet)

/-- The class bit of R150. -/
def fClassBit (f : Fmt) (x : Nat) : Nat :=
  match unpack f x with
  | .nan s => if s then 8 else 9
  | .inf n => if n then 0 else 7
  | .fin n m _ =>
    if m = 0 then (if n then 3 else 4)
    else if m < 2 ^ f.fb then (if n then 2 else 5)
    else (if n then 1 else 6)

/-- Float to float (R98, R95): one rounding; an infinite source to E4M3 gives ±448 and OV. -/
def fConvert (f g : Fmt) (mode : Nat) (x : Nat) : Nat × Flags :=
  match unpack f x with
  | .nan s => (g.nan, if s then fNV else 0)
  | .inf n => if g.e4m3 then (g.largest n, fOV) else (g.inf n, 0)
  | .fin n m e => roundFin g mode n m e

/-- Least and greatest value of an integer type of `n` bits. -/
def intMin (signed : Bool) (n : Nat) : Int := if signed then -(2 ^ (n - 1) : Nat) else 0
/-- Greatest value. -/
def intMax (signed : Bool) (n : Nat) : Int := if signed then (2 ^ (n - 1) : Nat) - 1 else (2 ^ n : Nat) - 1

/-- Float to integer (R98). -/
def fToInt (f : Fmt) (signed : Bool) (n : Nat) (mode : Nat) (x : Nat) : Int × Flags :=
  match unpack f x with
  | .nan _ => (0, fNV)
  | .inf neg => (if neg then intMin signed n else intMax signed n, fNV)
  | .fin neg m e =>
    let (r, ix) := roundAt mode neg m e 0 false
    let v : Int := if neg then -(r : Int) else r
    if v < intMin signed n then (intMin signed n, fNV)
    else if intMax signed n < v then (intMax signed n, fNV)
    else (v, if ix then fNX else 0)

/-- Integer to float (R98). -/
def intToF (g : Fmt) (mode : Nat) (v : Int) : Nat × Flags := roundFin g mode (decide (v < 0)) v.natAbs 0

/-- The integer of the low `n` bits of `x` (R88). -/
def intOf (signed : Bool) (n : Nat) (x : Nat) : Int :=
  let y := x % 2 ^ n
  if signed && decide (2 ^ (n - 1) ≤ y) then (y : Int) - (2 ^ n : Nat) else y

/-- The `n`-bit pattern of an integer reduced modulo 2^n (R89). -/
def intBits (n : Nat) (v : Int) : Nat := (v % (2 ^ n : Nat)).toNat

end Sys2Proof.Machine
end

