-- ==== Sys2Proof/Machine/Perform.lean ====
section
/-! DEFINITION. Performing an access at its home in one step (R206, R208, R223 to R229, R270, R317), answering it, and what the
scoreboard makes wait (R217, R218). -/
namespace Sys2Proof.Machine

/-- What an access did at its home. `ok` carries the value and, for a QPOP, the stamp that its answer waits for; `unmet` is a
conditional access whose condition does not hold; `sent` one that left through a host port. -/
inductive Effect
  | ok (v : Word) (stamp : Option Word)
  | fail (c : Cause) (va : Word)
  | unmet
  | sent
  deriving DecidableEq, Repr, Inhabited

/-- New value of an atomic operation (R228). -/
def amoNew (op : Nat) (old b cmp : Word) : Word :=
  match op with
  | 0 => old + b
  | 1 => old &&& b
  | 2 => old ||| b
  | 3 => old ^^^ b
  | 4 => if old.slt b then old else b
  | 5 => if old.slt b then b else old
  | 6 => if old.ult b then old else b
  | 7 => if old.ult b then b else old
  | 8 => b
  | 9 => if old = cmp then b else old
  | _ => BitVec.ofNat 64 (fAddV fp32 0 (unpack fp32 (bits old 31 0)) (unpack fp32 (bits b 31 0))).1

/-- Sign- or zero-extend the low `2^z` bytes read (R223). -/
def extend (z : Nat) (sx : Bool) (v : Nat) : Word := if sx then sextN (8 * 2 ^ z) v else BitVec.ofNat 64 v

/-- The cause of an untrusted word, by where it lies (R192). -/
def ueCause : Place → Cause
  | .dram _ _ _ => .uedram
  | _ => .uesram
/-- Error class of an uncorrectable word, by where it lies (R357). -/
def ueClass : Place → Nat
  | .dram _ _ _ => 3
  | _ => 1

/-- ADDR of a log entry for a word (R363). The private bank of a rim core has no physical address (R18): a free value. -/
def State.errorAddr (s : State) (wa : Nat) : Word := if wa < 2 ^ 48 then BitVec.ofNat 64 (s.paOf wa) else Config.rimAddr wa

/-- Find an uncorrectable word (R192, R357): P is set, on every word of a DRAM line, and the error is reported once. -/
def State.findUe (s : State) (p : Place) (wa : Nat) (b : Blame) : State :=
  let words := match p with
    | .dram _ _ _ => (List.range 8).map fun i => wa / 64 * 64 + 8 * i
    | _ => [wa]
  let s := { s with poison := words.foldl (fun l w => sadd w l) s.poison, corrupt := words.foldl (fun l w => sdel w l) s.corrupt }
  let c := s.homeCore p
  s.report (coreRet c) (ueClass p) b (coreTile c) (s.errorAddr wa) 1 (causeCode (ueCause p)) 0

/-- The check of a word finds an error that it cannot correct (R357). -/
def State.hard (s : State) (wa : Nat) : Bool := s.corrupt.contains wa && (mget s.soft wa).isNone

/-- Correct what can be corrected of a word, or of a DRAM word's line, write it back and report it (R357, R363): classes 0 and 2. -/
def State.correctWord (s : State) (p : Place) (wa n : Nat) (b : Blame) (code : Nat) : State :=
  let words := match p with
    | .dram _ _ _ => (List.range 8).map fun i => wa / 64 * 64 + 8 * i
    | _ => [wa]
  let cls := match p with
    | .dram _ _ _ => 2
    | _ => 0
  let mended := words.filter fun w => (mget s.soft w).isSome
  let s : State :=
    { s with
      corrupt := s.corrupt.filter fun w => !mended.contains w
      soft := s.soft.filter fun x => !mended.contains x.1 }
  let c := s.homeCore p
  s.report (coreRet c) cls b (coreTile c) (s.errorAddr wa) 1 code n

/-- The context to which an error was charged is still there. -/
def State.survives (s t : State) (b : Blame) : Bool :=
  match b.who with
  | none => true
  | some w => s.gen w == t.gen w

/-- Correct a word if its error is one that can be corrected. -/
def State.amend (s : State) (p : Place) (wa : Nat) (b : Blame) (code : Nat) : State :=
  if s.corrupt.contains wa then (match mget s.soft wa with
    | some n => s.correctWord p wa n b code
    | none => s)
  else s

/-- A word an access would read is not to be trusted: P set, or its check fails, in which case the finding is made here. A correctable
one is corrected and read; the access goes no further where that error's action killed its context (R361, R366). -/
def State.checkWord (s : State) (p : Place) (wa : Nat) (b : Blame) : State × Bool :=
  if s.poisoned wa then (s, true)
  else if s.corrupt.contains wa then (match mget s.soft wa with
    | none => (s.findUe p wa b, true)
    | some n =>
      let t := s.correctWord p wa n b 0
      (t, !s.survives t b))
  else (s, false)

/-- Check several words in order (R371: a queue's header). -/
def State.checkWords (s : State) (p : Place) (b : Blame) : List Nat → State × Bool
  | [] => (s, false)
  | wa :: r =>
    let ck := s.checkWord p wa b
    if ck.2 then ck else ck.1.checkWords p b r

/-! Task queues (R270, R371). -/

/-- P of an uncorrectable word is set where an entry of a queue is found so (R371): its stamp, which stays. -/
def State.poisonHard (s : State) (wa : Nat) : State :=
  if s.hard wa then { s with poison := sadd wa s.poison, corrupt := sdel wa s.corrupt } else s

/-- A queue header as it stands: capacity, HEAD, TAIL; none when it breaks the rules of R270. -/
def State.queueHeader (s : State) (h : Nat) : Option (Nat × Nat × Nat) :=
  let w (i : Nat) : Nat := memRead s.mem (h + 8 * i) 8
  let cap := w 0 % 2 ^ 13
  let pow := (List.range 13).any fun k => decide (1 ≤ k) && cap == 2 ^ k
  let fits := match s.placeOf h with
    | .sram _ off => decide (off + 64 + 16 * cap ≤ Config.sramBytes)
    | _ => false
  if pow && fits && ([3, 4, 5, 6, 7].all fun i => w i == 0) then some (cap, w 1 % 2 ^ 32, w 2 % 2 ^ 32) else none

/-- QPUSH at the queue's home (R270). -/
def State.queuePush (s : State) (c h : Nat) (a : Access) : State × Effect :=
  match s.queueHeader h with
  | none => (s, .fail .taskerr a.va)
  | some (cap, head, tail) =>
    if (tail + 2 ^ 32 - head) % 2 ^ 32 = cap then (s.serveSoon c (h + 8), .ok 1 none)
    else
      let e := h + 64 + 16 * (tail % cap)
      let s := s.storeBytes e 8 a.data.toNat
      let s := s.storeBytes (e + 8) 8 a.cmp.toNat
      let s := (s.freshWord e).freshWord (e + 8)
      let s := s.changeFull c e true
      let s := s.storeBytes (h + 16) 8 ((tail + 1) % 2 ^ 32)
      (s.serveSoon c (h + 8), .ok 0 none)

/-- QPOP at the queue's home (R270, R371). -/
def State.queuePop (s : State) (c h : Nat) (b : Blame) (a : Access) : State × Effect :=
  match s.queueHeader h with
  | none => (s, .fail .taskerr a.va)
  | some (cap, head, _) =>
    let e := h + 64 + 16 * (head % cap)
    if !s.full e then (s, .unmet)
    else
      let v := BitVec.ofNat 64 (memRead s.mem e 8)
      let st := BitVec.ofNat 64 (memRead s.mem (e + 8) 8)
      let found := s.hard e || s.hard (e + 8)
      let bad := s.poisoned e || s.poisoned (e + 8) || found
      let s := if found then
          (s.poisonHard (e + 8)).report (coreRet c) 8 b (coreTile c) (BitVec.ofNat 64 (s.paOf e)) 1 (causeCode .uetq) 0
        else s
      let s := if bad then s.freshWord e else (s.amend (s.placeOf e) e b 0).amend (s.placeOf (e + 8)) (e + 8) b 0
      let s := s.changeFull c e false
      let s := s.storeBytes (h + 8) 8 ((head + 1) % 2 ^ 32)
      let s := s.serveSoon c (h + 8)
      if bad then (s, .fail .uetq (a.va + BitVec.ofNat 64 (64 + 16 * (head % cap)))) else (s, .ok v (some st))

/-- Effect of an admitted access on a word of memory (R206, R208, R224, R228). -/
def State.memEffect (s : State) (p : Place) (c : Nat) (a : Access) (b : Blame) : State × Effect :=
  let l := lpaOf a.pa
  let wa := wordAt l
  let word := BitVec.ofNat 64 (memRead s.mem wa 8)
  let checked : State × Bool :=
    match a.op with
    | .qpush => s.checkWords p b ((List.range 8).map fun i => wa + 8 * i)
    | .qpop => s.checkWords p b ((List.range 8).map fun i => wa + 8 * i)
    | .feset => (s, false)
    | op => if op.overwrites then (s, false) else s.checkWord p wa b
  if checked.2 then (checked.1, .fail (ueCause p) a.va)
  else
    let s := checked.1
    match a.op with
    | .load z sx => (s, .ok (extend z sx (memRead s.mem l (2 ^ z))) none)
    | .fetch => (s, .ok (BitVec.ofNat 64 (memRead s.mem l 4)) none)
    | .scale => (s, .ok (BitVec.ofNat 64 (memRead s.mem l 1)) none)
    | .copyRead z => (s, .ok (BitVec.ofNat 64 (memRead s.mem l (2 ^ z))) none)
    | .store z =>
      let s := s.storeBytes l (2 ^ z) a.data.toNat
      (if z = 3 then s.freshWord wa else s, .ok 0 none)
    | .copyWrite z fes =>
      let s := s.storeBytes l (2 ^ z) a.data.toNat
      let s := if z = 3 then s.freshWord wa else s
      (if fes then s.changeFull c wa true else s, .ok 0 none)
    | .ldfe => if s.full wa then (s.changeFull c wa false, .ok word none) else (s, .unmet)
    | .ldff => if s.full wa then (s, .ok word none) else (s, .unmet)
    | .stef =>
      if s.full wa then (s, .unmet)
      else (((s.storeBytes wa 8 a.data.toNat).freshWord wa).changeFull c wa true, .ok 0 none)
    | .stff => (((s.storeBytes wa 8 a.data.toNat).freshWord wa).changeFull c wa true, .ok 0 none)
    | .stfe => (((s.storeBytes wa 8 a.data.toNat).freshWord wa).changeFull c wa false, .ok 0 none)
    | .feget => (s, .ok (if s.full wa then 1 else 0) none)
    | .feset => (s.changeFull c wa (bit a.data 0), .ok 0 none)
    | .amo op f =>
      let n := a.op.bytes
      let old := BitVec.ofNat 64 (memRead s.mem l n)
      (s.storeBytes l n (amoNew op old a.data a.cmp).toNat, .ok (if f then old else 0) none)
    | .red op =>
      let n := a.op.bytes
      let old := BitVec.ofNat 64 (memRead s.mem l n)
      (s.storeBytes l n (amoNew op old a.data a.cmp).toNat, .ok 0 none)
    | .qpush => s.queuePush c wa a
    | .qpop => s.queuePop c wa b a
    | .drwait => if bits word 15 0 = 0 ∨ bit word 63 then (s, .ok word none) else (s, .unmet)

/-- Offset in its control block that a place names. -/
def ctlOff : Place → Nat
  | .ctl _ off => off / 8 * 8
  | .rctl _ off => off / 8 * 8
  | _ => 0

/-- Words of the severity matrix, which no store reaches (R359). -/
def Place.isMatrix : Place → Bool
  | .rctl _ off => decide (0x0A00 ≤ off) && decide (off < 0x0C00)
  | _ => false

/-- An access that no control block takes (R184, R359): any but LD.D and ST.D, and a store to the severity matrix. -/
def Place.ctlBars (p : Place) (op : MemOp) : Bool :=
  p.isCtl && !(match op with
    | .load z _ => z == 3
    | .store z => z == 3 && !p.isMatrix
    | _ => false)

/-- Effect of an admitted access on a control-block word: only LD.D and ST.D are granted (R184). -/
def State.ctlEffect (s : State) (p : Place) (a : Access) : Option (State × Effect) :=
  if p.ctlBars a.op then none
  else match a.op with
  | .load 3 _ => some (s.afterRead (blockOf p) (ctlOff p), .ok (s.readBlk (blockOf p) (ctlOff p)) none)
  | .store 3 => some (s.writeBlk (blockOf p) (ctlOff p) a.data a.tag.mode a.src.modn, .ok 0 none)
  | _ => none

/-- A host window access at its link core (R18, R403): it goes to the host while the link is up. -/
def State.hostEffect (s : State) (port : Nat) (a : Access) : State × Effect :=
  if bit (s.cb (hostCore port) 0x0A00) 63 then ({ s with outbox := s.outbox ++ [a] }, .sent)
  else (s, .fail .hostdown a.va)

/-- Perform an access at its home: the access table first (R328), unless it has admitted the request before (R329), then the word. -/
def State.performAt (s : State) (a : Access) : State × Effect :=
  let l := lpaOf a.pa
  let p := s.placeOf l
  let s := s.noteDram p l
  let refuse : State × Effect := (s.logRefusal (blockOf p) a.tag a.op.kind l a.src, .fail .acctbl a.va)
  if !a.granted && !s.admits p a.tag a.op.kind l then refuse
  else if p.isCtl then (s.ctlEffect p a).getD refuse
  else match p with
    | .host port => s.hostEffect port a
    | .hole => refuse
    | _ => s.memEffect p (s.homeCore p) a (s.blame a.src a.tag.mode)

/-! The scoreboard (R217, R218). -/

/-- Two ranges share a byte. -/
def Range.meets (x y : Range) : Bool := decide (x.lo < y.hi) && decide (y.lo < x.hi)
/-- How a hold names an access that waits. -/
def accKey (a : Access) : Nat × Nat × Nat := (a.src.modn, a.src.core, a.id)

/-- Offset in its tile of element `n` of a copy's target, before the wrap (R158, R240). -/
def rawAt (e : List Nat) (st : List Int) : Nat → Int :=
  fun n => ((e.zip st).foldl (fun (x : Int × Nat) p => (x.1 + ((x.2 % Nat.max p.1 1 : Nat) : Int) * p.2, x.2 / Nat.max p.1 1)) ((0 : Int), n)).1
/-- The wrap of R158 on an offset. -/
def wrapAt (en : Bool) (lo hi : Nat) (raw : Int) : Int := if en then lo + (raw - lo) % ((hi : Int) - lo) else raw
/-- Destination offset of element `n` of a copy from its DST (R240). -/
def Desc.dstAt (d : Desc) (n : Nat) : Int := wrapAt d.dwen d.dwbeg d.dwend (rawAt d.e d.ds n)
/-- Source offset of element `n` of a copy from its SRC. -/
def Desc.srcAt (d : Desc) (n : Nat) : Int := wrapAt d.swen d.swbeg d.swend (rawAt d.e d.ss n)

/-- Tile SRAM offset of destination element `n` of a copy, where that lies in this tile. -/
def Chan.offAt (k : Chan) (n : Nat) : Option Nat :=
  let va := (((k.targets.getD k.self (0, 0)).2.toNat : Int) + k.desc.dstAt n).toNat
  (mget k.pages (va / 2 ^ 16)).map fun p => p + va % 2 ^ 16

/-- Elements 0 up to this have been written in this tile (R218): those of the write pointer and the run above it. -/
def Chan.released (k : Chan) : Nat :=
  k.wp + ((List.range k.done.length).takeWhile fun i => k.done.contains (k.wp + i, k.self)).length

/-- A byte of this tile is still under a copy's write hold (R218): it is released with the last of the elements that write it. -/
def Chan.heldByte (k : Chan) (off : Nat) : Bool :=
  let covers (n : Nat) : Bool := match k.offAt n with
    | some o => decide (o ≤ off) && decide (off < o + 2 ^ k.desc.esz)
    | none => false
  !((List.range k.released).any covers) || (List.range (k.total - k.released)).any fun i => covers (k.released + i)

/-- A hold stops an access to a range: a copy's write hold lets go of the bytes that are released (R218). -/
def Core.holdStops (k : Core) (h : Hold) (wr : Bool) (x : Range) : Bool :=
  (h.writes.any (fun y => y.meets x)
      && match k.chans.find? fun p => p.2.id == h.id && !p.2.finished with
        | none => true
        | some p => (List.range (x.hi - x.lo)).any fun i => p.2.heldByte (x.lo + i))
    || (wr && h.reads.any fun y => y.meets x)

/-- An earlier hold makes a command with a later one wait. -/
def Core.bars (k : Core) (h later : Hold) : Bool := later.writes.any (k.holdStops h true) || later.reads.any (k.holdStops h false)

/-- The command or copy of this tile that an element access or a key read is made for; it waits only under earlier holds. -/
def Core.ownHold (k : Core) (a : Access) : Option Nat :=
  if a.src.core ≠ (lpaOf a.pa - retBase) / 2 ^ 22 then none
  else match a.dst with
    | .copyRd ch _ => (mget k.chans ch).map (·.id)
    | .copyWr ch _ => (mget k.chans ch).map (·.id)
    | .setKey _ => (k.cmds.find? fun x => (x.req.map (·.1)) == some a.id).map (·.id)
    | _ => none

/-- The bytes an access touches at its home: those at its address, or a queue's header and the entry at its tail or head (R217, R270). -/
def State.spans (s : State) (a : Access) : List Range :=
  let l := lpaOf a.pa
  let entry (f : Nat × Nat × Nat → Nat) : List Range := match s.queueHeader l with
    | none => []
    | some q => [{ lo := l + 64 + 16 * (f q % q.1), hi := l + 80 + 16 * (f q % q.1) }]
  match a.op with
  | .qpush => { lo := l, hi := l + 64 } :: entry fun q => q.2.2
  | .qpop => { lo := l, hi := l + 64 } :: entry fun q => q.2.1
  | _ => [{ lo := l, hi := l + a.op.bytes }]

/-- Two accesses to a common byte, one of which may write it, keep the order in which they met the scoreboard (R219). -/
def State.clash (s : State) (a b : Access) : Bool :=
  (a.op.writes || b.op.writes) && (s.spans a).any fun x => (s.spans b).any fun y => x.meets y

/-- An access directly to a page that a copy is still filling waits there until DONE (R205). -/
def State.fillsPage (s : State) (a : Access) : Bool :=
  let l := lpaOf a.pa
  match s.placeOf l with
  | .dram _ _ _ => s.cores.any fun p => !bit (s.cb p.1 0x0020) 1 && p.2.skim.any fun x => x.2 == l / 2 ^ 16 * 2 ^ 16
  | _ => false

/-- An access waits at its home: for a page that is being filled, under a hold, or behind an access that waits and that it must follow
(R187, R205, R217). An element of a command or copy of the tile waits under earlier holds, and behind those accesses that waited before
its own hold was taken (R218, R219). -/
def State.mustWait (s : State) (h : Nat) (a : Access) (behind : List Access) : Bool :=
  let k := s.core h
  let held (l : List Hold) : Bool := match s.placeOf (lpaOf a.pa) with
    | .sram _ off => l.any fun y => !y.after.contains (accKey a)
        && (s.spans a).any fun x => k.holdStops y a.op.writes { lo := x.lo + off - lpaOf a.pa, hi := x.hi + off - lpaOf a.pa }
    | _ => false
  (!a.fwd && s.fillsPage a)
    || match k.ownHold a with
      | none => held k.holds || behind.any fun y => (y.src.core == a.src.core && y.src.modn == a.src.modn)
          || wordAt (lpaOf y.pa) == wordAt (lpaOf a.pa) || s.clash y a
      | some id => held (k.holds.takeWhile fun y => y.id != id)
          || (k.holds.any fun y => y.id == id && behind.any fun b => y.after.contains (accKey b) && s.clash b a)

/-! Copy channels (R240 to R243): what an answered element does. -/

/-- Replace a channel. -/
def State.putChan (s : State) (c ch : Nat) (x : Chan) : State := s.modCore c fun k => { k with chans := mput ch x k.chans }
/-- A fault of element `n` stops a copy, unless one at or below it has (R243). -/
def Chan.stopAt (x : Chan) (n : Nat) (cz : Cause) (va : Word) : Chan :=
  match x.stopping with
  | none => { x with stopping := some (n, cz, va) }
  | some (m, _, _) => if n < m then { x with stopping := some (n, cz, va) } else x
/-- Record a late access trap, unless one is pending (R222). -/
def Ctx.lateTrap (c : Ctx) (cz : Cause) (va : Word) : Ctx :=
  if c.pend.late.isNone then { c with pend := { c.pend with late := some (cz, va) } } else c

/-- Release a command's hold (R218). What it stopped enters the home order from then on. -/
def State.releaseHold (s : State) (c id : Nat) : State :=
  s.modCore c fun k => { k with holds := k.holds.filter fun h => h.id != id }

/-- A copy ends when it has moved every element, or has stopped and everything sent has come back (R243): its holds go, ctr.CP falls, and
a fault becomes a late trap. -/
def State.endChan (s : State) (c ch : Nat) : State :=
  match mget (s.core c).chans ch with
  | none => s
  | some x =>
    let over_ := match x.stopping with
      | none => x.wp == x.total
      | some (n, _, _) => x.answered == x.reads && x.owed == 0 && decide (n ≤ x.writes)
    if x.finished || !over_ then s
    else
      let s := s.putChan c ch { x with finished := true, fault := x.stopping.isSome, buf := [], done := [] }
      let s := s.releaseHold c x.id
      let w : Who := { core := c, slot := x.slot }
      if s.gen w ≠ x.gen then s
      else s.modCtx w fun k =>
        let k := k.done x.id
        match x.stopping with
        | some (_, cz, va) => k.lateTrap cz va
        | none => k

/-- The read hold of a copy goes once every source read it makes has been answered (R218). -/
def State.endReads (s : State) (c : Nat) (x : Chan) : State :=
  if x.answered = x.reads ∧ (x.reads = x.total ∨ x.stopping.isSome) then
    s.modCore c fun k => { k with holds := k.holds.map fun (h : Hold) => if h.id = x.id then { h with reads := [] } else h }
  else s

/-- The write pointer past the elements performed at every target (R242). -/
def Chan.settleWp (x : Chan) : Chan :=
  let all (n : Nat) : Bool := (List.range x.targets.length).all fun t => x.done.contains (n, t)
  let k := ((List.range x.done.length).takeWhile fun i => all (x.wp + i)).length
  { x with wp := x.wp + k, done := x.done.filter fun d => x.wp + k ≤ d.1 }

/-- A destination element has been answered (R242): the write pointer and this tile's released bytes move on. -/
def State.copyWritten (s : State) (c ch : Nat) (r : Reply) : State :=
  match mget (s.core c).chans ch, r.acc.dst with
  | some x, .copyWr _ n =>
    if x.finished ∨ BitVec.ofNat 64 x.id ≠ r.acc.cmp then s
    else
      let x := { x with owed := x.owed - 1 }
      let x := match r.status with
        | .ok => ({ x with done := x.done ++ [(n / 16, n % 16)] } : Chan).settleWp
        | .failed cz => x.stopAt (n / 16) cz r.acc.va
      ((s.putChan c ch x).endReads c x).endChan c ch
  | _, _ => s

/-! Answers (R188, R222). -/

/-- Write what a load's answer brings into its register, and into the partner's for a pair (R375). -/
def State.landValue (s : State) (w : Who) (o : OutOp) (v : Word) : State :=
  match o.dst with
  | none => s
  | some r =>
    let s := s.setRegOf w r v
    if o.both then (match (s.ctx? w).bind Ctx.partner with
      | some p => s.setRegOf { core := w.core, slot := p } r v
      | none => s)
    else s
/-- Set a register present again, unchanged, in whichever context is in the slot. -/
def State.unoweOf (s : State) (w : Who) (r : Nat) : State :=
  match s.ctx? w with
  | none => s
  | some c => s.unowe w c r
/-- A failed load sets its destination present again, unchanged (R222). -/
def State.landNothing (s : State) (w : Who) (o : OutOp) : State :=
  match o.dst with
  | none => s
  | some r =>
    let s := s.unoweOf w r
    if o.both then (match (s.ctx? w).bind Ctx.partner with
      | some p => s.unoweOf { core := w.core, slot := p } r
      | none => s)
    else s
/-- Fill the value of a pair's read in its load-value queue (R374). -/
def fillLvq (id : Nat) (v : Word) : LvqEntry → LvqEntry
  | .read i va z none => if i = id then .read i va z (some v) else .read i va z none
  | e => e

/-- An answer reaches the context that issued the access: discarded by generation (R35), else the value is written, the counter
lowered, and a failure recorded (R33, R222). DESIGN CHOICE (log 66): a counted write that failed leaves the counts of R220 as a performed one
does. -/
def State.applyReply (s : State) (r : Reply) : State :=
  match s.srcWho r.acc.src with
  | none => s
  | some w =>
    match (s.ctx? w).bind fun c => c.op? r.acc.id with
    | none => s
    | some o =>
      let v := match r.status with
        | .ok => r.value
        | .failed _ => ((o.dst.bind fun d => (s.ctx? w).map fun c => s.reg w c d)).getD 0
      let s := match r.status with
        | .ok => s.landValue w o r.value
        | .failed _ => s.landNothing w o
      s.modCtx w fun c =>
        let c := c.done r.acc.id
        let c := if (c.cond.map (·.id)) = some r.acc.id then { c with cond := none } else c
        let c := if r.acc.op.countedWrite then { c with performedW := c.performedW + 1 } else c
        let c := { c with lvq := c.lvq.map (fillLvq r.acc.id v) }
        match r.status with
        | .ok => c
        | .failed cz => c.lateTrap cz r.acc.va

/-- The instruction-cache lines of a core after one more word has come (R12, R15): at most 8,192 words; which one makes room is free. -/
def Core.cache (k : Core) (l : ILine) (n : Nat) : Core :=
  let old := k.icache.filter fun x => !(x.va == l.va && x.part == l.part && x.asid == l.asid && x.phys == l.phys)
  let old := if old.length < Config.icacheWords then old else old.eraseIdx (Config.icacheVictim n % Config.icacheWords)
  { k with icache := old ++ [l] }

/-- A fetched word, or what its fetch failed with, reaches the context that waits for it (R54, R255); the word goes into the cache. -/
def State.fetchEnds (s : State) (r : Reply) : State :=
  match s.srcWho r.acc.src with
  | none => s
  | some w =>
    match s.ctx? w with
    | none => s
    | some c =>
      if c.fetching ≠ some r.acc.id then s
      else match r.status with
        | .failed cz => s.setCtx w { c with fetching := none, fetched := c.fetched ++ [(r.acc.va, .trap cz r.acc.va)] }
        | .ok =>
          let v := r.value.truncate 32
          let l : ILine := { part := c.part, asid := c.asid, va := r.acc.va, phys := c.mode == .f, word := v }
          let n := s.picks
          let s := ({ s with picks := n + 1 } : State).setCtx w
            { c with fetching := none, fetched := c.fetched ++ [(r.acc.va, .word v)] }
          s.modCore w.core fun k => k.cache l n

/-- A word that an instruction reads at issue, or what its read failed with, reaches the context (R222, R350): its counter falls, and the word is
kept while the instruction still waits for it. -/
def State.gatherEnds (s : State) (n : Nat) (r : Reply) : State :=
  match s.srcWho r.acc.src with
  | none => s
  | some w => s.modCtx w fun c =>
    let c := c.done r.acc.id
    match c.gather with
    | none => c
    | some g =>
      if !g.asked.contains r.acc.id then c
      else
        let g : Gather := { g with asked := g.asked.filter fun i => i != r.acc.id }
        { c with gather := some (match r.status with
          | .ok => { g with got := mput n r.value g.got }
          | .failed cz => { g with bad := g.bad.orElse fun _ => some (cz, r.acc.va, r.acc.pa) }) }

/-- A write of a save has been answered (R349): the issuer's counter falls, and a failure is noted in the save. -/
def State.saveAnswered (s : State) (id : Nat) (r : Reply) : State :=
  let s := match s.srcWho r.acc.src with
    | none => s
    | some w => s.modCtx w fun c => { (c.done r.acc.id) with performedW := c.performedW + 1 }
  { s with pending := s.pending.map fun (e : Ev) => match e with
      | .saveAreaWrite q =>
        if q.id = id then
          .saveAreaWrite { q with asked := q.asked.filter fun i => i != r.acc.id, bad := q.bad || r.status != .ok }
        else e
      | _ => e }

/-- A byte of the image that a launcher copies has come, or its read has failed (R266). -/
def State.imageEnds (s : State) (rt : Nat) (r : Reply) : State :=
  let v : Option Word := match r.status with
    | .ok => some r.value
    | .failed _ => none
  let f (g : Gang) : Gang := if g.asked = some r.acc.id then { g with asked := none, got := some v } else g
  s.modRet rt fun k => { k with gang := k.gang.map f }

/-- An answer leaves for a host, or for another module over the link core by which its request came: lost where that link is down (R440). -/
def State.answerOut (s : State) (a : Access) (st : Status) (v : Word) : State :=
  let up := match a.dst with
    | .via c => bit (s.cb c 0x0A00) 63
    | _ => true
  if up then { s with hostLog := s.hostLog ++ [(a.id, st, v)] } else s

/-- Send the answer of an access: at once to the home's own core, over the reply channel otherwise; to the outside for a host's or
another module's request (R188, R440). -/
def State.answer (s : State) (home : Nat) (a : Access) (v : Word) (st : Status) : State :=
  let r : Reply := { acc := a, value := v, status := st }
  if a.src.modn ≠ s.modn then s.answerOut a st v
  else match a.dst with
    | .nobody => s.answerOut a st v
    | .copyRd ch _ => s.push (.copySourceReply a.src.core ch r)
    | .copyWr ch _ => if a.src.core = home then s.copyWritten home ch r else s.push (.copyWritePerformed a.src.core ch r)
    | .fetch => s.push (.loadReply r)
    | .image _ => s.push (.loadReply r)
    | .gather n => if a.src.core = home then s.gatherEnds n r else s.push (.loadReply r)
    | .save id => if a.src.core = home then s.saveAnswered id r else s.push (.performedNotice r)
    | .commit _ => s.push (.performedNotice r)
    | .combine rt e => s.push (.combineReply rt e r)
    | .setKey _ => s.push (.loadReply r)
    | _ =>
      if a.src.core = home then s.applyReply r
      else if a.op.isLoad then s.push (.loadReply r) else s.push (.performedNotice r)

/-- What follows an attempt of a conditional access that failed (R225): the requester re-sends it, asks for a place on the wait
list at attempt 9, and goes on asking where the pool was full. -/
def State.attemptFailed (s : State) (a : Access) : State :=
  if a.src.modn ≠ s.modn then s.answerOut a (.failed .none) 0
  else if a.attempt < 7 then s.push (.attemptResend { a with attempt := a.attempt + 1, granted := false })
  else if a.attempt = 7 then s.push (.waitListPark { a with attempt := 8, granted := false })
  else s.push (.parkRequestRetry a)

/-- Work for the message context of a home. -/
def State.job (s : State) (c : Nat) (j : Job) : State := s.modCore c fun k => { k with jobs := k.jobs ++ [j] }

/-- An access that the message context of its home performs (R188): a request of another core other than a load, or one that a skim copy
forwarded. -/
def State.byMessage (s : State) (home : Nat) (a : Access) : Bool :=
  a.fwd || ((a.src.modn != s.modn || a.src.core != home) && match a.op with
    | .load _ _ => false
    | .copyRead _ => false
    | .scale => false
    | .fetch => false
    | _ => true)

/-- The answer of an access that has been performed: at once, or by the message context in its turn. -/
def State.reply (s : State) (home : Nat) (a : Access) (msg : Bool) (v : Word) (st : Status) : State :=
  if msg then s.job home (.answer { acc := a, value := v, status := st }) else s.answer home a v st

/-- The register that the message context of a core would meet an uncorrectable entry in (R367): any of its 32. -/
def State.badMessage (s : State) (c : Nat) : Option Nat :=
  ((s.core c).file.find? fun p => decide (Config.sharedEntries ≤ p.1) && p.2.bad && p.2.soft.isNone).map (·.1)

/-- A message whose performing context meets an uncorrectable register entry (R360, R367): the entries are stripped, the error reported, the message is not
performed, and its sender takes UEREG late. -/
def State.spoilMessage (s : State) (home e : Nat) (a : Access) : State :=
  let w : Who := { core := home, slot := 63 }
  let s := s.modCore home fun k => { k with file := stripEntries Config.sharedEntries 32 k.file }
  let s := s.report (coreRet home) 5 { kind := 2, who := some w } (coreTile home) (BitVec.ofNat 64 e) 3 (causeCode .uereg) 0
  s.reply home a true 0 (.failed .uereg)

/-- The home has taken an access into its order in this cc (R207). -/
def State.entered (s : State) (home : Nat) : State := s.modCore home fun k => { k with took := true }

/-- A write of a context that has been killed, which never performs (R366); the operand of a member stays in its combined sum (R196). -/
def State.unmade (s : State) (a : Access) : Bool :=
  a.op.writes && a.src.modn == s.modn && decide (a.src.slot < 63)
    && s.gen { core := a.src.core, slot := a.src.slot } != a.src.gen
    && !(match a.dst with
      | .combine _ _ => true
      | _ => false)

/-- Perform an access that enters the home's order now, and answer it; `msg` where the message context does. A conditional access whose
condition does not hold takes no place (R206), but at attempt 9 enters the wait list if there is room (R225). -/
def State.performBy (s : State) (home : Nat) (a : Access) (msg : Bool) : State :=
  if s.unmade a then s else match (if msg then s.badMessage home else none) with
  | some e => s.spoilMessage home e a
  | none =>
    let r := s.performAt a
    match r.2 with
    | .ok v none => (r.1.entered home).reply home a msg v .ok
    | .ok v (some st) =>
      let s := (r.1.entered home).push (.stampQuery { reply := { acc := a, value := v, status := .ok }, stamp := st })
      if msg then s.job home .served else s
    | .fail c va => (r.1.entered home).reply home { a with va := va } msg 0 (.failed c)
    | .unmet =>
      let s := r.1
      if 8 ≤ a.attempt ∧ (s.core home).waits.length < Config.waitPool then
        let s := s.modCore home fun k => { k with waits := k.waits ++ [{ a with granted := true }] }
        if msg then s.job home .served else s
      else if msg then s.job home (.again a)
      else s.attemptFailed a
    | .sent => if msg then (r.1.entered home).job home .served else r.1.entered home

/-- Perform an access that has reached its home and answer it. -/
def State.performNow (s : State) (home : Nat) (a : Access) : State := s.performBy home a (s.byMessage home a)

/-- An access as it is forwarded, if it is. -/
def State.forwarded (s : State) (a : Access) : Option Access :=
  (s.movedTo (lpaOf a.pa)).map fun l => { a with pa := s.paOf l, fwd := true, granted := false }

/-! Accesses that hardware of the module makes for itself: they perform at the word's home, or at its copy, in one step. -/

/-- Read a word; none where it is not to be trusted (R192). -/
def State.unitRead (s : State) (l : Nat) (b : Blame) : State × Option Word :=
  let a := s.nowAt l
  let ck := s.checkWord (s.placeOf a) a b
  if ck.2 then (ck.1, none) else (ck.1, some (BitVec.ofNat 64 (memRead ck.1.mem a 8)))

/-- Read `n` words from an address up; none where one is not to be trusted. -/
def State.unitReadAll (s : State) (l : Nat) (b : Blame) : Nat → State × Option (List Word)
  | 0 => (s, some [])
  | n + 1 =>
    let x := s.unitRead l b
    match x.2 with
    | none => (x.1, none)
    | some v =>
      let y := x.1.unitReadAll (l + 8) b n
      (y.1, y.2.map (v :: ·))

/-- An access is forwarded, waits on the scoreboard, or performs. -/
def State.meet (s : State) (h : Nat) (a : Access) : State :=
  match s.forwarded a with
  | some b => (s.entered h).job h (.forward b)
  | none =>
    if s.mustWait h a (s.core h).blocked then s.modCore h fun k => { k with blocked := k.blocked ++ [a] }
    else s.performNow h a

/-- The home takes no access now: it has taken one in this cc, serves a wait list, or others wait to enter before (R207). -/
def State.homeBusy (s : State) (h : Nat) : Bool :=
  let k := s.core h
  k.took || !k.servings.isEmpty || !k.ready.isEmpty

/-- Bytes of a tile that its core reads directly at issue must wait: under a write hold, or behind a write that has met the scoreboard or
waits to (R76, R217). -/
def State.bytesWait (s : State) (c lo hi : Nat) : Bool :=
  let k := s.core c
  k.holds.any (fun h => k.holdStops h false { lo := lo, hi := hi })
    || (k.blocked ++ k.ready).any fun a => a.op.writes && (s.spans a).any fun x => x.meets { lo := tileAddr c lo, hi := tileAddr c hi }

/-- An access arrives at its home, or is made directly there (R207). -/
def State.arrive (s : State) (a : Access) : State :=
  let h := s.homeCore (s.placeOf (lpaOf a.pa))
  if s.homeBusy h then s.modCore h fun k => { k with ready := k.ready ++ [a] } else s.meet h a

/-! What a home does next (R207, R226). -/

/-- The number in the list of blocked accesses of the first that nothing holds any more. -/
def State.freed (s : State) (h : Nat) : Option Nat :=
  let l := (s.core h).blocked
  (List.range l.length).find? fun i => match l[i]? with
    | some a => !s.mustWait h a (l.take i)
    | none => false

/-- A wait-list entry whose condition holds, and which no hold stops. -/
def State.servable (s : State) (h : Nat) (a : Access) : Bool :=
  (s.core h).waits.contains a && !s.mustWait h a (s.core h).blocked && (s.performAt a).2 != .unmet

/-- A word whose list holds an entry that was passed over under a hold and could now perform. -/
def State.unserved (s : State) (h : Nat) : Option Nat :=
  (((s.core h).waits.find? fun a => !((s.core h).servings.any fun v => v.word == waitWord a) && s.servable h a)).map waitWord

/-- Perform the first entry of a walk that can; answers the entries of the walk left, none where no entry could. -/
def State.serveFirst (h : Nat) : List Access → State → State × Option (List Access)
  | [], s => (s, none)
  | a :: r, s =>
    if s.servable h a then
      let s := s.modCore h fun k => { k with waits := k.waits.filter fun b => !(b.id == a.id && b.src == a.src) }
      (s.performBy h a true, some r)
    else State.serveFirst h r s

/-- One cc of the serving of a wait list (R226): the next entry of the walk whose condition holds, then of another walk while one performed
something; at the end the next list is served. -/
def State.serveStep (s : State) (h : Nat) : State :=
  match (s.core h).servings with
  | [] => s
  | v :: rest =>
    let go (x : State × Option (List Access)) (last : State → State) : State :=
      match x.2 with
      | some l => x.1.modCore h fun k => { k with servings := k.servings.map fun (y : Serving) =>
          if y.word = v.word then { y with left := l, any_ := true, due := false } else y }
      | none => last x.1
    go (State.serveFirst h v.left s) fun s =>
      let drop (s : State) : State := s.modCore h fun k => { k with servings := rest }
      if v.any_ then go (State.serveFirst h ((s.core h).waits.filter fun a => waitWord a == v.word) s) drop else drop s

/-- The home's next work, in this cc: true where it has some. A list is served before anything else. -/
def State.homeWorks (s : State) (h : Nat) : Bool :=
  let k := s.core h
  match k.servings with
  | _ :: _ => false
  | [] => (s.unserved h).isSome || (!k.took && (!k.ready.isEmpty || (s.freed h).isSome))

/-- The home does it: begins a serving, or takes in the next access that waits to enter its order (R207). -/
def State.homeTakes (s : State) (h : Nat) : State :=
  match s.unserved h with
  | some wa => s.serveSoon h wa
  | none =>
    match (s.core h).ready with
    | a :: r => (s.modCore h fun k => { k with ready := r }).meet h a
    | [] => match s.freed h with
      | none => s
      | some i =>
        let l := (s.core h).blocked
        match l[i]? with
        | none => s
        | some a => (s.modCore h fun k => { k with blocked := l.eraseIdx i }).performNow h a

/-- The message context's turn (R188, R251): the first of its work is done. -/
def State.doJob (s : State) (c : Nat) : State :=
  match (s.core c).jobs with
  | [] => s
  | j :: r =>
    let s := s.modCore c fun k => { k with jobs := r }
    match j with
    | .answer x => s.answer c x.acc x.value x.status
    | .again a => s.attemptFailed a
    | .forward a => s.push a.event
    | .served => s

end Sys2Proof.Machine
end

