-- ==== Sys2Proof/Machine/Translate.lean ====
section
/-! DEFINITION. Translation (R198 to R203): the translation buffer, the walk, permissions; the checks made at the requester (R185,
R406); and fetching instruction words (R54, R232). -/
namespace Sys2Proof.Machine

/-- A virtual address is canonical: bits [63:55] equal bit 54 (R198). -/
def canonical (va : Word) : Bool := va == sextN 55 va.toNat
/-- The 55 significant bits of a virtual address. -/
def vaBits (va : Word) : Nat := va.toNat % 2 ^ 55

/-- Answer of translation: a physical address, a fault, or a miss. -/
inductive Xlate
  | ok (pa : Nat)
  | fault (c : Cause) (tval : Word)
  | miss
  deriving DecidableEq, Repr, Inhabited

/-- A buffer entry covers a page of a space (R202, R331). -/
def TlbEntry.covers (e : TlbEntry) (part asid : Nat) (va : Word) : Bool :=
  e.part == part && (e.g || e.asid == asid) && e.page == vaBits va / 2 ^ e.size

/-- Permissions (R201). -/
def TlbEntry.permits (e : TlbEntry) (m : Mode) (k : AccKind) : Bool :=
  (m != .u || e.us) &&
    match k with
    | .read => e.rd
    | .write => e.w
    | .atomic => e.rd && e.w
    | .execute => e.x && !(m == .s && e.us)

/-- What an entry gives for an address: permission, then a populated place (R185, R201). -/
def State.useEntry (s : State) (c : Ctx) (va : Word) (k : AccKind) (e : TlbEntry) : Xlate :=
  if !e.permits c.mode k then .fault .pgprot va
  else
    let pa := e.pa + vaBits va % 2 ^ e.size
    if s.placeOf (lpaOf pa) = .hole then .fault .pgprot va else .ok pa

/-- What the end of a walk gives the access that missed, where no entry was installed (R202, R353). -/
def State.walkEnded (s : State) (c : Ctx) (va : Word) (k : AccKind) : Xlate :=
  match c.walkFault, c.walkHit with
  | some (v, cz, t), _ => if v = va then .fault cz t else .miss
  | none, some (v, e) => if v = va then s.useEntry c va k e else .miss
  | none, none => .miss

/-- Translate an address of a context for a kind of access (R198 to R201). -/
def State.xlate (s : State) (w : Who) (c : Ctx) (va : Word) (k : AccKind) : Xlate :=
  if c.mode == .f then
    (if bits va 63 48 = 0 then
      (if s.placeOf va.toNat = .hole then .fault .pgprot va else .ok (s.paOf va.toNat))
     else .fault .pgprot va)
  else if !canonical va then .fault .pgprot va
  else match (s.core w.core).tlb.find? fun e => e.covers c.part c.asid va && !e.parity with
    | some e => s.useEntry c va k e
    | none => s.walkEnded c va k

/-- Why a walk has no leaf: a table's page is being filled by a skim copy and the walk waits (R205), or a fault, which carries the PA of an untrusted
entry as its tval and else the VA (R192, R200, R331). -/
inductive WalkStop
  | wait
  | fault (c : Cause) (pa : Option Nat)
  deriving DecidableEq, Repr, Inhabited

/-- A walk's end. -/
abbrev WalkEnd := Except WalkStop TlbEntry

/-- The read of an entry of a table (R199): a plain load in mode S, of the walk's partition (R324). -/
def State.walkAccess (s : State) (k : Walk) (pa : Nat) : Access :=
  { id := 0, src := { modn := s.modn, core := k.core, slot := k.slot, gen := k.gen }, tag := { part := k.part, mode := .s }
    op := .load 3 false, va := k.va, pa := pa, data := 0, cmp := 0, dst := .nobody, attempt := 0 }

/-- Read one 8-byte entry of a table at its home, or at its copy (R199, R205, R324, R331). An error found is charged to the context whose access missed
(R358). -/
def State.walkRead (s : State) (k : Walk) (pa : Nat) : State × Except WalkStop Word :=
  let a := s.walkAccess k pa
  let b := (s.forwarded a).getD a
  let l := lpaOf b.pa
  let p := s.placeOf l
  if !s.isLocalPa pa || !p.isDram then (s, .error (.fault .pgprot none))
  else if !s.placeLive p then (s, .error (.fault .darktile none))
  else if !b.fwd && s.fillsPage b then (s, .error .wait)
  else
    let s := s.noteDram p l
    if !s.admits p a.tag .read l then (s.logRefusal (blockOf p) a.tag .read l a.src, .error (.fault .acctbl none))
    else
      let ck := s.checkWord p (wordAt l) (s.blame a.src k.mode)
      if ck.2 then (ck.1, .error (.fault (ueCause p) (some b.pa)))
      else (ck.1, .ok (BitVec.ofNat 64 (memRead ck.1.mem l 8)))

/-- Reserved bits of an entry are zero (R199). -/
def entryReserved (e : Word) : Bool := bits e 55 48 == 0 && bits e 15 8 == 0 && !bit e 2

/-- Levels of a walk (R199): bits of the index, size of a leaf. -/
def walkLevels : List (Nat × Nat × Nat) := [(54, 42, 42), (41, 29, 29), (28, 16, 16)]

/-- The levels from a table on (R199, R200). DESIGN CHOICE (log 19): an entry with V = 0 gives PGNP, a reserved bit set in it or not. -/
def State.walkGo (k : Walk) : List (Nat × Nat × Nat) → Nat → State → State × WalkEnd
  | [], _, s => (s, .error (.fault .pgprot none))
  | (hi, lo, size) :: rest, table, s =>
    let r := s.walkRead k (table + 8 * bits k.va hi lo)
    match r.2 with
    | .error x => (r.1, .error x)
    | .ok e =>
      let s := r.1
      if !bit e 0 then (s, .error (.fault .pgnp none))
      else if !entryReserved e then (s, .error (.fault .pgprot none))
      else if bit e 1 then
        let base := bits e 47 16 * 2 ^ 16
        let pa := bits e 63 56 * 2 ^ 48 + base
        if base % 2 ^ size ≠ 0 ∨ s.placeOf base = .hole then (s, .error (.fault .pgprot none))
        else (s, .ok { part := k.part, asid := k.asid, page := vaBits k.va / 2 ^ size, size := size, pa := pa,
                       g := bit e 7, us := bit e 6, x := bit e 5, w := bit e 4, rd := bit e 3 })
      else if bits e 63 56 ≠ 0 ∨ rest.isEmpty then (s, .error (.fault .pgprot none))
      else State.walkGo k rest (s.paOf (bits e 47 16 * 2 ^ 16)) s

/-- A whole walk: the ASID table's entry, then up to three levels (R199). -/
def State.walk (s : State) (k : Walk) : State × WalkEnd :=
  let r := s.walkRead k (bits (s.rcb (coreRet k.core) 0x0100) 55 15 * 2 ^ 15 + 8 * k.asid)
  match r.2 with
  | .error x => (r.1, .error x)
  | .ok e =>
    if !bit e 0 then (r.1, .error (.fault .pgnp none))
    else if bits e 63 56 ≠ 0 ∨ bits e 15 1 ≠ 0 then (r.1, .error (.fault .pgprot none))
    else State.walkGo k walkLevels (bits e 55 16 * 2 ^ 16) r.1

/-- Put an entry into a buffer of 512; which entry makes room is free (R202). -/
def installTlb (l : List TlbEntry) (e : TlbEntry) (n : Nat) : List TlbEntry :=
  let l := if l.length < Config.tlbEntries then l else l.eraseIdx (Config.tlbVictim n % Config.tlbEntries)
  l ++ [e]

/-- The contexts that wait for a walk, with the addresses that missed (R202). -/
def Walk.waiters (k : Walk) : List (Nat × BitVec 16 × Word) := (k.slot, k.gen, k.va) :: k.others

/-- The contexts whose accesses missed go on, with what the walk found for them. -/
def State.endWalk (s : State) (k : Walk) (f : Word → Option (Word × Cause × Word)) (h : Word → Option (Word × TlbEntry)) : State :=
  (Walk.waiters k).foldl (fun s x =>
    let w : Who := { core := k.core, slot := x.1 }
    if s.gen w = x.2.1 then s.modCtx w fun c => { c with walking := false, walkFault := f x.2.2, walkHit := h x.2.2 } else s) s

/-- Put a walk's entry into the buffer of its core. -/
def State.install (s : State) (core : Nat) (e : TlbEntry) : State :=
  let n := s.picks
  ({ s with picks := n + 1 } : State).modCore core fun x => { x with tlb := installTlb x.tlb e n }

/-- A walk's end: the entry is installed, or serves its own accesses alone after a TLBI, or the fault waits for the accesses that missed;
the stalls end (R202, R353). -/
def State.walkEnd (s : State) (k : Walk) : State :=
  let r := s.walk k
  match r.2 with
  | .ok e =>
    if k.install then (r.1.install k.core e).endWalk k (fun _ => none) fun _ => none
    else r.1.endWalk k (fun _ => none) fun va => some (va, e)
  | .error (.fault c pa) => r.1.endWalk k (fun va => some (va, c, (pa.map (BitVec.ofNat 64)).getD va)) fun _ => none
  | .error .wait => s.push (.walkComplete k)

/-- Every request that has not been answered: under way, at a home, at a confluence node, or outside (R188). One on a wait list has been
answered in so far as it waits for others (R225). -/
def State.unanswered (s : State) : List Access :=
  s.pending.filterMap (fun e => match e.access? with
      | some a => some a
      | none => match e with
        | .loadReply r => some r.acc
        | .performedNotice r => some r.acc
        | .copySourceReply _ _ r => some r.acc
        | .copyWritePerformed _ _ r => some r.acc
        | .stampQuery q => some q.reply.acc
        | .stampSatisfied q => some q.reply.acc
        | .attemptResend a => some a
        | _ => none)
    ++ (s.cores.map fun p => p.2.blocked ++ p.2.ready ++ p.2.jobs.filterMap fun j => match j with
        | .answer r => some r.acc
        | .again a => some a
        | .forward a => some a
        | .served => none).flatten
    ++ s.outbox ++ (s.rets.map fun p => (p.2.combine.map fun k => k.members).flatten).flatten

/-- An access of a core, issued under a translation that TLBI removed, is not answered yet (R203). -/
def State.underRemoved (s : State) (core : Nat) (x : TlbEntry × Nat) : Bool :=
  s.unanswered.any fun a => a.src.modn == s.modn && a.src.core == core && decide (a.id < x.2)
    && match s.srcWho a.src with
      | some w => ((s.ctx? w).map fun c => x.1.covers a.tag.part c.asid a.va).getD false
      | none => false

/-- A page is not filled again while accesses issued under its removed translation are not answered (R203). -/
def State.refillHeld (s : State) (core part asid : Nat) (va : Word) : Bool :=
  (s.core core).removed.any fun x => x.1.covers part asid va && s.underRemoved core x

/-- A walk may end: it is one of the eight that its reticle's walkers serve, of `before` it that many under way (R202); no table of its is being filled; its page may be
filled again. -/
def State.walkReady (s : State) (before : List Ev) (k : Walk) : Bool :=
  decide ((before.filter fun e => match e with
    | .walkComplete j => coreRet j.core == coreRet k.core
    | _ => false).length < Config.walkers)
  && (match (s.walk k).2 with
    | .error .wait => false
    | _ => true)
  && !(k.install && s.refillHeld k.core k.part k.asid k.va)

/-- A parity error found in a fetch or a translation by a context is reported (R357, class 13). -/
def State.parityError (s : State) (w : Who) (c : Ctx) (va : Word) : State :=
  s.report (coreRet w.core) 13 { kind := c.srcKind, who := some w } (coreTile w.core) va 2 0 0

/-- Drop the entries of a translation whose parity is wrong, reporting them once (R357). -/
def State.dropParity (s : State) (w : Who) (c : Ctx) (va : Word) : State :=
  if (s.core w.core).tlb.any fun e => e.covers c.part c.asid va && e.parity then
    (s.modCore w.core fun k => { k with tlb := k.tlb.filter fun e => !(e.covers c.part c.asid va && e.parity) }).parityError w c va
  else s

/-- A walk of a core for the 64 KiB page of an address, which a further miss shares (R202). -/
def Walk.serves (k : Walk) (core : Nat) (c : Ctx) (va : Word) : Bool :=
  k.core == core && k.part == c.part && k.asid == c.asid && k.install && vaBits k.va / 2 ^ 16 == vaBits va / 2 ^ 16

/-- Ask for a walk, or share one that is under way (R202). -/
def State.askWalk (s : State) (w : Who) (c : Ctx) (va : Word) : State :=
  if s.pending.any fun e => match e with
      | .walkComplete k => Walk.serves k w.core c va
      | _ => false then
    { s with pending := s.pending.map fun (e : Ev) => match e with
        | .walkComplete k => if Walk.serves k w.core c va then .walkComplete { k with others := k.others ++ [(w.slot, s.gen w, va)] } else e
        | _ => e }
  else s.push (.walkComplete
    { core := w.core, slot := w.slot, gen := s.gen w, part := c.part, asid := c.asid, va := va, mode := c.mode, install := true })

/-- Begin a walk for a miss: the context stays Ready and stalls (R202). An entry dropped for its parity is walked for again (R357). -/
def State.missed (s : State) (w : Who) (c : Ctx) (va : Word) : State :=
  let g := s.gen w
  let s := s.dropParity w c va
  if s.gen w = g then (s.modCtx w fun c => { c with walking := true, walkFault := none, walkHit := none }).askWalk w c va else s

/-- Checks at the requester after translation (R185, R221 steps 3 and 4): the save ring of any tile, a dark place, a module without a route. -/
def State.reachTrap (s : State) (w : Who) (c : Ctx) (pa : Nat) : Option Cause :=
  let p := s.placeOf (lpaOf pa)
  if p.inRing && c.mode != .f then some .sramrange
  else if s.isLocalPa pa then (if s.placeLive p then none else some .darktile)
  else if s.reachable (coreRet w.core) (pa / 2 ^ 48) then none else some .linkdown

/-- Home core of a local PA. -/
def State.homeOf (s : State) (pa : Nat) : Nat := s.homeCore (s.placeOf (lpaOf pa))

/-- A request leaves over the link core of its route (R406), which keeps it until it is acknowledged (R405); where the primary is found down
the route has failed over (R407). -/
def State.crossLink (s : State) (a : Access) : State :=
  let r := coreRet a.src.core
  let off := 0x3000 + 8 * (a.pa / 2 ^ 48)
  let s : State := { s with outbox := s.outbox ++ [a] }
  match s.route r (a.pa / 2 ^ 48) with
  | none => s
  | some c =>
    let e := s.rcb r off
    let s := if !bit e 61 && coreId (bits e 53 48) (bits e 47 40) != c then s.setRcb r off (setBit e 61 true) else s
    s.modCore c fun k => { k with replay := k.replay ++ [a] }

/-! Fetching (R54, R58 step 1). -/

/-- What a fetch of one word answers: the word, a trap, or that it stalls: on a walk, on bytes under a hold, or until the home answers
(R255). -/
inductive Fetch
  | word (v : BitVec 32)
  | trap (c : Cause) (tval : Word)
  | miss
  deriving DecidableEq, Repr, Inhabited

/-- A line holds the word of an address in a context's space (R15). -/
def ILine.serves (l : ILine) (c : Ctx) (va : Word) : Bool :=
  l.va == va && l.part == c.part && l.asid == c.asid && l.phys == (c.mode == .f)

/-- A cached word of an address, in the context's space (R15). -/
def State.cached (s : State) (w : Who) (c : Ctx) (va : Word) : Option (BitVec 32) :=
  ((s.core w.core).icache.find? fun l => l.serves c va).map (·.word)

/-- What has come for an address of the instruction at PC. -/
def Ctx.fetchEnd (c : Ctx) (va : Word) : Option Fetch :=
  (c.fetched.find? fun x => x.1 == va).map fun x => match x.2 with
    | .word v => .word v
    | .trap cz t => .trap cz t

/-- The request for an instruction word (R188). -/
def State.fetchRequest (s : State) (w : Who) (c : Ctx) (va : Word) (pa : Nat) : Access :=
  { id := s.ids, src := s.src w, tag := c.tag, op := .fetch, va := va, pa := pa, data := 0, cmp := 0, dst := .fetch, attempt := 0 }

/-- Ask a word's home for it: the context stalls until it answers (R188, R255). -/
def State.askWord (s : State) (w : Who) (a : Access) : State :=
  let s := ({ s with ids := s.ids + 1 } : State).modCtx w fun c => { c with fetching := some a.id }
  if !s.isLocalPa a.pa then s.crossLink a
  else if s.homeOf a.pa = w.core then s.arrive a
  else s.push a.event

/-- The context cannot go on before what its next instruction waits for (R255). -/
def State.stallOn (s : State) (w : Who) (x : Stall) : State := s.modCtx w fun c => { c with stall := some x }

/-- Read an instruction word at its core's own memory: the access table, the scoreboard, then poison and check bits (R58 step 1, R192, R217, R324). -/
def State.fetchHere (s : State) (w : Who) (c : Ctx) (va : Word) (pa : Nat) : State × Fetch :=
  let l := lpaOf pa
  let p := s.placeOf l
  let s := s.noteDram p l
  if p.isCtl || !s.admits p c.tag .execute l then (s.logRefusal (blockOf p) c.tag .execute l (s.src w), .trap .acctbl va)
  else
    let held : Option Nat := match p with
      | .sram k off => if s.bytesWait k off (off + 4) then some off else none
      | _ => none
    match held with
    | some off => (s.stallOn w (.bytes w.core off (off + 4)), .miss)
    | none =>
      let ck := s.checkWord p (wordAt l) { kind := c.srcKind, who := some w }
      if ck.2 then (ck.1, .trap (ueCause p) va)
      else
        let v := BitVec.ofNat 32 (memRead ck.1.mem l 4)
        let n := ck.1.picks
        let line : ILine := { part := c.part, asid := c.asid, va := va, phys := c.mode == .f, word := v }
        (({ ck.1 with picks := n + 1 } : State).modCore w.core fun k => k.cache line n, .word v)

/-- Fetch a word from its home: directly at the core's own, else by request and reply (R188). -/
def State.fetchAt (s : State) (w : Who) (c : Ctx) (va : Word) (pa : Nat) : State × Fetch :=
  match s.reachTrap w c pa with
  | some cz => (s, .trap cz va)
  | none =>
    let a := s.fetchRequest w c va pa
    if s.isLocalPa pa && s.homeOf pa == w.core && (s.forwarded a).isNone && !s.fillsPage a then s.fetchHere w c va pa
    else (s.askWord w a, .miss)

/-- The cached line of an address has wrong parity. -/
def State.cachedBad (s : State) (w : Who) (c : Ctx) (va : Word) : Bool :=
  (s.core w.core).icache.any fun l => l.serves c va && l.parity
/-- Drop the cached lines of an address. -/
def State.dropLine (s : State) (w : Who) (c : Ctx) (va : Word) : State :=
  s.modCore w.core fun k => { k with icache := k.icache.filter fun l => !l.serves c va }

/-- Fetch a word (R15, R54, R232): one that has come for this instruction, a cached one while the cache still holds it, else from its home;
one whose line has wrong parity is dropped and fetched from its home again (R357). -/
def State.fetch (s : State) (w : Who) (c : Ctx) (va : Word) : State × Fetch :=
  match c.fetchEnd va with
  | some f => (s, f)
  | none =>
    if c.fetching.isSome then (s, .miss)
    else match s.xlate w c va .execute with
    | .fault cz t => (s, .trap cz t)
    | .miss => (s.missed w c va, .miss)
    | .ok pa =>
      match s.cached w c va with
      | some v =>
        if s.cachedBad w c va then
          let g := s.gen w
          let s := (s.dropLine w c va).parityError w c va
          if s.gen w = g then s.fetchAt w c va pa else (s, .miss)
        else
        let n := s.picks
        let s := { s with picks := n + 1 }
        if Config.icacheHolds n then (s, .word v) else (s.dropLine w c va).fetchAt w c va pa
      | none => s.fetchAt w c va pa

end Sys2Proof.Machine
end

