-- ==== Sys2Proof/Machine/Operands.lean ====
section
/-! DEFINITION. Operand forms and the checks every instruction makes before its effect, in the order of R58: register range, register
check bits, presence, then the waits and the pair rules that its group shares. -/
namespace Sys2Proof.Machine

/-- The instruction runs in the context that is to issue; where that slot holds no Ready context nobody issues (R251). -/
def onCtx (s : State) (k : Who → Ctx → Out) : Out :=
  match s.ctx? s.cur with
  | some c => if c.run = .ready then k s.cur c else .fault .noContext
  | none => .fault .noContext

/-- The instruction word under issue as a tval (R58). -/
def State.irWord (s : State) : Word := s.ir.setWidth 64

/-- A held instruction that its topcoat has not released is given up: it performs never, it is outstanding no more, its destinations are present
again, unchanged (R375). -/
def State.giveUp (s : State) (u : Who) (h : HeldInstr) : State :=
  match s.ctx? u with
  | none => s
  | some c =>
    let n := (c.out.filter fun o => h.ids.contains o.id && o.nth != 0).length
    (h.dsts.foldl (fun s r => s.unowe u c r) s).modCtx u fun c => { c with
      out := c.out.filter fun o => !h.ids.contains o.id
      performedW := c.performedW + n }

/-- The entry at the head of a queue is discarded (R375). -/
def State.dropHead (s : State) (u : Who) : State :=
  match ((s.ctx? u).map Ctx.lvq).getD [] with
  | [] => s
  | e :: rest =>
    let s := s.modCtx u fun c => { c with lvq := rest }
    match e with
    | .held h => s.giveUp u h
    | .read _ _ _ _ => s

/-- Every entry of a queue is discarded. -/
def State.dropHeld (s : State) (u : Who) : State :=
  (((s.ctx? u).map Ctx.lvq).getD []).foldl (fun s _ => s.dropHead u) s

/-- A trap found by a topcoat is its pair's, kept until both members stand at one instruction (R377); the first one stays. -/
def State.keepTrap (s : State) (u : Who) (tval : Word) (cz : Cause) : State :=
  s.modCtx u fun c => { c with heldTrap :=
    if c.diverged then c.heldTrap else some { epc := c.pc, tval := tval, kind := .sync, cause := cz } }

/-- A topcoat passes an instruction that its undercoat has taken, without its effect. -/
def State.passTop (s : State) (u : Who) : State :=
  match (s.ctx? u).bind Ctx.partner with
  | none => s
  | some p =>
    let t : Who := { core := u.core, slot := p }
    if ((s.ctx? t).map (·.retired)).getD 0 < ((s.ctx? u).map (·.retired)).getD 0 then s.finish t 1 8 else s

/-- The members of a pair differ at an instruction (R375, R376): reported as class 10, the head of the queue discarded, and RDNMIS the pair's
trap, unless it was killed. While one already waits a further difference is not reported (DESIGN CHOICE, log 62). -/
def mismatch (s : State) (u : Who) (pc : Word) (kind : Nat) : Out :=
  match s.ctx? u with
  | none => .next s
  | some c =>
    if c.diverged then .next ((s.dropHead u).passTop u)
    else
      let g := s.gen u
      let s := s.report (coreRet u.core) 10 { kind := 4, who := some u } (coreTile u.core) pc 2 (causeCode .rdnmis) kind
      if s.gen u ≠ g then .next s
      else if s.pairBehind u c then
        .next (((s.dropHead u).keepTrap u (setBits pc 1 0 kind) .rdnmis).passTop u)
      else .next (s.trap u c.pc (setBits pc 1 0 kind) .sync .rdnmis)

/-- Comparison kind of a topcoat that traps where its undercoat did not (R376): the word where the trap is the word's own. -/
def mismatchKind : Cause → Nat
  | .illop => 2
  | .rsvfld => 2
  | .regrange => 2
  | .priv => 2
  | _ => 0

/-- Take a synchronous trap at the current instruction (R7, R339). A topcoat that traps where its undercoat did not has diverged
(R375): the pair takes RDNMIS. -/
def trapNow (s : State) (w : Who) (c : Ctx) (cz : Cause) (tval : Word) : Out :=
  match c.role with
  | .top p => mismatch s { core := w.core, slot := p } c.pc (mismatchKind cz)
  | _ => .next (s.trap w c.pc tval .sync cz)

/-- Registers as numbers. -/
def regNums (rs : List Reg) : List Nat := rs.map (·.toNat)

/-- A register entry whose check bits are wrong is found when it is read (R367). One that has been corrected, the instruction issues with at its next
turn; with one that is lost the context takes UEREG, unless it was killed. `r` is the register number, `e` the entry of the core's file; a
topcoat's UEREG is its pair's. -/
def badEntry (s : State) (w : Who) (c : Ctx) (r e : Nat) : Out :=
  let f := s.foundBad w c e
  let v : Word := BitVec.ofNat 64 (r + e * 2 ^ 8)
  if !f.2 ∨ f.1.gen w ≠ s.gen w then .next f.1
  else match c.role with
    | .top p => .next (f.1.keepTrap { core := w.core, slot := p } v .uereg)
    | _ => trapNow f.1 w c .uereg v

/-- REGRANGE on every register field (R56), the check bits of the registers read (R367), then the park on an absent register (R34): `srcs` are
read, `d` is only written. -/
def needRegs (s : State) (w : Who) (c : Ctx) (srcs : List Reg) (d : Option Reg) (k : Out) : Out :=
  let rs := regNums (srcs ++ d.toList)
  if rs.any (fun r => decide (c.lim ≤ r)) then trapNow s w c .regrange s.irWord
  else match (regNums srcs).find? fun r => (s.regEntry w c r).bad with
    | some r => badEntry s w c r (c.entry r)
    | none =>
      if rs.all (fun r => (s.regEntry w c r).pres == .present) then k
      else .next (s.park w (.regs rs))

/-- A scalar instruction (R127): its registers, then one register written and the instruction finished. -/
def scalar (s : State) (srcs : List Reg) (d : Reg) (spacing : Nat) (f : (Reg → Word) → Word) : Out :=
  onCtx s fun w c =>
    needRegs s w c srcs (some d)
      (.next ((s.setReg w c d.toNat (f fun r => s.reg w c r.toNat)).finish w 1 spacing))

/-- d, a, b form. -/
def scalar3 (s : State) (d a b : Reg) (f : Word → Word → Word) : Out := scalar s [a, b] d 8 fun x => f (x a) (x b)
/-- d, a form. -/
def scalar2 (s : State) (d a : Reg) (f : Word → Word) : Out := scalar s [a] d 8 fun x => f (x a)

/-- A scalar instruction that writes one predicate (R141, R143). -/
def scalarPred (s : State) (srcs : List Reg) (p : Nat) (f : Ctx → (Reg → Word) → Bool) : Out :=
  onCtx s fun w c =>
    needRegs s w c srcs none
      (.next ((s.setCtx w (c.setPred p (f c fun r => s.reg w c r.toNat))).finish w 1 8))

/-! Waits shared by groups of instructions. -/

/-- While a conditional access is outstanding, or held, the context issues no access and no command (R213, R225, R374). -/
def afterCond (s : State) (w : Who) (c : Ctx) (k : Out) : Out :=
  if c.cond.isSome || c.lvq.any LvqEntry.conditional then .next (s.park w .cond) else k
/-- An instruction that would raise a counter at 15 parks (R214). -/
def roomIn (s : State) (w : Who) (c : Ctx) (cls : Cls) (k : Out) : Out :=
  if 15 ≤ c.count cls then .next (s.park w (.counter cls)) else k
/-- The condition of WAITC with limits (R230). -/
def Ctx.within (c : Ctx) (mx cp st ld : Nat) : Bool :=
  decide (c.count .mx ≤ mx) && decide (c.count .cp ≤ cp) && decide (c.count .st ≤ st) && decide (c.count .ld ≤ ld)
/-- Park as WAITC with limits does, until it holds (R36). -/
def waitLimits (s : State) (w : Who) (c : Ctx) (mx cp st ld : Nat) (k : Out) : Out :=
  if c.within mx cp st ld then k else .next (s.park w (.waitc mx cp st ld))
/-- Park as a release does: ctr.LD and ctr.ST zero (R212). -/
def asRelease (s : State) (w : Who) (c : Ctx) (k : Out) : Out := waitLimits s w c 15 15 0 0 k

/-! Redundant pairs (R373 to R378). -/

/-- After the undercoat has performed an instruction for both, the topcoat has passed it too, with the same result, groups and class. -/
def State.followTop (s : State) (w : Who) (p : Nat) (before : Nat) (d : Option Reg) : State :=
  match s.ctx? w with
  | none => s
  | some c =>
    if c.retired = before then s
    else
      let t : Who := { core := w.core, slot := p }
      let s := s.modCtx t fun x => { (x.finished (s.now w.core) 1 8) with spacing := c.spacing, grp := c.grp, ecls := c.ecls }
      match d, s.ctx? t with
      | some r, some x => s.setEntry t x r.toNat (s.regEntry w c r.toNat)
      | _, _ => s

/-- An instruction in a completing park has completed: its PC moves past it, and a context frozen or stopped for a save stays so (R36, R355). By a pair it
has then completed for both. -/
def State.completed (s : State) (w : Who) : State :=
  match s.ctx? w with
  | none => s
  | some c =>
    let s := (s.modCtx w fun c => { c with
      run := if c.run = .frozen ∨ c.run = .saving then c.run else .ready
      busy := none }).finish w 1 8
    match c.partner with
    | none => s
    | some p => s.followTop w p c.retired none

/-- The park an instruction in progress stands in, frozen or not. -/
def Ctx.inPark (c : Ctx) : Option Park :=
  match c.run with
  | .parked p => some p
  | .frozen => c.busy
  | .saving => c.busy
  | _ => none

/-- Change that park. -/
def Ctx.setPark (c : Ctx) (p : Park) : Ctx := 
  if c.run = .frozen ∨ c.run = .saving then { c with busy := some p } else { c with run := .parked p }

/-- An outward instruction that parks its context until it is over, or that first reads words from elsewhere. DEDUCED (log 62): as
its undercoat cannot go on before it, a pair compares it when both members have come to it, and it then performs once for both. A topcoat that
a trap of the pair has frozen stays where it is (R377). -/
def lockstep (s : State) (w : Who) (c : Ctx) (srcs : List Reg) (d : Option Reg) (k : State → Who → Ctx → Out) : Out :=
  match c.role with
  | .single => k s w c
  | .top p => mismatch s { core := w.core, slot := p } c.pc 2
  | .under p =>
    match s.runningTop w c with
    | none => k s w c
    | some (t, x) =>
      if s.pairBehind w c then .next (s.park w .partner)
      else
        let f := s.fetch t x x.pc
        if f.2 = .miss then .next (f.1.park w .partner)
        else if f.2 ≠ .word s.ir then mismatch f.1 w x.pc 2
        else if (regNums srcs).any fun r => (s.regEntry t x r).pres != .present then .next (s.park w .partner)
        else if (regNums srcs).any fun r => s.reg t x r != s.reg w c r then mismatch s w x.pc 0
        else match k s w c with
          | .next s' =>
            .next (if ((s'.ctx? t).map (·.run)) = some .frozen then s' else s'.followTop w p c.retired d)
          | .fault f => .fault f
          | .refused f => .refused f

/-- An undercoat has met an instruction that is to be held (R374): its word and operand values enter the queue, its counters rise as `c'`, the
context that it would have led to, has them, `ids` being the first free number then; it owes its results, and the undercoat goes on. -/
def State.holdBack (s : State) (w : Who) (c : Ctx) (ops : List Word) (ds : List Reg) (ids : Nat) (c' : Ctx) : State :=
  let new := c'.out.filter fun o => decide (s.ids ≤ o.id)
  let h : HeldInstr :=
    { word := s.ir, ops := ops, ids := new.map (·.id), dsts := regNums ds, from_ := s.ids, issued := c.issuedW, cond := c'.cond.isSome }
  let s := (regNums ds).foldl (fun s r => s.owe w c r) { s with ids := ids }
  s.modCtx w fun k => { k.unheld with
    pc := c'.pc, repst := c'.repst, spacing := c'.spacing, yielded := 0, retired := c'.retired, issuedW := c'.issuedW
    out := k.out ++ new, pend := { k.pend with step := c'.pend.step }, lvq := k.lvq ++ [.held h] }

/-- The home in the context's own core takes no further access in this cc: what it is sent waits there. -/
def State.shutHome (s : State) (w : Who) : State := s.modCore w.core fun k => { k with took := true }

/-- The context of a slot as an outcome leaves it. -/
def ctxAfter (w : Who) (c : Ctx) (o : Out) : Ctx :=
  match o with
  | .next s => (s.ctx? w).getD c
  | _ => c

/-- What an undercoat comes to at an outward instruction, `o` being what it would come to alone and `waiting` the same where its access waits at
its home, so that it is outstanding: an instruction that would complete is held; one that would trap does so once no entry is left before it
(R374, R376). -/
def enqueue (s : State) (w : Who) (c : Ctx) (ops : List Word) (ds : List Reg) (o waiting : Out) : Out :=
  match o with
  | .next s' =>
    (match s'.ctx? w with
      | none => .next s'
      | some c' =>
        if s'.gen w ≠ s.gen w ∨ c'.run ≠ .ready ∨ c'.stall.isSome ∨ c'.walking then .next s'
        else if c'.retired = c.retired + 1 then .next (s.holdBack w c ops ds s'.ids (ctxAfter w c' waiting))
        else if c.lvq.isEmpty then .next s'
        else .next (s.park w .partner))
  | .fault f => .fault f
  | .refused f => .refused f

/-- A topcoat tries again at its next turn. -/
def State.again (s : State) (w : Who) : State := s.modCtx w fun c => { c with spacing := s.now w.core + 8 }

/-- The registers of a released instruction that its topcoat has been given at once are given to the undercoat too (R375). -/
def State.shareResults (s : State) (u : Who) (x : Ctx) (t : Who) (c : Ctx) (ds : List Nat) : State :=
  ds.foldl (fun s r => if (s.regEntry t c r).pres = .owed then s else s.setEntry u x r (s.regEntry t c r)) s

/-- The head of the queue is released by its topcoat, and performs once (R375): for its undercoat, as it stood at the instruction, with the
operands of the topcoat, which hold the same values. What it leaves outstanding takes the place of what was counted at its issue, and comes
back to both. A fault found only now is late, as of an access on its way; while it has to wait the topcoat comes back to it. The pair has
been found not to move for it (log 62). -/
def released (s : State) (u t : Who) (x c : Ctx) (h : HeldInstr) (rest : List LvqEntry) (k : State → Who → Ctx → Out) : Out :=
  let view : Ctx := { x with
    kind := .resident, base := c.base, pc := c.pc, repst := c.repst, pw := c.pw, retired := c.retired, run := .ready, busy := none
    stall := none, gather := none, heldTrap := none, out := x.out.filter (fun o => decide (o.id < h.from_)), issuedW := h.issued }
  match k (s.setCtx u view) u view with
  | .fault f => .fault f
  | .refused f => .refused f
  | .next s' =>
    match s'.ctx? u with
    | none => .next s'
    | some v =>
      if s'.gen u ≠ s.gen u then .next s'
      else if v.retired ≠ c.retired then
        let later := x.out.filter fun o => decide (h.from_ ≤ o.id) && !h.ids.contains o.id
        let mine := v.out.map fun (o : OutOp) => if s.ids ≤ o.id then { o with both := true } else o
        let y : Ctx := { v with
          kind := x.kind, base := x.base, pc := x.pc, repst := x.repst, pw := x.pw, retired := x.retired, run := x.run, busy := x.busy
          stall := x.stall, gather := x.gather, heldTrap := x.heldTrap, out := mine ++ later, issuedW := x.issuedW, lvq := rest
          spacing := x.spacing, yielded := x.yielded, fetched := x.fetched, fetching := x.fetching
          walking := x.walking, walkFault := x.walkFault, walkHit := x.walkHit, pend := { v.pend with step := x.pend.step } }
        let s' := (s'.setCtx u y).shareResults u y t c h.dsts
        .next (s'.modCtx t fun c => { c.unheld with
          pc := v.pc, repst := v.repst, retired := v.retired, spacing := v.spacing, yielded := 0, grp := v.grp, ecls := v.ecls })
      else match v.heldTrap with
        | some f =>
          let s' := (s'.setCtx u { x with lvq := rest }).giveUp u h
          .next ((s'.modCtx u fun c => c.lateTrap f.cause f.tval).finish t 1 8)
        | none =>
          .next ((s'.setCtx u { x with walking := v.walking, walkFault := v.walkFault, walkHit := v.walkHit }).again t)

/-- An outward instruction other than a read (R374, R375): by a pair it is held when its undercoat comes to it, and performs when its topcoat
comes to it with the same word and operand values. -/
def outwardTo (s : State) (w : Who) (c : Ctx) (srcs ds : List Reg) (k : State → Who → Ctx → Out) : Out :=
  let ops := (regNums srcs).map fun r => s.reg w c r
  match c.role with
  | .single => k s w c
  | .under _ =>
    if (s.runningTop w c).isNone then k s w c
    else if Config.lvqEntries ≤ c.lvq.length then .next (s.park w .lvqFull)
    else enqueue s w c ops ds (k s w c) (k (s.shutHome w) w c)
  | .top p =>
    let u : Who := { core := w.core, slot := p }
    match s.ctx? u with
    | none => .next s
    | some x =>
      match x.lvq with
      | [] => .next (if x.diverged then s.finish w 1 8 else s.park w .lvqEmpty)
      | .read _ _ _ _ :: _ => mismatch s u c.pc 2
      | .held h :: rest =>
        if h.word ≠ s.ir then mismatch s u c.pc 2
        else if h.ops ≠ ops then mismatch s u c.pc 0
        else released s u w x c h rest k

/-- An outward instruction with at most one result. -/
def outward (s : State) (w : Who) (c : Ctx) (srcs : List Reg) (d : Option Reg) (k : State → Who → Ctx → Out) : Out :=
  outwardTo s w c srcs d.toList k

/-- The two members of a pair hold the same registers x1 up to the limit, pw and repst (R321). -/
def State.pairAgrees (s : State) (w t : Who) (c x : Ctx) : Bool :=
  (List.range c.lim).all (fun r => s.reg w c r == s.reg t x r) && c.pw == x.pw && c.repst == x.repst

/-- An instruction that a pair executes when both members have reached it with the queue empty, and that compares their states
(R321, R378). Outside a pair it just executes. -/
def together (s : State) (w : Who) (c : Ctx) (k : Out) : Out :=
  match c.role with
  | .single => k
  | .top p => mismatch s { core := w.core, slot := p } c.pc 2
  | .under _ =>
    match s.runningTop w c with
    | none => k
    | some (t, x) =>
      if s.pairBehind w c then .next (s.park w .partner)
      else if x.pc ≠ c.pc then mismatch s w c.pc 2
      else if s.pairAgrees w t c x then k
      else mismatch s w c.pc 3

/-- A topcoat's read (R375): it takes the value at the head of the queue when that entry is of its address, as `same` tells, and size. -/
def takeRead (s : State) (w : Who) (c : Ctx) (p : Nat) (d : Reg) (same : Word → Bool) (size : Nat) : Out :=
  let u : Who := { core := w.core, slot := p }
  match s.ctx? u with
  | none => .next s
  | some x =>
    match x.lvq with
    | [] => .next (if x.diverged then s.finish w 1 8 else s.park w .lvqEmpty)
    | .held _ :: _ => mismatch s u c.pc 2
    | .read _ va size' v :: rest =>
      if !same va || size' != size then mismatch s u c.pc 1
      else match v with
        | none => .next (s.park w .lvqEmpty)
        | some v =>
          let s := s.modCtx u fun c => { c with lvq := rest }
          .next ((s.setReg w c d.toNat v).finish w 1 8)

/-- A topcoat's read of an address. -/
def topRead (s : State) (w : Who) (c : Ctx) (p : Nat) (d : Reg) (va : Word) (size : Nat) : Out :=
  takeRead s w c p d (fun v => v == va) size

/-- A read by a context that performs it (R374): alone, or as undercoat, which enqueues its address and size, and its value where it is known at
once. `go` issues the access, which has the number given. -/
def performRead (s : State) (w : Who) (c : Ctx) (va : Word) (size : Nat) (v : Option Word) (go : State → Nat → State) : Out :=
  let id := s.ids
  let s := { s with ids := id + 1 }
  match s.runningTop w c with
  | some _ =>
    if Config.lvqEntries ≤ c.lvq.length then .next (s.park w .lvqFull)
    else .next ((go (s.modCtx w fun c => { c with lvq := c.lvq ++ [.read id va size v] }) id).finish w 1 8)
  | none => .next ((go s id).finish w 1 8)

/-- A read by an undercoat that would trap does so once no entry is left before it: one of those may be what it depends on (R374). -/
def afterQueue (s : State) (w : Who) (c : Ctx) (k : Out) : Out :=
  if (s.runningTop w c).isSome && !c.lvq.isEmpty then .next (s.park w .partner) else k

/-! Translation and reach as a continuation. -/

/-- Translate an address for a kind of access; a fault traps at the instruction, a miss stalls it (R202, R221 step 2). -/
def xlated (s : State) (w : Who) (c : Ctx) (va : Word) (k : AccKind) (go : Nat → Out) : Out :=
  match s.xlate w c va k with
  | .fault cz t => trapNow s w c cz t
  | .miss => .next (s.missed w c va)
  | .ok pa => go pa

/-- Steps 2 to 4 of R221. -/
def reached (s : State) (w : Who) (c : Ctx) (va : Word) (k : AccKind) (go : Nat → Out) : Out :=
  xlated s w c va k fun pa =>
    match s.reachTrap w c pa with
    | some cz => trapNow s w c cz va
    | none => go pa

end Sys2Proof.Machine
end

