-- ==== Sys2Proof/Machine/Flags.lean ====
section
/-! DEFINITION. Flag computations (R37, R128): when a raised flag traps, when it is set sticky. -/
namespace Sys2Proof.Machine

/-- Flags of OV, NX, NV and DZ that trapen enables, in the order of pw[21:16] (R128, R337). -/
def Ctx.enabled (c : Ctx) : Flags := BitVec.ofNat 6 (bits c.trapen 19 16)
/-- A floating-point instruction raising flags traps FPEXC when one of them is enabled (R128). -/
def fpTraps (c : Ctx) (f : Flags) : Bool := f &&& c.enabled != 0
/-- A divide or remainder raising DZ traps DIVZERO when DZ is enabled; integer OV never traps (R128). -/
def divTraps (c : Ctx) (f : Flags) : Bool := f &&& fDZ != 0 && bit c.trapen 19

/-- A floating-point instruction that writes a register: value and flags of its operands; FPEXC or the write (R128, R149). -/
def floatReg (s : State) (srcs : List Reg) (d : Reg) (spacing : Nat) (f : (Reg → Word) → Nat × Flags) : Out :=
  onCtx s fun w c =>
    needRegs s w c srcs (some d)
      (let r := f fun r => s.reg w c r.toNat
       if fpTraps c r.2 then trapNow s w c .fpexc (r.2.setWidth 64)
       else .next (((s.setCtx w (c.raise r.2)).setReg w c d.toNat (BitVec.ofNat 64 r.1)).finish w 1 spacing))

/-- A floating-point instruction that writes a predicate (R151). -/
def floatPred (s : State) (srcs : List Reg) (p : Nat) (f : (Reg → Word) → Bool × Flags) : Out :=
  onCtx s fun w c =>
    needRegs s w c srcs none
      (let r := f fun r => s.reg w c r.toNat
       if fpTraps c r.2 then trapNow s w c .fpexc (r.2.setWidth 64)
       else .next ((s.setCtx w ((c.raise r.2).setPred p r.1)).finish w 1 8))

/-- An integer instruction that raises flags: OV is always sticky, DZ traps DIVZERO when enabled (R128). -/
def intFlags (s : State) (srcs : List Reg) (d : Reg) (spacing : Nat) (f : (Reg → Word) → Word × Flags) : Out :=
  onCtx s fun w c =>
    needRegs s w c srcs (some d)
      (let r := f fun r => s.reg w c r.toNat
       if divTraps c r.2 then trapNow s w c .divzero (r.2.setWidth 64)
       else .next (((s.setCtx w (c.raise r.2)).setReg w c d.toNat r.1).finish w 1 spacing))

/-- A value clamped to the signed range of 64 bits, with OV where it was (R133). -/
def clampS (v : Int) : Word × Flags :=
  if v < -(2 ^ 63 : Nat) then (BitVec.ofInt 64 (-(2 ^ 63 : Nat)), fOV)
  else if v ≥ (2 ^ 63 : Nat) then (BitVec.ofInt 64 ((2 ^ 63 : Nat) - 1), fOV)
  else (BitVec.ofInt 64 v, 0)

end Sys2Proof.Machine
end

