-- ==== Sys2Proof/Machine/Scalar.lean ====
section
/-! DEFINITION. Meanings of the scalar integer, predicate, control-register and floating-point instructions (spec/06). -/
namespace Sys2Proof.Machine

/-! Register-register integer operations (R133). -/

/-- ADD (R133). -/
def execAdd (d a b : Reg) (s : State) : Out := scalar3 s d a b fun x y => x + y
/-- SUB (R133). -/
def execSub (d a b : Reg) (s : State) : Out := scalar3 s d a b fun x y => x - y
/-- AND (R133). -/
def execAnd (d a b : Reg) (s : State) : Out := scalar3 s d a b fun x y => x &&& y
/-- OR (R133). -/
def execOr (d a b : Reg) (s : State) : Out := scalar3 s d a b fun x y => x ||| y
/-- XOR (R133). -/
def execXor (d a b : Reg) (s : State) : Out := scalar3 s d a b fun x y => x ^^^ y
/-- ANDN (R133). -/
def execAndn (d a b : Reg) (s : State) : Out := scalar3 s d a b fun x y => x &&& ~~~y
/-- The shift amount of a register operand: its low six bits (R133). -/
def shAmt (y : Word) : Nat := bits y 5 0
/-- SHL (R133). -/
def execShl (d a b : Reg) (s : State) : Out := scalar3 s d a b fun x y => x <<< shAmt y
/-- SHR (R133). -/
def execShr (d a b : Reg) (s : State) : Out := scalar3 s d a b fun x y => x >>> shAmt y
/-- SAR (R133). -/
def execSar (d a b : Reg) (s : State) : Out := scalar3 s d a b fun x y => x.sshiftRight (shAmt y)
/-- ROL (R133). -/
def execRol (d a b : Reg) (s : State) : Out := scalar3 s d a b fun x y => x.rotateLeft (shAmt y)
/-- MIN (R133). -/
def execMin (d a b : Reg) (s : State) : Out := scalar3 s d a b fun x y => if x.slt y then x else y
/-- MAX (R133). -/
def execMax (d a b : Reg) (s : State) : Out := scalar3 s d a b fun x y => if x.slt y then y else x
/-- MINN (R133). -/
def execMinn (d a b : Reg) (s : State) : Out := scalar3 s d a b fun x y => if x.ult y then x else y
/-- MAXN (R133). -/
def execMaxn (d a b : Reg) (s : State) : Out := scalar3 s d a b fun x y => if x.ult y then y else x
/-- ADDS (R133). -/
def execAdds (d a b : Reg) (s : State) : Out := intFlags s [a, b] d 8 fun x => clampS ((x a).toInt + (x b).toInt)
/-- SUBS (R133). -/
def execSubs (d a b : Reg) (s : State) : Out := intFlags s [a, b] d 8 fun x => clampS ((x a).toInt - (x b).toInt)

/-! Multiply and divide (R134). -/

/-- MUL (R134). -/
def execMul (d a b : Reg) (s : State) : Out := scalar3 s d a b fun x y => x * y
/-- MULH (R134). -/
def execMulh (d a b : Reg) (s : State) : Out :=
  scalar3 s d a b fun x y => BitVec.ofInt 64 (x.toInt * y.toInt / (2 ^ 64 : Nat))
/-- MULHN (R134). -/
def execMulhn (d a b : Reg) (s : State) : Out := scalar3 s d a b fun x y => BitVec.ofNat 64 (x.toNat * y.toNat / 2 ^ 64)

/-- The most negative 64-bit value. -/
def intMinW : Word := BitVec.ofNat 64 (2 ^ 63)
/-- All ones. -/
def onesW : Word := BitVec.allOnes 64

/-- DIV's value and flags (R134). -/
def divS (x y : Word) : Word × Flags :=
  if y = 0 then (onesW, fDZ)
  else if x = intMinW ∧ y = onesW then (intMinW, fOV)
  else (BitVec.ofInt 64 (x.toInt.tdiv y.toInt), 0)
/-- DIVN's value and flags (R134). -/
def divU (x y : Word) : Word × Flags := if y = 0 then (onesW, fDZ) else (BitVec.ofNat 64 (x.toNat / y.toNat), 0)
/-- REM's value and flags (R134). -/
def remS (x y : Word) : Word × Flags :=
  if y = 0 then (x, fDZ)
  else if x = intMinW ∧ y = onesW then (0, 0)
  else (BitVec.ofInt 64 (x.toInt.tmod y.toInt), 0)
/-- REMN's value and flags (R134). -/
def remU (x y : Word) : Word × Flags := if y = 0 then (x, fDZ) else (BitVec.ofNat 64 (x.toNat % y.toNat), 0)

/-- DIV (R134, R129). -/
def execDiv (d a b : Reg) (s : State) : Out := intFlags s [a, b] d 24 fun x => divS (x a) (x b)
/-- DIVN (R134, R129). -/
def execDivn (d a b : Reg) (s : State) : Out := intFlags s [a, b] d 24 fun x => divU (x a) (x b)
/-- REM (R134, R129). -/
def execRem (d a b : Reg) (s : State) : Out := intFlags s [a, b] d 24 fun x => remS (x a) (x b)
/-- REMN (R134, R129). -/
def execRemn (d a b : Reg) (s : State) : Out := intFlags s [a, b] d 24 fun x => remU (x a) (x b)

/-! Bits and bit fields (R135, R136). -/

/-- Number of leading zero bits of a 64-bit number. -/
def leadingZeros (n : Nat) : Nat := 64 - bitLen (n % 2 ^ 64)
/-- Number of trailing zero bits of the low `k` bits. -/
def trailingZeros : Nat → Nat → Nat
  | 0, _ => 0
  | k + 1, n => if n % 2 = 1 then 0 else 1 + trailingZeros k (n / 2)
/-- Number of one bits among the low `k` bits. -/
def onesIn : Nat → Nat → Nat
  | 0, _ => 0
  | k + 1, n => n % 2 + onesIn k (n / 2)
/-- The low `k` bits in reverse order. -/
def reverseBits : Nat → Nat → Nat
  | 0, _ => 0
  | k + 1, n => n % 2 * 2 ^ k + reverseBits k (n / 2)
/-- The low `k` bytes in reverse order. -/
def reverseBytes : Nat → Nat → Nat
  | 0, _ => 0
  | k + 1, n => n % 256 * 256 ^ k + reverseBytes k (n / 256)

/-- CLZ (R135). -/
def execClz (d a : Reg) (s : State) : Out := scalar2 s d a fun x => BitVec.ofNat 64 (leadingZeros x.toNat)
/-- CTZ (R135). -/
def execCtz (d a : Reg) (s : State) : Out := scalar2 s d a fun x => BitVec.ofNat 64 (trailingZeros 64 x.toNat)
/-- POPC (R135). -/
def execPopc (d a : Reg) (s : State) : Out := scalar2 s d a fun x => BitVec.ofNat 64 (onesIn 64 x.toNat)
/-- BREV (R135). -/
def execBrev (d a : Reg) (s : State) : Out := scalar2 s d a fun x => BitVec.ofNat 64 (reverseBits 64 x.toNat)
/-- BSWAP (R135). -/
def execBswap (d a : Reg) (s : State) : Out := scalar2 s d a fun x => BitVec.ofNat 64 (reverseBytes 8 x.toNat)

/-- Position of a bit field (R136). -/
def bfPos (y : Word) : Nat := bits y 5 0
/-- Length of a bit field, clipped to the register (R136). -/
def bfLen (y : Word) : Nat := Nat.min (bits y 13 8 + 1) (64 - bfPos y)
/-- The field's bits. -/
def bfGet (x y : Word) : Nat := x.toNat / 2 ^ bfPos y % 2 ^ bfLen y

/-- BFX (R136). -/
def execBfx (d a b : Reg) (s : State) : Out := scalar3 s d a b fun x y => sextN (bfLen y) (bfGet x y)
/-- BFXN (R136). -/
def execBfxn (d a b : Reg) (s : State) : Out := scalar3 s d a b fun x y => BitVec.ofNat 64 (bfGet x y)
/-- BFI (R136): reads x[d] as well. -/
def execBfi (d a b : Reg) (s : State) : Out :=
  scalar s [a, b, d] d 8 fun x => setBits (x d) (bfPos (x b) + bfLen (x b) - 1) (bfPos (x b)) (x a).toNat

/-! Immediate forms (R137, R138, R139, R140). -/

/-- ADDI (R137). -/
def execAddi (d a : Reg) (imm : BitVec 12) (s : State) : Out := scalar2 s d a fun x => x + sext64 imm
/-- ANDI (R137). -/
def execAndi (d a : Reg) (imm : BitVec 12) (s : State) : Out := scalar2 s d a fun x => x &&& sext64 imm
/-- ORI (R137). -/
def execOri (d a : Reg) (imm : BitVec 12) (s : State) : Out := scalar2 s d a fun x => x ||| sext64 imm
/-- XORI (R137). -/
def execXori (d a : Reg) (imm : BitVec 12) (s : State) : Out := scalar2 s d a fun x => x ^^^ sext64 imm
/-- SHLI (R138). -/
def execShli (d a : Reg) (sh : BitVec 6) (s : State) : Out := scalar2 s d a fun x => x <<< sh.toNat
/-- SHRI (R138). -/
def execShri (d a : Reg) (sh : BitVec 6) (s : State) : Out := scalar2 s d a fun x => x >>> sh.toNat
/-- SARI (R138). -/
def execSari (d a : Reg) (sh : BitVec 6) (s : State) : Out := scalar2 s d a fun x => x.sshiftRight sh.toNat
/-- ROLI (R138). -/
def execRoli (d a : Reg) (sh : BitVec 6) (s : State) : Out := scalar2 s d a fun x => x.rotateLeft sh.toNat
/-- LUI (R139). -/
def execLui (d : Reg) (imm : BitVec 19) (s : State) : Out := scalar s [] d 8 fun _ => sext64 imm <<< 12
/-- ADDPC (R139): the PC is that of the ADDPC itself. -/
def execAddpc (d : Reg) (imm : BitVec 19) (s : State) : Out :=
  onCtx s fun w c => needRegs s w c [] (some d) (.next ((s.setReg w c d.toNat (c.pc + sext64 imm)).finish w 1 8))
/-- LDI (R140): one instruction of two words. -/
def execLdi (d : Reg) (imm : BitVec 48) (s : State) : Out :=
  onCtx s fun w c => needRegs s w c [] (some d) (.next ((s.setReg w c d.toNat (sext64 imm)).finish w 2 8))
/-- LDI.N (R140). -/
def execLdiN (d : Reg) (imm : BitVec 48) (s : State) : Out :=
  onCtx s fun w c => needRegs s w c [] (some d) (.next ((s.setReg w c d.toNat (zext64 imm)).finish w 2 8))

/-! Predicates (R141, R142, R143). -/

/-- The conditions of CMP and CMPI (R61, R141). -/
def intCond (c : BitVec 3) (x y : Word) : Bool :=
  match c.toNat with
  | 0 => x == y
  | 1 => x != y
  | 2 => x.slt y
  | 3 => !x.slt y
  | 4 => x.ult y
  | 5 => !x.ult y
  | 6 => x &&& y != 0
  | _ => x &&& y == 0

/-- CMP (R141). -/
def execCmp (c : BitVec 3) (p : BitVec 4) (a b : Reg) (s : State) : Out :=
  scalarPred s [a, b] p.toNat fun _ x => intCond c (x a) (x b)
/-- CMPI (R141). -/
def execCmpi (c : BitVec 3) (p : BitVec 4) (a : Reg) (imm : BitVec 12) (s : State) : Out :=
  scalarPred s [a] p.toNat fun _ x => intCond c (x a) (sext64 imm)
/-- SEL (R142). -/
def execSel (d a b : Reg) (sn : BitVec 1) (p : BitVec 4) (s : State) : Out :=
  onCtx s fun w c => needRegs s w c [a, b] (some d)
    (.next ((s.setReg w c d.toNat (if c.pred p.toNat == (sn == 0) then s.reg w c a.toNat else s.reg w c b.toNat)).finish w 1 8))
/-- The operations of PLOG (R143). -/
def plogOp (f : BitVec 5) (x y : Bool) : Bool :=
  match f.toNat with
  | 0 => x && y
  | 1 => x || y
  | 2 => x != y
  | 3 => x && !y
  | 4 => x || !y
  | 5 => !(x && y)
  | 6 => !(x || y)
  | _ => x == y
/-- PLOG (R143). -/
def execPlog (d a b : BitVec 4) (f : BitVec 5) (s : State) : Out :=
  scalarPred s [] d.toNat fun c _ => plogOp f (c.pred a.toNat) (c.pred b.toNat)

/-! Control registers (R38 to R41, R145, R146, R259, R296, R337). -/

/-- The value of a control register of a context (R145). -/
def State.ctlReg (s : State) (w : Who) (c : Ctx) (n : Nat) : Word :=
  match n with
  | 0x00 => c.pw.setWidth 64 ||| 1
  | 0x01 => c.prec.setWidth 64
  | 0x02 => c.fmta
  | 0x03 => c.fmtb
  | 0x04 => c.ecls.setWidth 64
  | 0x05 => BitVec.ofNat 64 (c.base * 2 ^ 16 + c.lim)
  | 0x06 => c.wdog
  | 0x07 => c.trapen
  | 0x08 => c.cause
  | 0x09 => c.epc
  | 0x0A => c.tval
  | 0x0B => c.repst
  | 0x0C => c.ctr
  | 0x0D => c.grp
  | 0x0E => s.slotid w c
  | 0x0F => s.tileid w
  | _ => c.thrc

/-- Writable bits of pw (R37). -/
def pwMask : Word := maskBits 21 16 ||| maskBits 15 1
/-- Writable bits of trapen, SSE in S and F only (R337). -/
def trapenMask (m : Mode) : Word := maskBits 21 16 ||| maskBits 11 8 ||| (if m == .u then 0 else 1)

/-- A context with a control register written field by field (R146). `m` is the mode of the writer. -/
def Ctx.writeCtl (c : Ctx) (m : Mode) (n : Nat) (v : Word) : Ctx :=
  let sup := m != .u
  match n with
  | 0x00 => { c with pw := BitVec.ofNat 32 (maskIn pwMask (c.pw.setWidth 64) v).toNat }
  | 0x01 => { c with prec := v.setWidth 8 }
  | 0x02 => { c with fmta := maskIn (maskBits 63 58 ||| maskBits 54 0) 0 v }
  | 0x03 => { c with fmtb := maskIn (maskBits 63 58 ||| maskBits 54 0) 0 v }
  | 0x04 => { c with ecls := v.setWidth 3 }
  | 0x06 => if sup then { c with wdog := maskIn (maskBits 63 48 ||| maskBits 39 0) 0 v } else c
  | 0x07 => { c with trapen := maskIn (trapenMask m) c.trapen v }
  | 0x08 => if sup then { c with cause := maskIn (maskBits 15 15 ||| maskBits 5 0) c.cause v } else c
  | 0x09 => if sup then { c with epc := maskIn (maskBits 63 2) 0 v } else c
  | 0x0A => if sup then { c with tval := v } else c
  | 0x0B => if sup then { c with repst := maskIn (maskBits 63 38 ||| maskBits 31 0) 0 v } else c
  | 0x10 => if sup then { c with thrc := maskIn (maskBits 39 0) 0 v } else c
  | _ => c

/-- An access that R38 marks "—" for the mode: cause, epc and tval in U. -/
def ctlHidden (m : Mode) (n : Nat) : Bool := m == .u && (n == 0x08 || n == 0x09 || n == 0x0A)

/-- CRD (R145). -/
def execCrd (d : Reg) (n : BitVec 8) (s : State) : Out :=
  onCtx s fun w c =>
    if ctlHidden c.mode n.toNat then trapNow s w c .priv s.irWord
    else needRegs s w c [] (some d) (.next ((s.setReg w c d.toNat (s.ctlReg w c n.toNat)).finish w 1 8))
/-- A control register that a context may not write: hidden from its mode, or the format shadows of a migrant in U (R38, R40). -/
def Ctx.cwrDenied (c : Ctx) (n : Nat) : Bool := ctlHidden c.mode n || (c.kind == .migrant && c.mode == .u && (n == 0x02 || n == 0x03))

/-- CWR (R146): a migrant in U may not write its format shadows (R40). The write follows the frame's advance, so that writing
repst decides what comes next. -/
def execCwr (a : Reg) (n : BitVec 8) (s : State) : Out :=
  onCtx s fun w c =>
    if c.cwrDenied n.toNat then
      trapNow s w c .priv s.irWord
    else needRegs s w c [a] none
      (.next ((s.finish w 1 8).modCtx w fun x => x.writeCtl c.mode n.toNat (s.reg w c a.toNat)))

/-! Floating point (R148 to R152). -/

/-- FP32 operand of a register (R97). -/
def f32Of (x : Word) : Nat := bits x 31 0
/-- FP32 operand as a value. -/
def v32 (x : Word) : FVal := unpack fp32 (f32Of x)

/-- FADD (R149). -/
def execFadd (d a b : Reg) (rm : BitVec 2) (s : State) : Out :=
  floatReg s [a, b] d 8 fun x => fAddV fp32 rm.toNat (v32 (x a)) (v32 (x b))
/-- FSUB (R149). -/
def execFsub (d a b : Reg) (rm : BitVec 2) (s : State) : Out :=
  floatReg s [a, b] d 8 fun x => fAddV fp32 rm.toNat (v32 (x a)) (v32 (x b)).negate
/-- FMUL (R149). -/
def execFmul (d a b : Reg) (rm : BitVec 2) (s : State) : Out :=
  floatReg s [a, b] d 8 fun x => fMulV fp32 rm.toNat (v32 (x a)) (v32 (x b))
/-- FFMA (R149): x[d] is the addend. -/
def execFfma (d a b : Reg) (rm : BitVec 2) (s : State) : Out :=
  floatReg s [a, b, d] d 8 fun x => fFmaV fp32 rm.toNat (v32 (x a)) (v32 (x b)) (v32 (x d))
/-- FMIN (R107, R149). -/
def execFmin (d a b : Reg) (s : State) : Out := floatReg s [a, b] d 8 fun x => fMinMax fp32 false (f32Of (x a)) (f32Of (x b))
/-- FMAX (R107, R149). -/
def execFmax (d a b : Reg) (s : State) : Out := floatReg s [a, b] d 8 fun x => fMinMax fp32 true (f32Of (x a)) (f32Of (x b))
/-- FSGN (R149). -/
def execFsgn (d a b : Reg) (s : State) : Out :=
  scalar3 s d a b fun x y => BitVec.ofNat 64 (bits y 31 31 * 2 ^ 31 + bits x 30 0)
/-- FABS (R149). -/
def execFabs (d a : Reg) (s : State) : Out := scalar2 s d a fun x => BitVec.ofNat 64 (bits x 30 0)
/-- FNEG (R149). -/
def execFneg (d a : Reg) (s : State) : Out :=
  scalar2 s d a fun x => BitVec.ofNat 64 ((1 - bits x 31 31) * 2 ^ 31 + bits x 30 0)
/-- FDIV (R149, R129). -/
def execFdiv (d a b : Reg) (rm : BitVec 2) (s : State) : Out :=
  floatReg s [a, b] d 16 fun x => fDivV fp32 rm.toNat (v32 (x a)) (v32 (x b))
/-- FSQRT (R96, R149). -/
def execFsqrt (d a : Reg) (rm : BitVec 2) (s : State) : Out := floatReg s [a] d 16 fun x => fSqrtV fp32 rm.toNat (v32 (x a))
/-- FRCP (R96, R149). -/
def execFrcp (d a : Reg) (rm : BitVec 2) (s : State) : Out := floatReg s [a] d 16 fun x => fRcpV fp32 rm.toNat (v32 (x a))
/-- FRSQ (R96, R149). -/
def execFrsq (d a : Reg) (rm : BitVec 2) (s : State) : Out := floatReg s [a] d 16 fun x => fRsqV fp32 rm.toNat (v32 (x a))
/-- FEXP2 (R96, R149). -/
def execFexp2 (d a : Reg) (rm : BitVec 2) (s : State) : Out := floatReg s [a] d 16 fun x => fExp2V fp32 rm.toNat (v32 (x a))
/-- FLOG2 (R96, R149). -/
def execFlog2 (d a : Reg) (rm : BitVec 2) (s : State) : Out := floatReg s [a] d 16 fun x => fLog2V fp32 rm.toNat (v32 (x a))
/-- FCLASS (R150). -/
def execFclass (d a : Reg) (s : State) : Out :=
  scalar2 s d a fun x => BitVec.ofNat 64 (2 ^ fClassBit fp32 (f32Of x))
/-- FCMP (R151). -/
def execFcmp (c : BitVec 3) (p : BitVec 4) (a b : Reg) (s : State) : Out :=
  floatPred s [a, b] p.toNat fun x => fCompare c.toNat (v32 (x a)) (v32 (x b))

/-- Bits of an integer type code of FCVT (R63). -/
def cvtWidth (t : Nat) : Nat := if t < 2 then 32 else 64
/-- An integer type code is signed. -/
def cvtSigned (t : Nat) : Bool := t == 0 || t == 2
/-- Format of a floating-point type code (R63). -/
def cvtFmt (t : Nat) : Fmt :=
  match t with
  | 4 => fp32 | 5 => fp16 | 6 => bf16 | 7 => e4m3 | _ => e5m2

/-- FCVT's result and flags (R152): `t` the type converted to, `f` the type converted from. -/
def cvt (t f rm : Nat) (x : Word) : Nat × Flags :=
  if f < 4 then intToF (cvtFmt t) rm (intOf (cvtSigned f) (cvtWidth f) x.toNat)
  else
    let src := x.toNat % 2 ^ (1 + (cvtFmt f).eb + (cvtFmt f).fb)
    if t < 4 then
      let r := fToInt (cvtFmt f) (cvtSigned t) (cvtWidth t) rm src
      (intBits 64 r.1, r.2)
    else fConvert (cvtFmt f) (cvtFmt t) rm src

/-- FCVT (R152). -/
def execFcvt (d a : Reg) (t f : BitVec 4) (rm : BitVec 2) (s : State) : Out :=
  floatReg s [a] d 8 fun x => cvt t.toNat f.toNat rm.toNat (x a)

end Sys2Proof.Machine
end

