-- ==== Sys2Proof/Machine/Memory.lean ====
section
/-! DEFINITION. Meanings of loads, stores, synchronising accesses, atomic operations and reductions (R221 to R229), over one
operation that checks an access, moves a migrant or sends the request (R188), and the sending of an access again (R225, R227). -/
namespace Sys2Proof

/-- The trap of a misaligned access (R221 step 1, R313). -/
def MemOp.alignCause : MemOp → Cause
  | .load _ _ => .align
  | .store _ => .align
  | .amo _ _ => .amoalign
  | .red _ => .amoalign
  | .qpush => .align
  | .qpop => .align
  | .drwait => .align
  | _ => .syncalign

end Sys2Proof

namespace Sys2Proof.Machine

/-- The counter an access raises (R206). -/
def clsOf (op : MemOp) : Cls := if op.isLoad then .ld else .st

/-- An integer fetch-and-add that a confluence node may combine (R195): one that leaves the cluster of a tile
core, to this module or to another. -/
def State.combines (s : State) (a : Access) : Bool :=
  (match a.op with
    | .amo 0 _ => true
    | .red 0 => true
    | _ => false)
    && isTile a.src.core
    && !(s.isLocalPa a.pa && coreRet (s.homeOf a.pa) == coreRet a.src.core && isTile (s.homeOf a.pa)
          && clusterOf (coreTile (s.homeOf a.pa)) == clusterOf (coreTile a.src.core))

/-- Two requests go to one home; to one module, where that is another one (R210). -/
def State.sameHome (s : State) (x y : Nat) : Bool :=
  if s.isLocalPa x then s.isLocalPa y && s.homeOf x == s.homeOf y else x / 2 ^ 48 == y / 2 ^ 48

/-- A combine entry holds a member of a core that goes to the home of a request, and its combined request has not arrived (R210). -/
def State.nodeHolds (s : State) (core pa : Nat) : Bool :=
  (s.reticle (coreRet core)).combine.any fun k =>
    k.members.any (fun m => m.src.core == core) && s.sameHome k.word pa
      && (!k.sent || s.pending.any fun e => (e.access?.map (·.dst)) == some (.combine (coreRet core) k.id))

/-- A request reaches its home, or leaves the module (R188). -/
def State.reach (s : State) (a : Access) : State := if s.isLocalPa a.pa then s.arrive a else s.crossLink a

/-- Send a request to its home (R188): to the confluence node of the cluster, out of the module once the node lets it pass (R210), directly, or
over the mesh. -/
def State.send (s : State) (a : Access) : State :=
  if s.combines a then s.push (.combineJoin (coreRet a.src.core) (clusterOf (coreTile a.src.core)) a)
  else if !s.isLocalPa a.pa then (if s.nodeHolds a.src.core a.pa then s.push a.event else s.crossLink a)
  else if s.homeOf a.pa = a.src.core then s.arrive a
  else s.push a.event

/-- An access that left the module has been answered. -/
def State.leftOutbox (s : State) (id : Nat) : State :=
  { s with
    outbox := s.outbox.filter fun a => a.id != id
    cores := s.cores.map fun (p : Nat × Core) =>
      (p.1, { p.2 with replay := p.2.replay.filter fun a => a.id != id, awaited := p.2.awaited.filter fun a => a.id != id }) }

/-- An answer that comes while the link its request crossed is down is lost, and the request's failure reported in its place (R440). -/
def State.arrived (s : State) (r : Reply) : Reply :=
  if s.cores.any fun p => p.2.awaited.any (fun a => a.id == r.acc.id) && !bit (s.cb p.1 0x0A00) 63 then
    { r with value := 0, status := .failed .linkdown }
  else r

/-- A basin in Lowland accepts no answer from another module (R392). -/
def State.inboundShut (s : State) (a : Access) : Bool :=
  !s.isLocalPa a.pa && (s.reticle (coreRet a.src.core)).low != .running && s.outbox.any fun b => b.id == a.id

/-- Home core of an access for the fences (R215): none outside the module and for a host window. -/
def State.fenceHome (s : State) (pa : Nat) : Option Nat :=
  if !s.isLocalPa pa then none
  else match s.placeOf (lpaOf pa) with
    | .host _ => none
    | p => some (s.homeCore p)

/-- The host port an access's address lies in the window of. -/
def State.hostPort? (s : State) (pa : Nat) : Option Nat :=
  if !s.isLocalPa pa then none
  else match s.placeOf (lpaOf pa) with
    | .host p => some p
    | _ => none

/-- A store of a context to a host window is to be flushed by its next FENCE.S (R215). -/
def State.noteFlush (s : State) (w : Who) (op : MemOp) (pa : Nat) : State :=
  match s.hostPort? pa with
  | none => s
  | some p => s.modCtx w fun c => { c with
      flush := if op.writes && !(c.flush.any fun f => f == (p, none)) then c.flush ++ [(p, none)] else c.flush }

/-- Count an access in ctr and among the writes issued (R206, R220), and clear the presence of its destination (R33). -/
def State.count (s : State) (w : Who) (op : MemOp) (id pa : Nat) (d : Option Reg) : State :=
  let nth := if op.countedWrite then ((s.ctx? w).map (·.issuedW)).getD 0 + 1 else 0
  let o : OutOp := { id := id, cls := clsOf op, dst := d.map (·.toNat), home := s.fenceHome pa, both := false, nth := nth }
  let s := match d, s.ctx? w with
    | some r, some c => s.owe w c r.toNat
    | _, _ => s
  (s.modCtx w fun c => { (c.add o) with issuedW := if op.countedWrite then c.issuedW + 1 else c.issuedW }).noteFlush w op pa

/-- The request of an access of a context, whose issue has made the checks of R221: those of the core's own memory among them (R329). -/
def State.request (s : State) (w : Who) (c : Ctx) (op : MemOp) (va : Word) (pa : Nat) (data cmp : Word) (d : Option Reg)
    (id : Nat) : Access :=
  { id := id, src := s.src w, tag := c.tag, op := op, va := va, pa := pa, data := data, cmp := cmp,
    dst := (match d with
      | some r => .reg r.toNat
      | none => .notice),
    attempt := 0, granted := s.isLocalPa pa && s.homeOf pa == w.core }

/-- Issue an access under a number: it is counted, a conditional one holds later accesses back (R225), and it is sent. -/
def State.launch (s : State) (w : Who) (op : MemOp) (pa : Nat) (d : Option Reg) (a : Access) : State :=
  let s := s.count w op a.id pa d
  let s := if op.conditional then s.modCtx w fun c => { c with cond := some a } else s
  s.send a

/-- Steps 5 of R221 for a word of the issuing core: the access table, then poison and check bits unless the access must first wait on
the scoreboard. -/
def localCheck (s : State) (w : Who) (c : Ctx) (op : MemOp) (va : Word) (pa : Nat) (go : State → Out) : Out :=
  if !s.isLocalPa pa || s.homeOf pa != w.core then go s
  else
    let l := lpaOf pa
    let p := s.placeOf l
    if p.ctlBars op || !s.admits p c.tag op.kind l then
      trapNow (s.logRefusal (blockOf p) c.tag op.kind l (s.src w)) w c .acctbl va
    else
      let waits := match p with
        | .hole => false
        | .ctl _ _ => false
        | .rctl _ _ => false
        | _ => s.homeBusy w.core || s.mustWait w.core (s.request w c op va pa 0 0 none 0) (s.core w.core).blocked
      let isMem := match p with
        | .sram _ _ => true
        | .dram _ _ _ => true
        | _ => false
      if waits || !isMem || (s.forwarded (s.request w c op va pa 0 0 none 0)).isSome || op.overwrites || (match op with | .feset => true | _ => false) then go s
      else
        let ck := s.checkWord p (wordAt l) { kind := c.srcKind, who := some w }
        if ck.2 then trapNow ck.1 w c (ueCause p) va else go ck.1

/-- A migrant leaves for a home (R47, R48, R53, R332): it stays Departing until ctr is zero. -/
def depart (s : State) (w : Who) (c : Ctx) (home : Nat) (va pc : Word) : Out :=
  if !s.samePart (coreRet w.core) (coreRet home) then trapNow s w c .partviol va
  else together s w c (.next (s.modCtx w fun c => { c with run := .departing home pc }))

/-- The core at which a word performs now (R186, R205). -/
def State.homeNow (s : State) (pa : Nat) : Nat := s.homeCore (s.placeOf (s.nowAt (lpaOf pa)))

/-- A migrant moves for an access to a word that performs at another core of the module, unless it is in a handler (R47, R205, R339). -/
def State.moves (s : State) (w : Who) (c : Ctx) (pa : Nat) : Bool :=
  c.kind == .migrant && !c.inh && s.isLocalPa pa && s.homeNow pa != w.core

/-- The checks of R221, in order, and then `go` with the physical address. -/
def checked (s : State) (w : Who) (c : Ctx) (op : MemOp) (k : AccKind) (va : Word) (moving : Bool)
    (go : State → Nat → Out) : Out :=
  if va.toNat % op.bytes ≠ 0 then trapNow s w c op.alignCause va
  else xlated s w c va k fun pa =>
    if moving && s.moves w c pa then
      (if s.placeLive (s.placeOf (lpaOf pa)) then depart s w c (s.homeNow pa) va c.pc else trapNow s w c .darktile va)
    else match s.reachTrap w c pa with
      | some cz => trapNow s w c cz va
      | none => localCheck s w c op va pa fun s => go s pa

/-- An access that is no read (R223 to R228): after an acquire has been answered (R213), with room in its counter, by a pair held and then
released. `srcs` are its operands, `moving` says that a migrant departs for it. -/
def access (s : State) (w : Who) (c : Ctx) (op : MemOp) (moving : Bool) (srcs : List Reg) (d : Option Reg)
    (va data cmp : State → Who → Ctx → Word) : Out :=
  afterCond s w c (roomIn s w c (clsOf op) (outward s w c srcs d fun s w c =>
    let a := va s w c
    checked s w c op op.kind a moving fun s pa =>
      let id := s.ids
      .next (({ s with ids := id + 1 }.launch w op pa d (s.request w c op a pa (data s w c) (cmp s w c) d id)).finish w 1 8)))

/-- A read (R374): LD and FEGET are plain, LDFF is an acquire. -/
def readAccess (s : State) (w : Who) (c : Ctx) (op : MemOp) (va : Word) (d : Reg) : Out :=
  match c.role with
  | .top p => topRead s w c p d va op.bytes
  | _ =>
    afterCond s w c (roomIn s w c .ld (checked s w c op op.kind va true fun s pa =>
      performRead s w c va op.bytes none fun s id =>
        s.launch w op pa (some d) (s.request w c op va pa 0 0 (some d) id)))

/-- Address of a form with an offset (R223, R224). -/
def offAddr (s : State) (w : Who) (c : Ctx) (a : Reg) (o : BitVec 9) (z : Nat) : Word :=
  s.reg w c a.toNat + (sext64 o <<< z)

/-- The value of a register of the context that an access is issued for. -/
def valueOf (r : Reg) (s : State) (w : Who) (c : Ctx) : Word := s.reg w c r.toNat
/-- No operand. -/
def noValue (_ : State) (_ : Who) (_ : Ctx) : Word := 0

/-- LD (R223). -/
def execLd (d a : Reg) (sz : BitVec 2) (e : BitVec 1) (o : BitVec 9) (s : State) : Out :=
  onCtx s fun w c => needRegs s w c [a] (some d)
    (readAccess s w c (.load sz.toNat (e == 1)) (offAddr s w c a o sz.toNat) d)
/-- ST (R223). -/
def execSt (d a : Reg) (sz : BitVec 2) (o : BitVec 9) (s : State) : Out :=
  onCtx s fun w c => needRegs s w c [a, d] none
    (access s w c (.store sz.toNat) true [a, d] none (fun s w c => offAddr s w c a o sz.toNat) (valueOf d) noValue)
/-- LDFE (R224). -/
def execLdfe (d a : Reg) (o : BitVec 9) (s : State) : Out :=
  onCtx s fun w c => needRegs s w c [a] (some d) (access s w c .ldfe true [a] (some d) (fun s w c => offAddr s w c a o 3) noValue noValue)
/-- LDFF (R224). -/
def execLdff (d a : Reg) (o : BitVec 9) (s : State) : Out :=
  onCtx s fun w c => needRegs s w c [a] (some d) (readAccess s w c .ldff (offAddr s w c a o 3) d)
/-- STEF (R224), a release (R212). -/
def execStef (d a : Reg) (o : BitVec 9) (s : State) : Out :=
  onCtx s fun w c => needRegs s w c [a, d] none
    (afterCond s w c (asRelease s w c
      (access s w c .stef true [a, d] none (fun s w c => offAddr s w c a o 3) (valueOf d) noValue)))
/-- STFF (R224), a release (R212). -/
def execStff (d a : Reg) (o : BitVec 9) (s : State) : Out :=
  onCtx s fun w c => needRegs s w c [a, d] none
    (afterCond s w c (asRelease s w c
      (access s w c .stff true [a, d] none (fun s w c => offAddr s w c a o 3) (valueOf d) noValue)))
/-- STFE (R224). -/
def execStfe (d a : Reg) (o : BitVec 9) (s : State) : Out :=
  onCtx s fun w c => needRegs s w c [a, d] none
    (access s w c .stfe true [a, d] none (fun s w c => offAddr s w c a o 3) (valueOf d) noValue)
/-- FEGET (R224). -/
def execFeget (d a : Reg) (o : BitVec 9) (s : State) : Out :=
  onCtx s fun w c => needRegs s w c [a] (some d) (readAccess s w c .feget (offAddr s w c a o 3) d)
/-- FESET (R224). -/
def execFeset (d a : Reg) (o : BitVec 9) (s : State) : Out :=
  onCtx s fun w c => needRegs s w c [a, d] none
    (access s w c .feset true [a, d] none (fun s w c => offAddr s w c a o 3) (valueOf d) noValue)

/-- AMO, fetching (R228). -/
def execAmoF (d a b : Reg) (o : BitVec 4) (s : State) : Out :=
  onCtx s fun w c => needRegs s w c [a, b] (some d)
    (access s w c (.amo o.toNat true) true [a, b] (some d) (valueOf a) (valueOf b) noValue)
/-- AMO.CAS.F (R228): compares with x[d]. -/
def execAmoCasF (d a b : Reg) (s : State) : Out :=
  onCtx s fun w c => needRegs s w c [a, b, d] none
    (access s w c (.amo 9 true) true [d, a, b] (some d) (valueOf a) (valueOf b) (valueOf d))
/-- AMO without a fetch (R228). -/
def execAmo (a b : Reg) (o : BitVec 4) (s : State) : Out :=
  onCtx s fun w c => needRegs s w c [a, b] none
    (access s w c (.amo o.toNat false) true [a, b] none (valueOf a) (valueOf b) noValue)

/-- RED (R228, R229): as an AMO, but it never moves a migrant. -/
def execRed (a b : Reg) (o : BitVec 4) (s : State) : Out :=
  onCtx s fun w c => needRegs s w c [a, b] none
    (access s w c (.red o.toNat) false [a, b] none (valueOf a) (valueOf b) noValue)

/-! Sending a withdrawn access again (R227). -/

/-- The next of the accesses to be sent again, once one has been dealt with (R227). -/
def Ctx.nextResend (c : Ctx) : Ctx :=
  { c with resend := (c.resendMore.head?).map fun a => { a with attempt := 0 }, resendMore := c.resendMore.tail }

/-- An access that is due to be sent again is issued as a fresh first attempt, before the next instruction and in no issue turn; while its
counter stands at 15 the context parks (R214). -/
def State.resendNow (s : State) (w : Who) (c : Ctx) (a : Access) : State :=
  let d : Option Reg := match a.dst with
    | .reg r => some (BitVec.ofNat 7 r)
    | _ => none
  if 15 ≤ c.count (clsOf a.op) then s.park w (.counter (clsOf a.op))
  else match s.xlate w c a.va a.op.kind with
  | .miss => s.missed w c a.va
  | .fault cz t => s.modCtx w fun c => c.nextResend.lateTrap cz t
  | .ok pa =>
    match s.reachTrap w c pa with
    | some cz => s.modCtx w fun c => c.nextResend.lateTrap cz a.va
    | none =>
      let s := s.modCtx w Ctx.nextResend
      let b : Access := { s.request w c a.op a.va pa a.data a.cmp d a.id with dst := a.dst, granted := false }
      let n := ((s.ctx? w).map (·.issuedW)).getD 0
      let s := s.launch w a.op pa d b
      s.modCtx w fun c => { c with
        issuedW := n
        out := c.out.map fun (o : OutOp) => if o.id = a.id ∧ a.op = .stef then { o with nth := a.cmp.toNat } else o }

end Sys2Proof.Machine
end

