-- ==== Sys2Proof/Machine/Tokens.lean ====
section
/-! DEFINITION. The token state of a tile (R277), its operations (R278), and what the engines' work is metered and charged to (R162, R283,
R291). -/
namespace Sys2Proof.Machine

/-- Greatest holding of a tile (R23, R277); a failed tile and a rim core hold no token state. -/
def State.kindMax (s : State) (c : Nat) : Nat :=
  if isTile c && !s.tileFailed (coreRet c) (coreTile c) then (tileKind (coreTile c)).full else 0

/-- The fields of word 0x0200 (R277). -/
structure Tok where
  cls : Nat
  ncnt : Nat
  pend : Nat
  want : Nat
  hold : Nat
  deriving DecidableEq, Repr, Inhabited

/-- The token state of a core. -/
def State.tok (s : State) (c : Nat) : Tok :=
  let w := s.cb c 0x0200
  { cls := bits w 26 24, ncnt := bits w 21 12, pend := bits w 11 8, want := bits w 7 4, hold := bits w 3 0 }

/-- Word 0x0200 of a token state. -/
def Tok.word (t : Tok) : Word :=
  BitVec.ofNat 64 (t.cls % 8 * 2 ^ 24 + t.ncnt % 1024 * 2 ^ 12 + t.pend % 16 * 2 ^ 8 + t.want % 16 * 2 ^ 4 + t.hold % 16)

/-- Note when a request became unmet, and forget it when it is met (R278). -/
def State.noteUnmet (s : State) (c : Nat) (t : Tok) : State :=
  s.modRet (coreRet c) fun k =>
    let l := if t.hold < t.want then (if (mget k.unmet (coreTile c)).isSome then k.unmet else mput (coreTile c) k.step k.unmet)
      else mdel (coreTile c) k.unmet
    { k with unmet := l }

/-- Write the token state of a tile. -/
def State.setTok (s : State) (c : Nat) (t : Tok) : State := (s.setCb c 0x0200 t.word).noteUnmet c t

/-- Note a request of this cc, which counts from the next round (R289). -/
def State.noteAsked (s : State) (c : Nat) (t : Tok) (added : Nat) : State :=
  s.modRet (coreRet c) fun k =>
    let old := (mget k.asked (coreTile c)).getD (0, t.cls)
    { k with asked := mput (coreTile c) (old.1 + added, old.2) k.asked }

/-- Request `n` in a class (R278). -/
def State.tokRequest (s : State) (c n cls : Nat) : State :=
  let t := s.tok c
  let cls := if t.want = t.hold then cls else Nat.max t.cls cls
  let want := Nat.min (s.kindMax c) (t.want + n)
  (s.setTok c { t with cls := cls, want := want }).noteAsked c t (want - t.want)

/-- The token state of a tile without the requests of this cc, as a round sees it (R280, R289). -/
def State.tokSeen (s : State) (c : Nat) : Tok :=
  let t := s.tok c
  match mget (s.reticle (coreRet c)).asked (coreTile c) with
  | none => t
  | some a => { t with want := t.want - a.1, cls := a.2 }

/-- An engine command issued while WANT is 0 requests the kind maximum (R278). -/
def State.tokImplicit (s : State) (c cls : Nat) : State :=
  if isTile c && (s.tok c).want == 0 then s.tokRequest c (s.kindMax c) cls else s

/-- A token state that loses `m` tokens as a release does; a notice whose PEND it clears ends (R278, R282). -/
def Tok.lose (t : Tok) (m : Nat) : Tok :=
  let p := t.pend - Nat.min m t.pend
  { t with hold := t.hold - m, want := t.want - m, pend := p, ncnt := if p = 0 then 0 else t.ncnt }

/-- Release `n` (R278). -/
def State.tokRelease (s : State) (c n : Nat) : State :=
  let t := s.tok c
  s.setTok c (t.lose (Nat.min n t.hold))

/-- The dense array of a tile runs a command at more than the tile now holds: a loss has not taken effect (R113, R282). -/
def State.lags (s : State) (c : Nat) : Bool :=
  (s.core c).cmds.any (fun x => x.part == .dense) && decide ((s.tok c).hold < (s.core c).pace)

/-- A tile that takes work or tokens counts as idle from the next boundary at the earliest (R283). -/
def State.noteWork (s : State) (c : Nat) : State :=
  s.modRet (coreRet c) fun k => { k with worked := sadd (coreTile c) k.worked }

/-- Lent tokens reach a tile (R278). -/
def State.gainTokens (s : State) (c n : Nat) : State :=
  let t := s.tok c
  let h := Nat.min (s.kindMax c) (t.hold + n)
  (s.setTok c { t with hold := h, want := Nat.max t.want h }).noteWork c

/-- Lend `n` to another tile of the basin (R278): answers the tokens lent. The gain waits while the lender's loss has not taken effect. -/
def State.tokLend (s : State) (c n d : Nat) : Nat × State :=
  let t := s.tok c
  let m := Nat.min (Nat.min n (t.hold - t.pend)) (s.kindMax d - (s.tok d).hold)
  if m = 0 then (0, s)
  else
    let s := s.setTok c (t.lose m)
    (m, if s.lags c then s.modRet (coreRet c) fun k => { k with gains := k.gains ++ [{ src := c, n := m, dst := some d }] }
        else s.gainTokens d m)

/-- Losses that have taken effect: lent tokens reach their tiles, and those of a notice join the pool (R278, R282). -/
def State.settleGains (s : State) (r : Nat) : State :=
  let l := (s.reticle r).gains
  if l.isEmpty then s
  else
    let ripe := l.filter fun g => !s.lags g.src
    let s := s.modRet r fun k => { k with gains := l.filter fun g => s.lags g.src }
    ripe.foldl (fun s g => match g.dst with
      | some d => s.gainTokens d g.n
      | none => s) s

/-- Raise a meter of the basin (R291): 0x0620 bit-operations, 0x0628 energy, 0x0630 keys; the tile has been charged work (R283). -/
def State.meter (s : State) (c off n : Nat) : State :=
  if n = 0 then s
  else
    let r := coreRet c
    (s.setRcb r off (s.rcb r off + BitVec.ofNat 64 n)).noteWork c

/-- The dense array takes the tile's holding at a sub-step boundary (R113). -/
def State.takePace (s : State) (c : Nat) : State := s.modCore c fun k => { k with pace := (s.tok c).hold }

end Sys2Proof.Machine
end

