-- ==== Sys2Proof/Machine/Records.lean ====
section
/-! DEFINITION. Operand records as they are read at issue (R75 to R77, R124), walking a shape (R158, R159), footprints and their overlap
(R160, R161), the hold of a command (R217, R219), and the issue and progress that all engine commands share (R154 to R156, R162). -/
namespace Sys2Proof.Machine

/-- A check made at issue: a value, or the trap that it takes (R154). -/
abbrev Chk := Except (Cause × Word)

/-- Fail with a cause and a tval unless a condition holds. -/
def need (b : Bool) (cz : Cause) (t : Word) : Chk Unit := if b then .ok () else .error (cz, t)

/-! Formats (R86). -/

/-- Bytes of an element of a vector format. -/
def fmtBytes (f : Nat) : Nat :=
  match f with
  | 1 => 1 | 2 => 2 | 3 => 4 | 4 => 8 | 5 => 1 | 6 => 2 | 7 => 4 | 8 => 8 | 9 => 4 | 10 => 2 | 11 => 2 | 12 => 1 | 13 => 1 | 0x20 => 1
  | _ => 0
/-- The floating-point layout of a code. -/
def fmtFloat (f : Nat) : Option Fmt :=
  match f with
  | 9 => some fp32 | 10 => some fp16 | 11 => some bf16 | 12 => some e4m3 | 13 => some e5m2 | _ => none
/-- An integer format. -/
def fmtInt (f : Nat) : Bool := 1 ≤ f && decide (f ≤ 8)
/-- An unsigned integer format. -/
def fmtUns (f : Nat) : Bool := 5 ≤ f && decide (f ≤ 8)
/-- A signed integer format. -/
def fmtSigned (f : Nat) : Bool := 1 ≤ f && decide (f ≤ 4)
/-- FP32, FP16 or BF16. -/
def fmtWide (f : Nat) : Bool := f == 9 || f == 10 || f == 11
/-- A vector element format other than E4M3 and E5M2. -/
def fmtVec (f : Nat) : Bool := fmtInt f || fmtWide f
/-- Any vector format. -/
def fmtAny (f : Nat) : Bool := fmtVec f || f == 12 || f == 13
/-- Stored width of a BPw code; 0 for another code. -/
def bpWidth (f : Nat) : Nat := if 0x10 ≤ f ∧ f ≤ 0x1F then f - 0x0F else 0

/-! Reading records (R75 to R77). -/

/-- The bytes [lo, hi) lie in the tile's SRAM and outside the save ring. -/
def inSram (lo hi : Int) : Bool :=
  decide (0 ≤ lo) && decide (hi ≤ (Config.sramBytes : Int)) && (decide (hi ≤ (Config.ringLo : Int)) || decide ((Config.ringHi : Int) ≤ lo))

/-- Records at their addresses: every address is checked before any record is read (R75, R154 step 3). -/
def recordsAt (bad : Cause) (size bytes : Nat) (l : List Word) : Chk Unit :=
  l.forM fun a => do
    need (decide (a.toNat < Config.sramBytes) && a.toNat % size == 0) bad a
    need (inSram a.toNat (a.toNat + bytes)) .sramrange a

/-- Words of a record. -/
def State.recWords (s : State) (c a n : Nat) : List Word := readWords s.mem (tileAddr c a) n

/-- The first untrusted word among the words of a range of a tile; a word found bad is reported (R192, R369). -/
def State.checkTile (s : State) (w : Who) (k : Nat) (lo hi : Nat) : State × Option Nat :=
  (List.range ((hi + 7) / 8 - lo / 8)).foldl (fun x i => match x.2 with
    | some _ => x
    | none =>
      let off := (lo / 8 + i) * 8
      let ck := x.1.checkWord (.sram w.core off) (tileAddr w.core off) { kind := k, who := some w }
      (ck.1, if ck.2 then some off else none)) (s, none)

/-- The reserved fields of a shape record are zero (R77). -/
def shapeReserved (l : List Word) : Bool :=
  bits (l.getD 0 0) 53 22 == 0 && bits (l.getD 4 0) 62 54 == 0 && bits (l.getD 4 0) 31 22 == 0
    && bits (l.getD 5 0) 62 22 == 0 && bits (l.getD 6 0) 31 0 == 0 && bits (l.getD 7 0) 55 22 == 0

/-- A signed 32-bit field. -/
def stride (w : Word) (hi : Bool) : Int := intOf true 32 (if hi then bits w 63 32 else bits w 31 0)

/-- The fields of a shape record (R77). -/
def shapeOf (at_ : Nat) (l : List Word) : Shape :=
  let w (i : Nat) : Word := l.getD i 0
  { at_ := at_, fmt := bits (w 0) 63 58, rm := bits (w 0) 57 56, nd := bits (w 0) 55 54, base := bits (w 0) 21 0
    e := [bits (w 1) 15 0, bits (w 1) 31 16, bits (w 1) 47 32, bits (w 1) 63 48]
    st := [stride (w 2) false, stride (w 2) true, stride (w 3) false, stride (w 3) true]
    wen := bit (w 4) 63, wbeg := bits (w 4) 21 0, wend := bits (w 4) 53 32
    men := bit (w 5) 63, mask := bits (w 5) 21 0, tid := bits (w 6) 63 32, auxk := bits (w 7) 63 56, aux := bits (w 7) 21 0 }

/-- Extent of a dimension: those above ND count as 1 (R158). -/
def Shape.ext (h : Shape) (d : Nat) : Nat := if d ≤ h.nd then h.e.getD d 1 else 1
/-- Extents of a shape. -/
def Shape.exts (h : Shape) : List Nat := [h.ext 0, h.ext 1, h.ext 2, h.ext 3]
/-- Strides of the dimensions in use. -/
def Shape.strides (h : Shape) : List Int := (List.range 4).map fun d => if d ≤ h.nd then h.st.getD d 0 else 0
/-- Number of elements. -/
def Shape.count (h : Shape) : Nat := h.ext 0 * h.ext 1 * h.ext 2 * h.ext 3

/-- The limits of R77: extents, wrap window, auxiliary kind. -/
def Shape.legal (h : Shape) : Bool :=
  ((List.range 4).all fun d => if d ≤ h.nd then h.e.getD d 0 != 0 else h.e.getD d 0 == 0)
    && (!h.wen || (decide (h.wbeg < h.wend) && decide (h.wend ≤ Config.sramBytes))) && decide (h.auxk ≤ 2)

/-- BASE, strides and window are multiples of the element size (R159). -/
def Shape.aligned (h : Shape) (z : Nat) : Bool :=
  z == 0 || (h.base % z == 0 && (h.strides.all fun x => x % (z : Int) == 0) && (!h.wen || (h.wbeg % z == 0 && h.wend % z == 0)))

/-- Read a shape record at an address that is checked (R77, R154 step 3), whose elements have the size its format gives unless `z` is given,
with the limits that its use sets. -/
def State.readShape (s : State) (c : Nat) (a : Word) (z : Option Nat) (lim : Shape → Bool) : Chk Shape := do
  let l := s.recWords c a.toNat 8
  let h := shapeOf a.toNat l
  need (shapeReserved l && h.legal && h.aligned (z.getD (fmtBytes h.fmt)) && lim h) .shape a
  pure h

/-! Walking a shape (R158). -/

/-- Raw address of element `n`. -/
def Shape.raw (h : Shape) (n : Nat) : Int := h.base + rawAt h.exts h.strides n
/-- Tile SRAM address of element `n`. -/
def Shape.addr (h : Shape) (n : Nat) : Nat := (wrapAt h.wen h.wbeg h.wend (h.raw n)).toNat
/-- Element number of indices. -/
def Shape.index (h : Shape) (i0 row : Nat) : Nat := i0 + h.ext 0 * row

/-- Least and greatest first byte of the elements, from extents and strides. -/
def spread (e : List Nat) (st : List Int) : Int × Int :=
  (e.zip st).foldl (fun x p =>
    let far : Int := ((p.1 - 1 : Nat) : Int) * p.2
    (x.1 + min 0 far, x.2 + max 0 far)) (0, 0)

/-- Footprint of the elements, of `z` bytes each (R159): from the lowest to the highest byte, or the whole window. -/
def Shape.foot (h : Shape) (z : Nat) : Int × Int :=
  if h.wen then (h.wbeg, h.wend)
  else
    let x := spread h.exts h.strides
    (h.base + x.1, h.base + x.2 + z)
/-- Footprint of the mask array (R161). -/
def Shape.maskFoot (h : Shape) : Int × Int := (h.mask, h.mask + (h.count + 7) / 8)

/-- Element `n` is present: no mask, or its mask bit is set (R161). -/
def State.maskBit (s : State) (c : Nat) (h : Shape) (n : Nat) : Bool :=
  !h.men || memRead s.mem (tileAddr c (h.mask + n / 8)) 1 / 2 ^ (n % 8) % 2 == 1

/-- Bit pattern of element `n`. -/
def State.elem (s : State) (c : Nat) (h : Shape) (z n : Nat) : Nat := memRead s.mem (tileAddr c (h.addr n)) z
/-- Write `z` bytes of a tile as one element (R208). -/
def State.putTile (s : State) (c off z v : Nat) : State :=
  let s := s.storeBytes (tileAddr c off) z v
  if z = 8 then s.freshWord (tileAddr c off) else s
/-- Write element `n`. -/
def State.putElem (s : State) (c : Nat) (h : Shape) (z n v : Nat) : State := s.putTile c (h.addr n) z v

/-- Shapes equal in BASE, extents, strides and wrap fields (R160). -/
def Shape.sameWalk (x y : Shape) : Bool :=
  x.base == y.base && x.nd == y.nd && x.exts == y.exts && x.strides == y.strides && x.wen == y.wen
    && (!x.wen || (x.wbeg == y.wbeg && x.wend == y.wend))
/-- Equal ND and extents (R164). -/
def Shape.sameExt (x y : Shape) : Bool := x.nd == y.nd && x.exts == y.exts

/-! Overlap and ranges (R159, R160, R328). -/

/-- A footprint a command reads or writes, with the address of its record. -/
structure Foot where
  lo : Int
  hi : Int
  at_ : Nat
  deriving DecidableEq, Repr

/-- The elements of a shape as a footprint. -/
def Shape.elems (h : Shape) (z : Nat) : Foot := { lo := (h.foot z).1, hi := (h.foot z).2, at_ := h.at_ }
/-- The mask array of a shape as a footprint, where it has one. -/
def Shape.masks (h : Shape) : List Foot := if h.men then [{ lo := h.maskFoot.1, hi := h.maskFoot.2, at_ := h.at_ }] else []
/-- The record itself. -/
def recFoot (a : Nat) : Foot := { lo := a, hi := a + 64, at_ := a }
/-- Two footprints share a byte. -/
def Foot.meets (x y : Foot) : Bool := decide (x.lo < y.hi) && decide (y.lo < x.hi)
/-- As a range of the tile. -/
def Foot.range (f : Foot) : Range := { lo := f.lo.toNat, hi := f.hi.toNat }

/-- R160: no destination footprint overlaps a source footprint or a record. -/
def apart (at_ : Nat) (dsts srcs : List Foot) : Chk Unit :=
  need (dsts.all fun d => srcs.all fun x => !d.meets x) .shape (BitVec.ofNat 64 at_)
/-- R159: every footprint lies in the tile's SRAM outside the save ring. -/
def inRange (l : List Foot) : Chk Unit :=
  match l.find? fun f => !inSram f.lo f.hi with
  | some f => .error (.sramrange, BitVec.ofNat 64 f.at_)
  | none => .ok ()

/-- The first granule of a footprint that the tile's access table does not admit (R328). -/
def State.refusedGranule (s : State) (c : Nat) (t : Tag) (k : AccKind) (f : Foot) : Option Nat :=
  let lo := f.lo.toNat / 64
  let hi := (f.hi.toNat + 63) / 64
  ((List.range (hi - lo)).map fun i => 64 * (lo + i)).find? fun off => !s.admits (.sram c off) t k (tileAddr c off)

/-- Step 8 of R154 for the footprints of a command: those written, then those read. -/
def State.granted? (s : State) (c : Nat) (t : Tag) (writes reads : List Foot) : Option (Nat × AccKind) :=
  match (writes.filterMap fun f => s.refusedGranule c t .write f).head? with
  | some g => some (g, .write)
  | none => ((reads.filterMap fun f => s.refusedGranule c t .read f).head?).map fun g => (g, .read)

/-! Issuing a command. -/

/-- A command at rest (R155), to be filled in. -/
def Cmd.blank (op : CmdOp) (part : Part) (dst : Shape) : Cmd :=
  { id := 0, slot := 0, gen := 0, op := op, part := part, blocking := false, dst := dst, a := none, b := none, drain := none
    wa := 0, wb := 0, wsa := 0, wsb := 0, scaleA := [], scaleB := [], sums := [], todo := [], units := 0, done := 0, jobs := 0
    rate := 1, eu := 0, flags := 0, bad := none, keyA := none, keyB := none, req := none, out := 0, stop := none, ended := false }

/-- What a command is to be issued with: the footprints it writes and reads, and its records, which it reads at issue. -/
structure Plan where
  cmd : Cmd
  writes : List Foot
  reads : List Foot
  recs : List Foot
  deriving Repr

/-- Issue a command (R155, R217, R219): its table check, a free hold, then the hold, the tile's implicit request for tokens (R278), the
counter or the park. -/
def issueCmd (s : State) (w : Who) (c : Ctx) (p : Plan) : Out :=
  match s.granted? w.core c.tag p.writes (p.reads ++ p.recs) with
  | some (g, k) =>
    let a := tileAddr w.core g
    trapNow (s.logRefusal (.core w.core) c.tag k a (s.src w)) w c .acctbl (BitVec.ofNat 64 g)
  | none =>
    if Config.holdPool ≤ (s.core w.core).holds.length then .next (s.stallOn w .hold)
    else
      let id := s.ids
      let h : Hold := { id := id, writes := p.writes.map Foot.range, reads := p.reads.map Foot.range
                        after := (s.core w.core).blocked.map accKey }
      let x := { p.cmd with id := id, slot := w.slot, gen := s.gen w }
      let s := { s with ids := id + 1 }
      let first := x.part == .dense && !((s.core w.core).cmds.any fun y => y.part == .dense)
      let s := s.modCore w.core fun k => { k with holds := k.holds ++ [h], cmds := k.cmds ++ [x] }
      let s := s.tokImplicit w.core c.ecls.toNat
      let s := if first then s.takePace w.core else s
      if x.blocking then
        .next (s.park w (match x.op with
          | .set _ _ _ => .setCmd id
          | _ => .matrix id))
      else
        .next ((s.modCtx w fun c => c.add { id := id, cls := .mx, dst := none, home := some w.core, both := false }).finish w 1 8)

/-- Groups that run on every tile but on no rim core (R153). -/
def onTile (s : State) (w : Who) (c : Ctx) (k : Out) : Out :=
  if isTile w.core then k else trapNow s w c .engfault s.irWord

/-- No energy: a VEB-charged command does not issue (R162). -/
def withVeb (s : State) (w : Who) (k : Out) : Out :=
  if (s.cb w.core 0x0208).toInt < 2 ^ 32 then .next (s.stallOn w .veb) else k

/-- Ranges read at issue must not be under a write hold (R76); a record's untrusted word traps (R192). -/
def readAtIssue (s : State) (w : Who) (c : Ctx) (l : List (Nat × Nat)) (go : State → Out) : Out :=
  match l.find? fun r => s.bytesWait w.core r.1 r.2 with
  | some r => .next (s.stallOn w (.bytes w.core r.1 r.2))
  | none =>
    let x := l.foldl (fun (x : State × Option Nat) r => match x.2 with
      | some _ => x
      | none => x.1.checkTile w c.srcKind r.1 r.2) (s, none)
    match x.2 with
    | some off => trapNow x.1 w c .uesram (BitVec.ofNat 64 off)
    | none => go x.1

/-- The records of an instruction: their addresses, then their bytes, read at issue (R75, R76, R154 step 3). -/
def readRecords (s : State) (w : Who) (c : Ctx) (bad : Cause) (size bytes : Nat) (l : List Word) (go : State → Out) : Out :=
  match recordsAt bad size bytes l with
  | .error (cz, t) => trapNow s w c cz t
  | .ok _ => readAtIssue s w c (l.map fun a => (a.toNat, a.toNat + bytes)) go

/-- A record that an instruction reads itself, and not as a command: the tile's table admits it, or the instruction traps (R328). -/
def recordAdmitted (s : State) (w : Who) (c : Ctx) (at_ bytes : Nat) (go : Out) : Out :=
  match s.refusedGranule w.core c.tag .read { lo := at_, hi := at_ + bytes, at_ := at_ } with
  | some g => trapNow (s.logRefusal (.core w.core) c.tag .read (tileAddr w.core g) (s.src w)) w c .acctbl (BitVec.ofNat 64 g)
  | none => go

/-- The frame of an engine command (R154, R155): registers, no acquire outstanding, room in ctr.MX unless it blocks, its records read, its
checks, and its issue, by a pair once. -/
def engine (s : State) (srcs : List Reg) (blocking veb : Bool) (recs : List Reg) (chk : State → Who → Ctx → Chk Plan) : Out :=
  onCtx s fun w c => needRegs s w c srcs none
    (let body (s : State) (w : Who) (c : Ctx) : Out :=
       let act : Out :=
         readRecords s w c .shape 64 64 (recs.map fun r => s.reg w c r.toNat) fun s =>
           match chk s w c with
           | .error (cz, t) => trapNow s w c cz t
           | .ok p => issueCmd s w c p
       if veb then withVeb s w act else act
     onTile s w c (afterCond s w c ((if blocking then id else roomIn s w c .mx) (if blocking then lockstep s w c srcs none body else outward s w c srcs none body))))

/-! Progress (R122, R155, R156, R162). -/

/-- The first command of each part is the one that runs; it waits under holds taken before its own and behind accesses that had waited
then (R155, R217). -/
def Core.runnable (k : Core) (x : Cmd) : Bool :=
  ((k.cmds.find? fun y => y.part == x.part).map (·.id)) == some x.id
    && match k.holds.find? fun h => h.id == x.id with
      | none => true
      | some h =>
        ((k.holds.takeWhile fun y => y.id != x.id).all fun y => !k.bars y h)
          && !(k.blocked.any fun a => h.after.contains (accKey a)
            && (let r : Range := { lo := lpaOf a.pa % 2 ^ 22, hi := lpaOf a.pa % 2 ^ 22 + a.op.bytes }
                h.writes.any (fun y => y.meets r) || (a.op.writes && h.reads.any fun y => y.meets r)))

/-- Replace a command. -/
def State.putCmd (s : State) (c : Nat) (x : Cmd) : State :=
  s.modCore c fun k => { k with cmds := k.cmds.map fun y => if y.id = x.id then x else y }

/-- The flags of a completed command and its pending engine trap (R122, R156). Integer OV never traps. -/
def Ctx.engineFlags (c : Ctx) (f : Flags) (intOv : Bool) (rec_ : Nat) : Ctx :=
  let fp := f &&& (fOV ||| fNX ||| fNV ||| fDZ)
  let trapping : Flags := if intOv then fp &&& ~~~fOV else fp
  let due : Option (Cause × Word × Flags) :=
    if c.pend.eng.isSome then none
    else if f &&& fSI != 0 && bit c.trapen 21 then some (.scalenan, BitVec.ofNat 64 rec_, fSI)
    else if f &&& fAO != 0 && bit c.trapen 20 then some (.accovf, BitVec.ofNat 64 rec_, fAO)
    else if trapping &&& c.enabled != 0 then some (.fpexc, BitVec.ofNat 64 (2 ^ 63 + rec_ * 2 ^ 6 + fp.toNat), fp)
    else none
  match due with
  | none => c.raise f
  | some (cz, t, g) => { (c.raise (f &&& ~~~g)) with pend := { c.pend with eng := some (cz, t) } }

/-- A command leaves its part: its holds are released (R218). -/
def State.dropCmd (s : State) (c id : Nat) : State :=
  (s.modCore c fun k => { k with cmds := k.cmds.filter fun y => y.id != id }).releaseHold c id

end Sys2Proof.Machine
end

