-- ==== Sys2Proof/Machine/Elements.lean ====
section
/-! DEFINITION. What the vector commands compute, element by element (R164 to R168) and row by row (R104 to R107, R166, R167), and what
the plane commands compute block by block (R99 to R103, R174 to R176). Elements are bit patterns. -/
namespace Sys2Proof.Machine

/-- Bits of an element of a format. -/
def fmtBits (f : Nat) : Nat := 8 * fmtBytes f

/-! VOP (R164). -/

/-- The shift of VSHL by a signed count. -/
def vshl (f a b : Nat) : Nat :=
  let n := fmtBits f
  let c := intOf true n b
  if 0 ≤ c then (if (n : Int) ≤ c then 0 else a * 2 ^ c.toNat % 2 ^ n)
  else
    let k := Nat.min (-c).toNat n
    intBits n (intOf (fmtSigned f) n a / (2 ^ k : Nat))

/-- Comparison of two integers under a condition: 0 EQ, 1 NE, 2 LT, 3 LE. -/
def icmp (cond : Nat) (a b : Int) : Bool :=
  match cond with
  | 0 => decide (a = b)
  | 1 => decide (a ≠ b)
  | 2 => decide (a < b)
  | _ => decide (a ≤ b)

/-- VOP on a float format. -/
def vopFloat (g : Fmt) (fn rm a b c : Nat) : Nat × Flags :=
  let x := unpack g a
  let y := unpack g b
  match fn with
  | 0 => fAddV g rm x y
  | 1 => fAddV g rm x y.negate
  | 2 => fMulV g rm x y
  | 3 => fFmaV g rm x y (unpack g c)
  | 4 => fMinMax g false a b
  | 5 => fMinMax g true a b
  | _ => let r := fCompare rm x y
         (if r.1 then 1 else 0, r.2)

/-- VOP on an integer format. -/
def vopInt (f fn rm a b c : Nat) : Nat :=
  let n := fmtBits f
  let x := intOf (fmtSigned f) n a
  let y := intOf (fmtSigned f) n b
  match fn with
  | 0 => (a + b) % 2 ^ n
  | 1 => (a + 2 ^ n - b) % 2 ^ n
  | 2 => a * b % 2 ^ n
  | 3 => (a * b + c) % 2 ^ n
  | 4 => if x ≤ y then a else b
  | 5 => if x ≤ y then b else a
  | 6 => Nat.land a b
  | 7 => Nat.lor a b
  | 8 => Nat.xor a b
  | 9 => vshl f a b
  | _ => if icmp rm x y then 1 else 0

/-- One element of VOP but VSEL: A, B, and the destination's element for VFMA. -/
def vopElem (f fn rm a b c : Nat) : Nat × Flags :=
  match fmtFloat f with
  | some g => vopFloat g fn rm a b c
  | none => (vopInt f fn rm a b c, 0)

/-! VUN (R165). -/

/-- VCVT (R98, R95, R89). -/
def vcvtElem (f g rm a : Nat) : Nat × Flags :=
  match fmtFloat f, fmtFloat g with
  | some x, some y => fConvert x y rm a
  | some x, none =>
    let r := fToInt x (fmtSigned g) (fmtBits g) rm a
    (intBits (fmtBits g) r.1, r.2)
  | none, some y => intToF y rm (intOf (fmtSigned f) (fmtBits f) a)
  | none, none =>
    let v := intOf (fmtSigned f) (fmtBits f) a
    let lo := intMin (fmtSigned g) (fmtBits g)
    let hi := intMax (fmtSigned g) (fmtBits g)
    if v < lo then (intBits (fmtBits g) lo, fOV)
    else if hi < v then (intBits (fmtBits g) hi, fOV)
    else (intBits (fmtBits g) v, 0)

/-- One element of VUN: VCVT to VMOV and VFILL. -/
def vunElem (f g fn rm a : Nat) (fill : Word) : Nat × Flags :=
  let n := fmtBits f
  match fn with
  | 0 => vcvtElem f g rm a
  | 1 => fExp2V ((fmtFloat g).getD fp32) rm (unpack ((fmtFloat f).getD fp32) a)
  | 2 => fRcpV ((fmtFloat g).getD fp32) rm (unpack ((fmtFloat f).getD fp32) a)
  | 3 => fRsqV ((fmtFloat g).getD fp32) rm (unpack ((fmtFloat f).getD fp32) a)
  | 4 => match fmtFloat f with
    | some x => (a % x.sign, 0)
    | none => (intBits n ((intOf (fmtSigned f) n a).natAbs : Nat), 0)
  | 5 => match fmtFloat f with
    | some x => (Nat.xor a x.sign, 0)
    | none => (intBits n (-(intOf (fmtSigned f) n a)), 0)
  | 8 => (fill.toNat % 2 ^ fmtBits g, 0)
  | _ => (a, 0)

/-- The bit VMASK writes (R165). -/
def vmaskBit (op : Nat) (ta tb : Bool) : Bool :=
  match op with
  | 0 => ta && tb
  | 1 => ta || tb
  | 2 => ta != tb
  | _ => ta && !tb

/-! Trees (R104, R105). -/

/-- The tree over a list whose absent elements are `none`, with the flags of its nodes; `fuel` bounds its depth. -/
def treeOf {α : Type} (f : α → α → α × Flags) : Nat → List (Option α) → Option α × Flags
  | 0, l => (l.head?.join, 0)
  | k + 1, l =>
    if l.length ≤ 1 then (l.head?.join, 0)
    else
      let h := 2 ^ (l.length - 1).log2
      let x := treeOf f k (l.take h)
      let y := treeOf f k (l.drop h)
      match x.1, y.1 with
      | some a, some b => let r := f a b
                          (some r.1, x.2 ||| y.2 ||| r.2)
      | some a, none => (some a, x.2 ||| y.2)
      | none, b => (b, x.2 ||| y.2)

/-- Depth that covers every row. -/
def treeDepth : Nat := 17

/-- A leaf of a float reduction, widened exactly to FP32 (R106). -/
def widenTo32 (f a : Nat) : Nat × Flags := if f = 9 then (a, 0) else fConvert ((fmtFloat f).getD fp32) fp32 0 a

/-- A node of a float reduction: fn 0 and 3 add, 1 maximum, 2 minimum (R106, R107). -/
def nodeFloat (fn rm a b : Nat) : Nat × Flags :=
  match fn with
  | 1 => fMinMax fp32 true a b
  | 2 => fMinMax fp32 false a b
  | _ => fAddV fp32 rm (unpack fp32 a) (unpack fp32 b)
/-- A node of an integer reduction. -/
def nodeInt (fn : Nat) (a b : Int) : Int × Flags :=
  match fn with
  | 1 => (max a b, 0)
  | 2 => (min a b, 0)
  | _ => (a + b, 0)

/-- The result of a reduction whose every element is absent (R105). -/
def allAbsent (fn g : Nat) : Nat :=
  match fmtFloat g with
  | some x => (match fn with
    | 1 => x.inf true
    | 2 => x.inf false
    | _ => 0)
  | none => (match fn with
    | 1 => intBits (fmtBits g) (intMin (fmtSigned g) (fmtBits g))
    | 2 => intBits (fmtBits g) (intMax (fmtSigned g) (fmtBits g))
    | _ => 0)

/-- A reduction of a list of elements of format `f` to format `g` (R104 to R106). -/
def reduce (fn f g rm : Nat) (l : List (Option Nat)) : Nat × Flags :=
  match fmtFloat f with
  | some _ =>
    let wide := l.map fun x => x.map (widenTo32 f)
    let leaf := (wide.filterMap id).foldl (fun (a : Flags) x => a ||| x.2) 0
    let r := treeOf (nodeFloat fn rm) treeDepth (wide.map fun x => x.map (·.1))
    (match r.1 with
      | none => (allAbsent fn g, 0)
      | some v =>
        if g = 9 then (v, leaf ||| r.2)
        else
          let c := fConvert fp32 ((fmtFloat g).getD fp32) rm v
          (c.1, leaf ||| r.2 ||| c.2))
  | none =>
    let r := treeOf (nodeInt fn) treeDepth (l.map fun x => x.map fun a => intOf (fmtSigned f) (fmtBits f) a)
    (match r.1 with
      | none => (allAbsent fn g, 0)
      | some v => (intBits (fmtBits g) v, 0))

/-- The prefix that VSCAN writes for element `i`: up to the nearest present element at or below it (R105). -/
def scanPrefix (i : Nat) (l : List (Option Nat)) : List (Option Nat) :=
  let p := (l.take (i + 1)).reverse.dropWhile Option.isNone
  p.reverse

/-- VSOFT on one row (R166): each element's result, +0 where absent, and the flags of the row. -/
def softRow (f g rm : Nat) (l : List (Option Nat)) : List Nat × Flags :=
  let wide := l.map fun x => x.map (widenTo32 f)
  let fl0 := (wide.filterMap id).foldl (fun (a : Flags) x => a ||| x.2) 0
  let xs := wide.map fun x => x.map (·.1)
  let m := treeOf (nodeFloat 1 0) treeDepth xs
  match m.1 with
  | none => (l.map fun _ => 0, 0)
  | some mx =>
    let es := xs.map fun x => x.map fun a =>
      let t := fAddV fp32 0 (unpack fp32 a) (unpack fp32 mx).negate
      let e := fExp2V fp32 0 (unpack fp32 t.1)
      (e.1, t.2 ||| e.2)
    let fl1 := (es.filterMap id).foldl (fun (a : Flags) x => a ||| x.2) 0
    let sm := treeOf (nodeFloat 0 0) treeDepth (es.map fun x => x.map (·.1))
    let q := fRcpV fp32 0 (unpack fp32 (sm.1.getD 0))
    let ds := es.map fun x => match x with
      | none => ((0 : Nat), (0 : Flags))
      | some e => fMulV ((fmtFloat g).getD fp32) rm (unpack fp32 e.1) (unpack fp32 q.1)
    let fl2 := ds.foldl (fun (a : Flags) x => a ||| x.2) 0
    (ds.map (·.1), fl0 ||| m.2 ||| fl1 ||| sm.2 ||| q.2 ||| fl2)

/-! Bit planes (R99 to R103, R175, R176). -/

/-- The integer of element `j` of a block whose words, most significant plane first, are given (R100, R101). -/
def planeInt (planes : List Nat) (j : Nat) : Int :=
  let v := planes.foldl (fun (x : Nat) w => 2 * x + w / 2 ^ j % 2) 0
  intOf true planes.length v

/-- The words of a block of `w` planes, most significant first, from its elements' integers (R99). -/
def planeWords (w : Nat) (vs : List Int) : List Nat :=
  (List.range w).map fun i =>
    (vs.zip (List.range vs.length)).foldl (fun (x : Nat) p => x + intBits w p.1 / 2 ^ (w - 1 - i) % 2 * 2 ^ p.2) 0

/-- Value of an element at scale e and width w, rounded once (R103, R176). -/
def planeFloat (g : Fmt) (rm e w : Nat) (v : Int) : Nat × Flags :=
  roundFin g rm (decide (v < 0)) v.natAbs ((e : Int) - 127 - ((w : Int) - 1))

/-- An element of a block at scale e as a w-bit integer (R98, R175). -/
def planePack (f : Fmt) (rm e w : Nat) (x : Nat) : Int × Flags :=
  match unpack f x with
  | .nan _ => (0, fNV)
  | .inf n => (if n then intMin true w else intMax true w, fNV)
  | .fin n m ex =>
    let r := roundAt rm n m (ex + (127 - (e : Int)) + ((w : Int) - 1)) 0 false
    let v : Int := if n then -(r.1 : Int) else r.1
    if v < intMin true w then (intMin true w, fNV)
    else if intMax true w < v then (intMax true w, fNV)
    else (v, if r.2 then fNX else 0)

/-- The exponent of the greatest magnitude among some values: floor(log2 m); none where all are zero. -/
def topExp (l : List FVal) : Option Int :=
  l.foldl (fun (a : Option Int) v => match v with
    | .fin _ m e => if m = 0 then a else
        let x : Int := e + (bitLen m : Int) - 1
        some (match a with
          | none => x
          | some y => max x y)
    | _ => a) none

/-- Some element would round to 2^(w-1) at scale e (R175). -/
def tooBig (f : Fmt) (rm e w : Nat) (l : List Nat) : Bool :=
  l.any fun x => match unpack f x with
    | .fin false m ex => decide (2 ^ (w - 1) ≤ (roundAt rm false m (ex + (127 - (e : Int)) + ((w : Int) - 1)) 0 false).1)
    | _ => false

/-- The scale of BPPACK for a block's valid elements (R175); 255 where one is a NaN or infinite. -/
def packScale (f : Fmt) (rm w : Nat) (l : List Nat) : Nat :=
  let vs := l.map (unpack f)
  if vs.any fun v => match v with
      | .fin _ _ _ => false
      | _ => true then 255
  else match topExp vs with
    | none => 0
    | some x =>
      let e := (max 0 (min (x + 128) 254)).toNat
      if e < 254 && tooBig f rm e w l then e + 1 else e

end Sys2Proof.Machine
end

