-- ==== Sys2Proof/Machine/Vector.lean ====
section
/-! DEFINITION. The vector, plane and accumulator commands: what each writes next (R114, R116, R123 to R126, R164 to R168, R173 to R176)
and how far a cc takes it (R162, R163), stopping before the first element that an untrusted word taints (R369). -/
namespace Sys2Proof.Machine

/-- The issuer of a command. -/
def Cmd.who (x : Cmd) (core : Nat) : Who := { core := core, slot := x.slot }

/-- The first untrusted word among the operand bytes named. -/
def State.checkRanges (s : State) (c : Nat) (x : Cmd) : List (Nat × Nat) → State × Option Nat
  | [] => (s, none)
  | r :: l =>
    let k := ((s.ctx? (x.who c)).map Ctx.srcKind).getD 0
    let ck := s.checkTile (x.who c) k r.1 r.2
    match ck.2 with
    | some off => (ck.1, some off)
    | none => ck.1.checkRanges c x l

/-- Write an element that depends on the bytes named, unless one of them is not to be trusted. -/
def elementOf (s : State) (c : Nat) (x : Cmd) (deps : List (Nat × Nat)) (f : State → State × Flags) : State × Cmd :=
  let ck := s.checkRanges c x deps
  match ck.2 with
  | some off => (ck.1, { x with bad := some off, ended := true })
  | none =>
    let r := f ck.1
    (r.1, { x with flags := x.flags ||| r.2, jobs := x.jobs + 1 })

/-- Bytes of element `n`. -/
def Shape.at (h : Shape) (z n : Nat) : Nat × Nat := (h.addr n, h.addr n + z)
/-- The byte of the mask bit of element `n`, if a mask is read. -/
def Shape.maskAt (h : Shape) (n : Nat) : List (Nat × Nat) := if h.men then [(h.mask + n / 8, h.mask + n / 8 + 1)] else []
/-- Bytes of an element of a shape in its own format. -/
def Shape.z (h : Shape) : Nat := fmtBytes h.fmt

/-- An element written under a mask: the mask first, and the operands only where the element is present. -/
def maskedElement (s : State) (c : Nat) (x : Cmd) (d : Shape) (n : Nat) (deps : List (Nat × Nat)) (f : State → State × Flags) :
    State × Cmd :=
  let ck := s.checkRanges c x (d.maskAt n)
  match ck.2 with
  | some off => (ck.1, { x with bad := some off, ended := true })
  | none => if ck.1.maskBit c d n then elementOf ck.1 c x deps f else (ck.1, { x with jobs := x.jobs + 1 })

/-! VOP, VUN. -/

/-- Element `n` of a VOP (R164). -/
def vopJob (s : State) (c : Nat) (x : Cmd) (fn n : Nat) (a b : Shape) : State × Cmd :=
  let d := x.dst
  let z := a.z
  if fn = 11 then
    let ck := s.checkRanges c x (d.maskAt n)
    match ck.2 with
    | some off => (ck.1, { x with bad := some off, ended := true })
    | none =>
      let src := if ck.1.maskBit c d n then a else b
      elementOf ck.1 c x [src.at z n] fun s => (s.putElem c d z n (s.elem c src z n), 0)
  else
    maskedElement s c x d n ([a.at z n, b.at z n] ++ (if fn = 3 then [d.at z n] else [])) fun s =>
      let r := vopElem a.fmt fn d.rm (s.elem c a z n) (s.elem c b z n) (if fn = 3 then s.elem c d z n else 0)
      (s.putElem c d d.z n r.1, r.2)

/-- The elements of one row of a source, absent where its mask says so, and the bytes they are read from. -/
def State.rowOf (s : State) (c : Nat) (a : Shape) (row n : Nat) : List (Option Nat) :=
  (List.range n).map fun i => if s.maskBit c a (a.index i row) then some (s.elem c a a.z (a.index i row)) else none
/-- The bytes that the first `n` elements of a row depend on: their mask bits, then those of them that are present (R161, R369). -/
def State.rowBytes (s : State) (c : Nat) (a : Shape) (row n : Nat) : List (Nat × Nat) :=
  let l := (List.range n).map fun i => a.index i row
  (l.map a.maskAt).flatten ++ (l.filter fun i => s.maskBit c a i).map fun i => a.at a.z i

/-- The elements of a softmax row before the first tainted one: those that a trusted mask bit leaves out, which are +0 (R166, R369). -/
def State.leadingZeros (s : State) (c : Nat) (x : Cmd) (a : Shape) : List Nat → State
  | [] => s
  | i :: l =>
    let ck := s.checkRanges c x (a.maskAt i)
    if ck.2.isSome || ck.1.maskBit c a i then ck.1 else (ck.1.putElem c x.dst x.dst.z i 0).leadingZeros c x a l

/-- The softmax row from element `n` on, read whole before any of it is written (R160, R166). -/
def softJob (s : State) (c : Nat) (x : Cmd) (n : Nat) (a : Shape) : State × Cmd :=
  let d := x.dst
  let e0 := a.ext 0
  let row := n / e0
  let ck := s.checkRanges c x (s.rowBytes c a row e0)
  match ck.2 with
  | some off =>
    (ck.1.leadingZeros c x a ((List.range e0).map fun i => a.index i row), { x with bad := some off, ended := true })
  | none =>
    let r := softRow a.fmt d.fmt d.rm (ck.1.rowOf c a row e0)
    ((r.1.zip (List.range e0)).foldl (fun s p => s.putElem c d d.z (d.index p.2 row) p.1) ck.1,
      { x with flags := x.flags ||| r.2, jobs := x.jobs + e0 })

/-- Element `n` of a VUN (R165, R166). -/
def vunJob (s : State) (c : Nat) (x : Cmd) (fn n : Nat) (v : Word) : State × Cmd :=
  let d := x.dst
  match x.a, x.b with
  | some a, some b =>
    elementOf s c x [a.at a.z n, b.at b.z n] fun s =>
      let t := vmaskBit d.rm (s.elem c a a.z n != 0) (s.elem c b b.z n != 0)
      let off := d.mask + n / 8
      let old := memRead s.mem (tileAddr c off) 1
      let bitv := 2 ^ (n % 8)
      (s.putTile c off 1 (old - old / bitv % 2 * bitv + (if t then bitv else 0)), 0)
  | some a, none =>
    if fn = 7 then softJob s c x n a
    else
      maskedElement s c x d n [a.at a.z n] fun s =>
        let r := vunElem a.fmt d.fmt fn d.rm (s.elem c a a.z n) v
        (s.putElem c d d.z n r.1, r.2)
  | none, _ =>
    maskedElement s c x d n [] fun s => (s.putElem c d d.z n (vunElem d.fmt d.fmt 8 d.rm 0 v).1, 0)

/-! VRED, VMEM. -/

/-- Result `n` of a VRED (R167): a row, or an element's prefix for VSCAN. -/
def vredJob (s : State) (c : Nat) (x : Cmd) (fn n : Nat) (a : Shape) : State × Cmd :=
  let d := x.dst
  let e0 := a.ext 0
  if fn = 3 then
    elementOf s c x (s.rowBytes c a (n / e0) (n % e0 + 1)) fun s =>
      let r := reduce 3 a.fmt d.fmt d.rm (scanPrefix (n % e0) (s.rowOf c a (n / e0) (n % e0 + 1)))
      (s.putElem c d d.z n r.1, r.2)
  else
    elementOf s c x (s.rowBytes c a n e0) fun s =>
      let r := reduce fn a.fmt d.fmt d.rm (s.rowOf c a n e0)
      (s.putElem c d d.z n r.1, r.2)

/-- Element `n` of a VGATH (R168). -/
def gathJob (s : State) (c : Nat) (x : Cmd) (n : Nat) (a b : Shape) : State × Cmd :=
  let d := x.dst
  let ck := s.checkRanges c x (d.maskAt n ++ (if s.maskBit c d n then [b.at b.z n] else []))
  match ck.2 with
  | some off => (ck.1, { x with bad := some off, ended := true })
  | none =>
    let s := ck.1
    if !s.maskBit c d n then (s, { x with jobs := x.jobs + 1 })
    else
      let v := s.elem c b b.z n
      if v < a.count then elementOf s c x [a.at a.z v] fun s => (s.putElem c d d.z n (s.elem c a a.z v), 0)
      else elementOf s c x [] fun s => (s.putElem c d d.z n 0, fNV)

/-- The first untrusted word a VSCAT would read, with the first table element that it taints: every element for an index, the mask's
elements for a mask byte, and for a value the element whose last writer it is (R168, R369). -/
def State.scatTaint (s : State) (c : Nat) (x : Cmd) (a b : Shape) : State × Option (Nat × Nat) :=
  let d := x.dst
  let idx := s.checkRanges c x ((List.range b.count).map fun n => b.at b.z n)
  match idx.2 with
  | some off => (idx.1, some (0, off))
  | none =>
    let s := idx.1
    let last (v : Nat) : Option Nat := ((List.range b.count).reverse.find? fun n => s.elem c b b.z n == v)
    (List.range d.count).foldl (fun (r : State × Option (Nat × Nat)) v => match r.2 with
      | some _ => r
      | none => match last v with
        | none => r
        | some n =>
          let ck := r.1.checkRanges c x (d.maskAt v ++ [a.at a.z n])
          (ck.1, ck.2.map fun off => (v, off))) (s, none)

/-- Value `n` of a VSCAT (R168): later values stand. -/
def scatStep (s : State) (c : Nat) (d a b : Shape) (n lim : Nat) : State × Flags :=
  let v := s.elem c b b.z n
  if d.count ≤ v then (s, fNV)
  else if v < lim && s.maskBit c d v then (s.putElem c d d.z v (s.elem c a a.z n), 0)
  else (s, 0)

/-- Value `n` of a VSCAT, or, before the first, the stop at an untrusted word. -/
def scatJob (s : State) (c : Nat) (x : Cmd) (n : Nat) (a b : Shape) : State × Cmd :=
  let t := if n = 0 then s.scatTaint c x a b else (s, none)
  match t.2 with
  | some (v, off) =>
    ((List.range a.count).foldl (fun s i => (scatStep s c x.dst a b i v).1) t.1, { x with bad := some off, ended := true })
  | none =>
    let r := scatStep t.1 c x.dst a b n x.dst.count
    (r.1, { x with flags := x.flags ||| r.2, jobs := x.jobs + 1 })

/-! PLANE (R174 to R176). -/

/-- K-blocks of a K extent. -/
def blocksOf (k : Nat) : Nat := (k + 63) / 64
/-- Tile SRAM address of word `i` of block (r, k) of a BPw record (R169). -/
def Shape.block (h : Shape) (r k i : Nat) : Nat := ((h.base : Int) + (k : Int) * h.st.getD 0 0 + (r : Int) * h.st.getD 1 0).toNat + 8 * i
/-- The words of a block's first `w` planes. -/
def State.planes (s : State) (c : Nat) (h : Shape) (r k w : Nat) : List Nat :=
  (List.range w).map fun i => memRead s.mem (tileAddr c (h.block r k i)) 8

/-- Block `n` of a BPPACK: float record a, BPw record d, scale record b. -/
def packJob (s : State) (c : Nat) (x : Cmd) (n : Nat) (a b : Shape) : State × Cmd :=
  let kb := blocksOf (a.ext 0)
  let r := n / kb
  let k := n % kb
  let cols := (List.range (Nat.min 64 (a.ext 0 - 64 * k))).map fun j => a.index (64 * k + j) r
  let w := bpWidth x.dst.fmt
  let f := (fmtFloat a.fmt).getD fp32
  elementOf s c x (cols.map fun i => a.at a.z i) fun s =>
    let vs := cols.map fun i => s.elem c a a.z i
    let e := packScale f x.dst.rm w vs
    let ps := vs.map fun v => if e = 255 then ((0 : Int), (0 : Flags)) else planePack f x.dst.rm e w v
    let words := planeWords w (ps.map (·.1))
    let s := (words.zip (List.range w)).foldl (fun s p => s.putTile c (x.dst.block r k p.2) 8 p.1) s
    (s.putTile c (b.addr n) 1 e, if e = 255 then fNV else ps.foldl (fun (a : Flags) p => a ||| p.2) 0)

/-- Element `n` of a BSCL: its bit of each plane, and with a block's last element the positions above it. -/
def bsclJob (s : State) (c : Nat) (x : Cmd) (n : Nat) (a b : Shape) : State × Cmd :=
  let e0 := a.ext 0
  let r := n / e0
  let col := n % e0
  let k := col / 64
  let j := col % 64
  let w := bpWidth x.dst.fmt
  let sc := b.addr (r * blocksOf e0 + k)
  elementOf s c x [(sc, sc + 1), a.at a.z n] fun s =>
    let e := memRead s.mem (tileAddr c sc) 1
    let p := if e = 255 then ((0 : Int), fSI) else planePack ((fmtFloat a.fmt).getD fp32) x.dst.rm e w (s.elem c a a.z n)
    let last := col + 1 == e0 || j == 63
    let s := (List.range w).foldl (fun s i =>
      let off := x.dst.block r k i
      let old := memRead s.mem (tileAddr c off) 8
      let v := old - old / 2 ^ j % 2 * 2 ^ j + intBits w p.1 / 2 ^ (w - 1 - i) % 2 * 2 ^ j
      if last then s.putTile c off 8 (v % 2 ^ (j + 1)) else s.storeBytes (tileAddr c off) 8 v) s
    (s, p.2)

/-- Element `n` of a BPUNPK; its scale was read at issue. -/
def unpackJob (s : State) (c : Nat) (x : Cmd) (n : Nat) (a : Shape) : State × Cmd :=
  let e0 := x.dst.ext 0
  let r := n / e0
  let k := n % e0 / 64
  let w := bpWidth a.fmt
  let g := (fmtFloat x.dst.fmt).getD fp32
  let e := x.scaleA.getD (r * blocksOf e0 + k) 0
  if 256 ≤ e then (s, { x with bad := some (e - 256), ended := true })
  else
    elementOf s c x (if e = 255 then [] else (List.range w).map fun i => (a.block r k i, a.block r k i + 8)) fun s =>
      if e = 255 then (s.putElem c x.dst x.dst.z n g.nan, fSI)
      else
        let v := planeFloat g x.dst.rm e w (planeInt (s.planes c a r k w) (n % e0 % 64))
        (s.putElem c x.dst x.dst.z n v.1, v.2)

/-! Accumulator slots (R114 to R116, R123 to R126). -/

/-- VAL of a slot as an integer. -/
def State.slotVal (s : State) (c off : Nat) : Int := intOf true 640 (memRead s.mem (tileAddr c off) 80)
/-- Word 10 of a slot. -/
def State.slotFlags (s : State) (c off : Nat) : Nat := memRead s.mem (tileAddr c (off + 80)) 8
/-- The limits of VAL. -/
def slotMax : Int := 2 ^ 639 - 1
/-- Least VAL. -/
def slotMin : Int := -(2 ^ 639)
/-- Write a slot: a sum with at most one clamp, SIV and SAT (R116). -/
def State.writeSlot (s : State) (c off : Nat) (v : Int) (siv sat : Bool) : State × Flags :=
  let past := decide (v < slotMin) || decide (slotMax < v)
  let u := if v < slotMin then slotMin else if slotMax < v then slotMax else v
  let f := (if siv then 1 else 0) + (if sat || past then 2 else 0)
  let n := intBits 640 u + f * 2 ^ 640
  let s := (List.range 16).foldl (fun s i => s.putTile c (off + 8 * i) 8 (n / 2 ^ (64 * i) % 2 ^ 64)) s
  (s, if past then fAO else 0)

/-- Slot `n` of an EZERO. -/
def zeroJob (s : State) (c : Nat) (x : Cmd) (n : Nat) : State × Cmd :=
  elementOf s c x [] fun s => ((s.writeSlot c (x.dst.addr n) 0 false false).1, 0)

/-- Slot `n` of an EACC (R116, R173). -/
def eaccJob (s : State) (c : Nat) (x : Cmd) (n : Nat) (a : Shape) : State × Cmd :=
  let d := x.dst.addr n
  let b := a.addr n
  elementOf s c x [(d, d + 88), (b, b + 88)] fun s =>
    let fd := s.slotFlags c d
    let fs := s.slotFlags c b
    let r := s.writeSlot c d (s.slotVal c d + s.slotVal c b) (fd % 2 == 1 || fs % 2 == 1) (fd / 2 % 2 == 1 || fs / 2 % 2 == 1)
    (r.1, r.2 ||| (if fs % 2 = 1 then fSI else 0))

/-- One round of the stipple generator (R125). -/
def stippleRound (x : List (BitVec 32)) : List (BitVec 32) :=
  match x with
  | [a, b, c, d, k0, k1] =>
    let a := a + b + k0
    let d := (d ^^^ a).rotateLeft 16
    let c := c + d + k1
    let b := (b ^^^ c).rotateLeft 12
    let a := a + b
    let d := (d ^^^ a).rotateLeft 8
    let c := c + d
    let b := (b ^^^ c).rotateLeft 7
    [a, b, c, d, k0 + 0x9E3779B9, k1 + 0xBB67AE85]
  | l => l
/-- Rounds of the generator. -/
def stippleGo : Nat → List (BitVec 32) → List (BitVec 32)
  | 0, x => x
  | n + 1, x => stippleGo n (stippleRound x)
/-- The stipple generator (R125). -/
def stipple (key : Word) (tid row col : Nat) : Nat :=
  let x := stippleGo 8 [BitVec.ofNat 32 col, BitVec.ofNat 32 row, BitVec.ofNat 32 tid, 0x53544950,
    BitVec.ofNat 32 (bits key 31 0), BitVec.ofNat 32 (bits key 63 32)]
  (x.getD 0 0 ^^^ x.getD 2 0).toNat

/-- Element (i, j) is dropped (R126). -/
def DrainRec.drops (r : DrainRec) (tid i j : Nat) : Bool :=
  decide (stipple r.key tid ((r.rowb + i) % 2 ^ 32) ((r.colb + j) % 2 ^ 32) < r.pdrop)
/-- Address of residual element (i, j). -/
def DrainRec.resid (r : DrainRec) (i j : Nat) : Int := r.rbase + (i : Int) * r.rs1 + (j : Int) * r.rs0

/-- The drain of an exact value A = v 2^-320 with a residual and the keep-scale (R123 step 3). -/
def drainValue (g : Fmt) (rm : Nat) (v : Int) (r k : FVal) : Nat × Flags :=
  let sig := sigFlags [r, k]
  if r.isNan || k.isNan then (g.nan, sig)
  else match r with
    | .nan _ => (g.nan, sig)
    | .inf _ => fMulV g rm r k
    | .fin nr mr er =>
      match k with
      | .nan _ => (g.nan, sig)
      | .fin nk mk ek =>
        let t := sumAt (decide (v < 0)) v.natAbs (-320) nr mr er
        let neg := if t.1 = 0 then (if v = 0 && mr == 0 then nr && rm == 3 else rm == 3) else decide (t.1 < 0)
        if t.1 = 0 then (g.zero (neg != nk), 0) else roundFin g rm (neg != nk) (t.1.natAbs * mk) (t.2 + ek)
      | .inf nk =>
        let t := sumAt (decide (v < 0)) v.natAbs (-320) nr mr er
        if t.1 = 0 then (g.nan, fNV) else (g.inf (decide (t.1 < 0) != nk), 0)

/-- Element `n` of an EDRN (R123). -/
def drainJob (s : State) (c : Nat) (x : Cmd) (n : Nat) (a : Shape) (r : DrainRec) : State × Cmd :=
  let d := x.dst
  let g := (fmtFloat d.fmt).getD fp32
  let off := a.addr n
  let j := n % d.ext 0
  let i := n / d.ext 0
  maskedElement s c x d n [(off + 80, off + 88)] fun s =>
    if s.slotFlags c off % 2 = 1 then (s.putElem c d d.z n g.nan, 0)
    else if r.drops d.tid i j then (s.putElem c d d.z n 0, 0)
    else
      let z := fmtBytes r.rfmt
      let res := if r.ren then unpack ((fmtFloat r.rfmt).getD fp32) (memRead s.mem (tileAddr c (r.resid i j).toNat) z)
        else .fin false 0 0
      let v := drainValue g d.rm (s.slotVal c off) res (unpack fp32 r.kscl.toNat)
      (s.putElem c d d.z n v.1, v.2)

/-- The bytes besides word 10 of its slot that element `n` of an EDRN depends on. -/
def drainDeps (s : State) (c : Nat) (x : Cmd) (n : Nat) (a : Shape) (r : DrainRec) : List (Nat × Nat) :=
  let off := a.addr n
  let j := n % x.dst.ext 0
  let i := n / x.dst.ext 0
  if s.slotFlags c off % 2 = 1 || r.drops x.dst.tid i j || !s.maskBit c x.dst n then []
  else (off, off + 80) :: (if r.ren then [((r.resid i j).toNat, (r.resid i j).toNat + fmtBytes r.rfmt)] else [])

/-! One cc. -/

/-- Write the next element, slot or block of a command. -/
def runJob (s : State) (c : Nat) (x : Cmd) : State × Cmd :=
  let n := x.jobs
  match x.op, x.a, x.b with
  | .vop fn, some a, some b => vopJob s c x fn n a b
  | .vun fn v, _, _ => vunJob s c x fn n v
  | .vred fn, some a, _ => vredJob s c x fn n a
  | .vmem 0, some a, some b => gathJob s c x n a b
  | .vmem _, some a, some b => scatJob s c x n a b
  | .plane 0, some a, some b => packJob s c x n a b
  | .plane 1, some a, _ => unpackJob s c x n a
  | .plane _, some a, some b => bsclJob s c x n a b
  | .acc 0, _, _ => zeroJob s c x n
  | .acc 1, some a, _ => eaccJob s c x n a
  | .acc _, some a, _ => (match x.drain with
    | some r =>
      let ck := s.checkRanges c x (drainDeps s c x n a r)
      (match ck.2 with
        | some off => (ck.1, { x with bad := some off, ended := true })
        | none => drainJob ck.1 c x n a r)
    | none => (s, { x with ended := true }))
  | _, _, _ => (s, { x with ended := true })

/-- Elements that are complete once `done` units of work are (R163). -/
def Cmd.ready (x : Cmd) : Nat :=
  let e0 := (x.a.map fun a => a.ext 0).getD 1
  match x.op with
  | .vun 7 _ => x.done / e0 * e0
  | .vred 3 => x.done
  | .vred _ => x.done / e0
  | .plane 0 => x.done / e0 * blocksOf e0 + x.done % e0 / 64
  | .acc 1 => x.done / 2
  | _ => x.done

/-- Write what has become complete. -/
def runJobs (c : Nat) : Nat → State → Cmd → State × Cmd
  | 0, s, x => (s, x)
  | n + 1, s, x => if x.ended || x.ready ≤ x.jobs then (s, x) else
      let r := runJob s c x
      runJobs c n r.1 r.2

/-- A charge to VEB, metered (R162, R291). -/
def State.spend (s : State) (c n : Nat) : State :=
  let w := s.cb c 0x0208
  (s.setCb c 0x0208 (setBits w 63 32 (intBits 32 (intOf true 32 (bits w 63 32) - n)))).meter c 0x0628 n

/-- One cc of a VEB-charged command that runs: its group is charged, and what it completes is written (R162, R163). -/
def State.runGroup (s : State) (c id : Nat) : State :=
  match (s.core c).cmds.find? fun x => x.id == id with
  | none => s
  | some x =>
    if x.ended || !(s.core c).runnable x || (s.cb c 0x0208).toInt < 2 ^ 32 then s
    else
      let g := if x.rate = 0 then 1 else Nat.min x.rate (x.units - x.done)
      let s := s.spend c (if x.rate = 0 then (if x.done % 2 = 1 then x.eu else 0) else g * x.eu)
      let x := { x with done := x.done + g }
      let r := runJobs c (x.ready - x.jobs) s x
      let x := if r.2.units ≤ r.2.done then { r.2 with ended := true } else r.2
      r.1.putCmd c x

/-- `n` cc of the VEB-charged commands of a core. -/
def State.runGroups (s : State) (c : Nat) : Nat → State
  | 0 => s
  | n + 1 =>
    let l := ((s.core c).cmds.filter fun x => x.part != .dense && x.part != .setEngine && !x.ended).map (·.id)
    if l.isEmpty then s else (l.foldl (fun s id => s.runGroup c id) s).runGroups c n

end Sys2Proof.Machine
end

