-- ==== Sys2Proof/Machine/Engine.lean ====
section
/-! DEFINITION. Meanings of the vector and plane instructions (R153 to R168, R174 to R176): their checks at issue, in the order of R154, and
the command they issue. -/
namespace Sys2Proof.Machine

/-- The part that a vector or plane command runs on; `special` for VEXP, VRCP, VRSQ and VSOFT (R153). -/
def vectorPart (core : Nat) (special : Bool) : Part :=
  match tileKind (coreTile core) with
  | .v => .vector
  | .a => if special then .special else .core
  | _ => .core

/-- Elements to a cc and energy units to an element (R163): on the core datapath, on the vector engine or special unit. -/
def paced (x : Cmd) (units slow fast eu : Nat) : Cmd :=
  { x with units := units, rate := (match x.part with
      | .core => slow
      | _ => fast), eu := eu }

/-- Records at their addresses. -/
def recFeet (l : List Nat) : List Foot := l.map recFoot

/-- Footprints of a source's elements, apart from a destination that walks it alike (R160). -/
def srcFeet (d : Shape) (same : Bool) (l : List Shape) : List Foot :=
  (l.filter fun a => !(same && a.sameWalk d)).map fun a => a.elems a.z

/-- Any record: its use sets no further limit. -/
def anyShape (_ : Shape) : Bool := true
/-- The mask must be off (R161). -/
def noMask (h : Shape) : Bool := !h.men

/-- FMTBAD at a record (R87). -/
def fmtOk (b : Bool) (h : Shape) : Chk Unit := need b .fmtbad (BitVec.ofNat 64 h.at_)
/-- SHAPE at a record. -/
def shapeOk (b : Bool) (h : Shape) : Chk Unit := need b .shape (BitVec.ofNat 64 h.at_)

/-! VOP (R164). -/

/-- Formats of a VOP. -/
def vopFormats (fn : Nat) (d a b : Shape) : Chk Unit := do
  if fn = 10 then
    fmtOk (d.fmt == 5) d
    fmtOk (fmtVec a.fmt) a
    fmtOk (b.fmt == a.fmt) b
  else
    let legal := fun f => if 6 ≤ fn ∧ fn ≤ 9 then fmtInt f else fmtVec f
    fmtOk (legal d.fmt) d
    fmtOk (a.fmt == d.fmt) a
    fmtOk (b.fmt == d.fmt) b

/-- Checks of a VOP and its command. -/
def planVop (fn : Nat) (xd xa xb : Word) (s : State) (w : Who) (_c : Ctx) : Chk Plan := do
  let d ← s.readShape w.core xd none fun h => fn != 11 || h.men
  let a ← s.readShape w.core xa none noMask
  let b ← s.readShape w.core xb none noMask
  vopFormats fn d a b
  shapeOk (d.sameExt a && d.sameExt b) d
  let recs := recFeet [d.at_, a.at_, b.at_]
  apart d.at_ [d.elems d.z] (srcFeet d true [a, b] ++ d.masks ++ recs)
  let reads := [a.elems a.z, b.elems b.z] ++ d.masks
  inRange (d.elems d.z :: reads)
  let z := Nat.max d.z a.z
  let x := { Cmd.blank (.vop fn) (vectorPart w.core false) d with a := some a, b := some b }
  pure { cmd := paced x d.count (64 / z) (1024 / z) (z * (if fn = 3 then 2 else 1)), writes := [d.elems d.z], reads := reads, recs := recs }

/-- VOP. -/
def vop (fn : Nat) (d a b : Reg) (s : State) : Out :=
  engine s [d, a, b] false true [d, a, b] fun s w c =>
    planVop fn (s.reg w c d.toNat) (s.reg w c a.toNat) (s.reg w c b.toNat) s w c

/-- VADD (R164). -/
def execVadd (d a b : Reg) (s : State) : Out := vop 0 d a b s
/-- VSUB (R164). -/
def execVsub (d a b : Reg) (s : State) : Out := vop 1 d a b s
/-- VMUL (R164). -/
def execVmul (d a b : Reg) (s : State) : Out := vop 2 d a b s
/-- VFMA (R164). -/
def execVfma (d a b : Reg) (s : State) : Out := vop 3 d a b s
/-- VMIN (R164). -/
def execVmin (d a b : Reg) (s : State) : Out := vop 4 d a b s
/-- VMAX (R164). -/
def execVmax (d a b : Reg) (s : State) : Out := vop 5 d a b s
/-- VAND (R164). -/
def execVand (d a b : Reg) (s : State) : Out := vop 6 d a b s
/-- VOR (R164). -/
def execVor (d a b : Reg) (s : State) : Out := vop 7 d a b s
/-- VXOR (R164). -/
def execVxor (d a b : Reg) (s : State) : Out := vop 8 d a b s
/-- VSHL (R164). -/
def execVshl (d a b : Reg) (s : State) : Out := vop 9 d a b s
/-- VCMP (R164). -/
def execVcmp (d a b : Reg) (s : State) : Out := vop 10 d a b s
/-- VSEL (R164). -/
def execVsel (d a b : Reg) (s : State) : Out := vop 11 d a b s

/-! VUN (R165, R166). -/

/-- Formats of a VUN with one source. -/
def vunFormats (fn : Nat) (d a : Shape) : Chk Unit :=
  match fn with
  | 0 => do
    fmtOk (fmtAny d.fmt) d
    fmtOk (fmtAny a.fmt && a.fmt != d.fmt) a
  | 7 => do
    fmtOk (fmtWide d.fmt) d
    fmtOk (fmtWide a.fmt) a
  | _ => do
    fmtOk (if fn ≤ 3 then fmtWide d.fmt else fmtVec d.fmt) d
    fmtOk (a.fmt == d.fmt) a

/-- Factor and greatest rates of a VUN (R163): f, elements on the core datapath, on a faster part. -/
def vunPace (fn z : Nat) : Nat × Nat × Nat :=
  match fn with
  | 1 => (4, 4, 64)
  | 2 => (4, 4, 64)
  | 3 => (4, 4, 64)
  | 7 => (6, 2, 32)
  | _ => (1, 64 / z, 1024 / z)

/-- Checks of VCVT to VSOFT and the command. -/
def planVun (fn : Nat) (xd xa : Word) (s : State) (w : Who) (_c : Ctx) : Chk Plan := do
  let d ← s.readShape w.core xd none (if fn = 7 then noMask else anyShape)
  let a ← s.readShape w.core xa none (if fn = 7 then anyShape else noMask)
  vunFormats fn d a
  shapeOk (d.sameExt a) d
  let m := if fn = 7 then a.masks else d.masks
  let recs := recFeet [d.at_, a.at_]
  apart d.at_ [d.elems d.z] (srcFeet d true [a] ++ m ++ recs)
  inRange ([d.elems d.z, a.elems a.z] ++ m)
  let p := vunPace fn (Nat.max d.z a.z)
  let special := (1 ≤ fn && decide (fn ≤ 3)) || fn == 7
  let x := { Cmd.blank (.vun fn 0) (vectorPart w.core special) d with a := some a }
  pure { cmd := paced x d.count p.2.1 p.2.2 (Nat.max d.z a.z * p.1), writes := [d.elems d.z], reads := a.elems a.z :: m, recs := recs }

/-- VCVT to VSOFT. -/
def vun (fn : Nat) (d a : Reg) (s : State) : Out :=
  engine s [d, a] false true [d, a] fun s w c => planVun fn (s.reg w c d.toNat) (s.reg w c a.toNat) s w c

/-- VCVT (R165). -/
def execVcvt (d a : Reg) (s : State) : Out := vun 0 d a s
/-- VEXP (R165). -/
def execVexp (d a : Reg) (s : State) : Out := vun 1 d a s
/-- VRCP (R165). -/
def execVrcp (d a : Reg) (s : State) : Out := vun 2 d a s
/-- VRSQ (R165). -/
def execVrsq (d a : Reg) (s : State) : Out := vun 3 d a s
/-- VABS (R165). -/
def execVabs (d a : Reg) (s : State) : Out := vun 4 d a s
/-- VNEG (R165). -/
def execVneg (d a : Reg) (s : State) : Out := vun 5 d a s
/-- VMOV (R165). -/
def execVmov (d a : Reg) (s : State) : Out := vun 6 d a s
/-- VSOFT (R166). -/
def execVsoft (d a : Reg) (s : State) : Out := vun 7 d a s

/-- Checks of VFILL and its command. -/
def planFill (xd v : Word) (s : State) (w : Who) (_c : Ctx) : Chk Plan := do
  let d ← s.readShape w.core xd none anyShape
  fmtOk (fmtVec d.fmt) d
  let recs := recFeet [d.at_]
  apart d.at_ [d.elems d.z] (d.masks ++ recs)
  inRange (d.elems d.z :: d.masks)
  let x := Cmd.blank (.vun 8 v) (vectorPart w.core false) d
  pure { cmd := paced x d.count (64 / d.z) (1024 / d.z) d.z, writes := [d.elems d.z], reads := d.masks, recs := recs }

/-- VFILL (R165): x[a] is the value. -/
def execVfill (d a : Reg) (s : State) : Out :=
  engine s [d, a] false true [d] fun s w c => planFill (s.reg w c d.toNat) (s.reg w c a.toNat) s w c

/-- Checks of VMASK and its command: d's format, BASE and strides are not read. -/
def planMask (xd xa xb : Word) (s : State) (w : Who) (_c : Ctx) : Chk Plan := do
  let d ← s.readShape w.core xd (some 1) fun h => h.men
  let a ← s.readShape w.core xa none noMask
  let b ← s.readShape w.core xb none noMask
  fmtOk (fmtInt a.fmt) a
  fmtOk (fmtInt b.fmt) b
  shapeOk (d.sameExt a && d.sameExt b) d
  let recs := recFeet [d.at_, a.at_, b.at_]
  apart d.at_ d.masks (srcFeet d false [a, b] ++ recs)
  inRange (d.masks ++ [a.elems a.z, b.elems b.z])
  let z := Nat.max a.z b.z
  let x := { Cmd.blank (.vun 9 0) (vectorPart w.core false) d with a := some a, b := some b }
  pure { cmd := paced x d.count (64 / z) (1024 / z) z, writes := d.masks, reads := [a.elems a.z, b.elems b.z], recs := recs }

/-- VMASK (R165). -/
def execVmask (d a b : Reg) (s : State) : Out :=
  engine s [d, a, b] false true [d, a, b] fun s w c =>
    planMask (s.reg w c d.toNat) (s.reg w c a.toNat) (s.reg w c b.toNat) s w c

/-! VRED (R167). -/

/-- Checks of a VRED and its command. -/
def planVred (fn : Nat) (xd xa : Word) (s : State) (w : Who) (_c : Ctx) : Chk Plan := do
  let d ← s.readShape w.core xd none noMask
  let a ← s.readShape w.core xa none anyShape
  fmtOk (fmtVec d.fmt) d
  fmtOk (fmtVec a.fmt && fmtInt a.fmt == fmtInt d.fmt) a
  shapeOk (d.nd == a.nd && d.exts == (if fn = 3 then a.exts else 1 :: a.exts.tail)) d
  let recs := recFeet [d.at_, a.at_]
  apart d.at_ [d.elems d.z] ([a.elems a.z] ++ a.masks ++ recs)
  inRange ([d.elems d.z, a.elems a.z] ++ a.masks)
  let z := Nat.max d.z a.z
  let x := { Cmd.blank (.vred fn) (vectorPart w.core false) d with a := some a }
  pure { cmd := paced x a.count (64 / z) (1024 / z) z, writes := [d.elems d.z], reads := a.elems a.z :: a.masks, recs := recs }

/-- VRED. -/
def vred (fn : Nat) (d a : Reg) (s : State) : Out :=
  engine s [d, a] false true [d, a] fun s w c => planVred fn (s.reg w c d.toNat) (s.reg w c a.toNat) s w c

/-- VSUM (R167). -/
def execVsum (d a : Reg) (s : State) : Out := vred 0 d a s
/-- VMAXR (R167). -/
def execVmaxr (d a : Reg) (s : State) : Out := vred 1 d a s
/-- VMINR (R167). -/
def execVminr (d a : Reg) (s : State) : Out := vred 2 d a s
/-- VSCAN (R167). -/
def execVscan (d a : Reg) (s : State) : Out := vred 3 d a s

/-! VMEM (R168). -/

/-- Checks of VGATH (fn 0) and VSCAT (fn 1) and the command. -/
def planVmem (fn : Nat) (xd xa xb : Word) (s : State) (w : Who) (_c : Ctx) : Chk Plan := do
  let d ← s.readShape w.core xd none anyShape
  let a ← s.readShape w.core xa none noMask
  let b ← s.readShape w.core xb none noMask
  fmtOk (fmtVec d.fmt) d
  fmtOk (a.fmt == d.fmt) a
  fmtOk (fmtUns b.fmt) b
  shapeOk (if fn = 0 then d.sameExt b else true) d
  shapeOk (if fn = 0 then true else a.sameExt b) a
  let recs := recFeet [d.at_, a.at_, b.at_]
  apart d.at_ [d.elems d.z] ([a.elems a.z, b.elems b.z] ++ d.masks ++ recs)
  shapeOk (fn != 0 || !(a.elems a.z).meets (b.elems b.z)) a
  let reads := [a.elems a.z, b.elems b.z] ++ d.masks
  inRange (d.elems d.z :: reads)
  let z := Nat.max d.z b.z
  let x := { Cmd.blank (.vmem fn) (vectorPart w.core false) d with a := some a, b := some b }
  pure { cmd := paced x (if fn = 0 then d.count else a.count) 8 64 (2 * z), writes := [d.elems d.z], reads := reads, recs := recs }

/-- VMEM. -/
def vmem (fn : Nat) (d a b : Reg) (s : State) : Out :=
  engine s [d, a, b] false true [d, a, b] fun s w c =>
    planVmem fn (s.reg w c d.toNat) (s.reg w c a.toNat) (s.reg w c b.toNat) s w c

/-- VGATH (R168). -/
def execVgath (d a b : Reg) (s : State) : Out := vmem 0 d a b s
/-- VSCAT (R168). -/
def execVscat (d a b : Reg) (s : State) : Out := vmem 1 d a b s

/-! Scale bytes (R170). -/

/-- A translation fault, or a translation that must wait for a walk, among the addresses a command uses at issue. -/
inductive Needs
  | ok (l : List Nat)
  | trap (c : Cause) (t : Word)
  | miss (va : Word)
  deriving Repr

/-- Tile SRAM addresses of scale bytes at virtual addresses (R154 step 8, R170). -/
def State.scaleAt (s : State) (w : Who) (c : Ctx) : List Word → Needs
  | [] => .ok []
  | va :: r =>
    match s.xlate w c va .read with
    | .fault cz t => .trap cz t
    | .miss => .miss va
    | .ok pa =>
      let p := s.placeOf (lpaOf pa)
      match s.isLocalPa pa, p with
      | true, .sram k off =>
        if k ≠ w.core ∨ p.inRing then .trap .sramrange va
        else if !s.admits p c.tag .read (lpaOf pa) then .trap .acctbl va
        else (match s.scaleAt w c r with
          | .ok l => .ok (off :: l)
          | x => x)
      | _, _ => .trap .sramrange va

/-- A scale as it is read at issue: the byte, or 256 plus the address of an untrusted word (R369). -/
def State.readScales (s : State) (w : Who) (kind : Nat) : List Nat → State × List Nat
  | [] => (s, [])
  | off :: r =>
    let ck := s.checkTile w kind off (off + 1)
    let v := match ck.2 with
      | some o => 256 + o
      | none => memRead ck.1.mem (tileAddr w.core off) 1
    let x := ck.1.readScales w kind r
    (x.1, v :: x.2)

/-- Addresses of a row-major array of scale bytes, for the rows and the K-blocks computed (R170). -/
def scaleVas (shadow : Word) (rows kb : Nat) (blocks : List Nat) : List Word :=
  ((List.range rows).map fun i => blocks.map fun k => sextN 55 (bits shadow 54 0) + BitVec.ofNat 64 (i * kb + k)).flatten

/-- The scales of both operands, then the command (R170): a walk stalls the instruction, a fault traps, an earlier hold stalls. -/
def withScales (s : State) (w : Who) (c : Ctx) (va vb : List Word) (go : State → List Nat → List Nat → Out) : Out :=
  match s.scaleAt w c (va ++ vb) with
  | .miss v => .next (s.missed w c v)
  | .trap cz t =>
    let s := if cz = .acctbl then (match s.xlate w c t .read with
      | .ok pa => s.logRefusal (.core w.core) c.tag .read (lpaOf pa) (s.src w)
      | _ => s) else s
    trapNow s w c cz t
  | .ok l =>
    match l.find? fun o => s.bytesWait w.core o (o + 1) with
    | some o => .next (s.stallOn w (.bytes w.core o (o + 1)))
    | none =>
      let r := s.readScales w c.srcKind l
      go r.1 (r.2.take va.length) (r.2.drop va.length)

/-! PLANE (R174 to R176). -/

/-- A BPw record (R169, R174): two dimensions, no wrap or mask. DEDUCED (log 58): the limits that R169 sets on K, the rows and AUXK are those of
a matrix operand and do not bind here; unsafe where the hardware applies them. -/
def planeShape (h : Shape) : Bool :=
  h.nd == 1 && !h.wen && !h.men && h.base % 8 == 0 && decide (h.st.getD 0 0 % 8 = 0) && decide (h.st.getD 1 0 % 8 = 0)
/-- Footprint of a BPw record's blocks (R169). -/
def Shape.planeFoot (h : Shape) (w : Nat) : Foot :=
  let x := spread [blocksOf (h.ext 0), h.ext 1] [h.st.getD 0 0, h.st.getD 1 0]
  { lo := h.base + x.1, hi := h.base + x.2 + 8 * w, at_ := h.at_ }
/-- A float record of PLANE: two dimensions, no mask (R174). -/
def floatShape (h : Shape) : Bool := h.nd == 1 && !h.men
/-- A float record and a BPw record agree in their extents (R174). -/
def planeAgree (p f : Shape) : Bool := p.ext 0 == f.ext 0 && p.ext 1 == f.ext 1

/-- Checks of BPPACK (fn 0) and BSCL (fn 2) and the command. -/
def planPack (fn : Nat) (xd xa xb : Word) (s : State) (w : Who) (_c : Ctx) : Chk Plan := do
  let d ← s.readShape w.core xd (some 8) planeShape
  let a ← s.readShape w.core xa none floatShape
  let b ← s.readShape w.core xb (some 1) fun h => h.nd == 1 && !h.wen && !h.men
  fmtOk (bpWidth d.fmt != 0) d
  fmtOk (fmtWide a.fmt) a
  fmtOk (b.fmt == 0x20) b
  shapeOk (planeAgree d a) a
  shapeOk (b.ext 0 == blocksOf (d.ext 0) && b.ext 1 == d.ext 1) b
  let recs := recFeet [d.at_, a.at_, b.at_]
  let foot := d.planeFoot (bpWidth d.fmt)
  let scale := b.elems 1
  let x := { Cmd.blank (.plane fn) (vectorPart w.core false) d with a := some a, b := some b }
  let x := paced x a.count 64 256 (2 * a.z)
  if fn = 0 then
    apart d.at_ [foot, scale] (a.elems a.z :: recs)
    shapeOk (!foot.meets scale) d
    inRange [foot, a.elems a.z, scale]
    pure { cmd := x, writes := [foot, scale], reads := [a.elems a.z], recs := recs }
  else
    apart d.at_ [foot] ([a.elems a.z, scale] ++ recs)
    inRange [foot, a.elems a.z, scale]
    pure { cmd := x, writes := [foot], reads := [a.elems a.z, scale], recs := recs }

/-- BPPACK (R175). -/
def execBppack (d a b : Reg) (s : State) : Out :=
  engine s [d, a, b] false true [d, a, b] fun s w c =>
    planPack 0 (s.reg w c d.toNat) (s.reg w c a.toNat) (s.reg w c b.toNat) s w c
/-- BSCL (R175). -/
def execBscl (d a b : Reg) (s : State) : Out :=
  engine s [d, a, b] false true [d, a, b] fun s w c =>
    planPack 2 (s.reg w c d.toNat) (s.reg w c a.toNat) (s.reg w c b.toNat) s w c

/-- Checks of BPUNPK and its command, its scales apart. -/
def planUnpack (xd xa : Word) (s : State) (w : Who) (_c : Ctx) : Chk Plan := do
  let d ← s.readShape w.core xd none floatShape
  let a ← s.readShape w.core xa (some 8) planeShape
  fmtOk (fmtWide d.fmt) d
  fmtOk (bpWidth a.fmt != 0) a
  shapeOk (planeAgree a d) d
  let recs := recFeet [d.at_, a.at_]
  let foot := a.planeFoot (bpWidth a.fmt)
  apart d.at_ [d.elems d.z] (foot :: recs)
  inRange [d.elems d.z, foot]
  let x := { Cmd.blank (.plane 1) (vectorPart w.core false) d with a := some a }
  pure { cmd := paced x d.count 64 256 (2 * d.z), writes := [d.elems d.z], reads := [foot], recs := recs }

/-- The frame of a command that reads scales (R154, R170): as `engine`, with the auxiliary array that its records name and the scales of its
operands read at issue; an untrusted word of the array taints the whole result (R171, R369). -/
def scaledEngine (s : State) (srcs : List Reg) (blocking veb : Bool) (recs : List Reg) (aux : State → Who → Ctx → List (Nat × Nat))
    (plan : State → Who → Ctx → Chk Plan) (vas : Ctx → Cmd → List Word × List Word) : Out :=
  onCtx s fun w c => needRegs s w c srcs none
    (let act (s : State) (w : Who) (c : Ctx) : Out :=
       readRecords s w c .shape 64 64 (recs.map fun r => s.reg w c r.toNat) fun s =>
         match (aux s w c).find? fun r => s.bytesWait w.core r.1 r.2, plan s w c with
         | some r, _ => .next (s.stallOn w (.bytes w.core r.1 r.2))
         | none, .error (cz, t) => trapNow s w c cz t
         | none, .ok p =>
           let ck := (aux s w c).foldl (fun (x : State × Option Nat) r => match x.2 with
             | some _ => x
             | none => x.1.checkTile w c.srcKind r.1 r.2) (s, none)
           let s := ck.1
           let p : Plan := match ck.2 with
             | some off => { p with cmd := { p.cmd with bad := some off, todo := [] } }
             | none => p
           let v := vas c p.cmd
           withScales s w c v.1 v.2 fun s sa sb =>
             let offs := match s.scaleAt w c (v.1 ++ v.2) with
               | .ok l => l.map fun (o : Nat) => ({ lo := o, hi := o + 1, at_ := p.cmd.dst.at_ } : Foot)
               | _ => []
             if p.writes.any fun f => offs.any fun o => f.meets o then
               trapNow s w c .shape (BitVec.ofNat 64 p.cmd.dst.at_)
             else issueCmd s w c { p with cmd := { p.cmd with scaleA := sa, scaleB := sb, blocking := blocking }, reads := p.reads ++ offs }
     onTile s w c (afterCond s w c ((if blocking then id else roomIn s w c .mx) (let body (s : State) (w : Who) (c : Ctx) : Out := if veb then withVeb s w (act s w c) else act s w c
        if blocking then lockstep s w c srcs none body else outward s w c srcs none body))))

/-- BPUNPK (R176). -/
def execBpunpk (d a : Reg) (s : State) : Out :=
  scaledEngine s [d, a] false true [d, a] (fun _ _ _ => []) (fun s w c => planUnpack (s.reg w c d.toNat) (s.reg w c a.toNat) s w c)
    fun c x => match x.a with
      | some a => (scaleVas c.fmta (a.ext 1) (blocksOf (a.ext 0)) (List.range (blocksOf (a.ext 0))), [])
      | none => ([], [])

end Sys2Proof.Machine
end

