-- ==== Sys2Proof/Machine/Matrix.lean ====
section
/-! DEFINITION. Meanings of the matrix and accumulator instructions (R109 to R124, R169 to R173), the sub-steps of the dense array, and the
completion of every engine command (R122, R156). -/
namespace Sys2Proof.Machine

/-! Accumulator records (R114, R169). -/

/-- Addresses of the slots of an accumulator record, in element order. -/
def Shape.slots (h : Shape) : List Nat := (List.range h.count).map h.addr
/-- A slot address: aligned, in bank 11 (R114). -/
def slotAt (a : Int) : Bool := decide (a % 128 = 0) && decide (0x2C0000 ≤ a) && decide (a < 0x300000)
/-- No value stands twice in a list. -/
def distinct : List Nat → Bool
  | [] => true
  | x :: r => !r.contains x && distinct r
/-- The accumulator rules of R169: two dimensions, no wrap, mask or auxiliary array, slots of their own in bank 11. -/
def Shape.accumulator (h : Shape) : Bool :=
  h.nd == 1 && !h.wen && !h.men && h.auxk == 0 && decide (h.count ≤ 2048)
    && ((List.range h.count).all fun n => slotAt (h.raw n)) && distinct h.slots
/-- Read an accumulator record. -/
def State.readAcc (s : State) (c : Nat) (a : Word) : Chk Shape := do
  s.readShape c a (some 1) Shape.accumulator

/-! MX (R169 to R172). -/

/-- Auxiliary kind a form needs of operand A: MXA, MXAG, MXSP. -/
def auxOf (fn : Nat) : Nat := fn
/-- Bytes of the auxiliary array of an operand record, as far as they can be told (R171). -/
def State.auxRange (s : State) (c : Nat) (a : Word) : List (Nat × Nat) :=
  if Config.sramBytes ≤ a.toNat + 64 then []
  else
    let h := shapeOf a.toNat (s.recWords c a.toNat 8)
    let n := match h.auxk with
      | 1 => 2 + 2 * memRead s.mem (tileAddr c h.aux) 2
      | 2 => (blocksOf (h.ext 0) + 7) / 8
      | _ => 0
    if n = 0 ∨ Config.sramBytes < h.aux + n then [] else [(h.aux, h.aux + n)]

/-- The K-blocks of a command (R171, R172). -/
def State.blockList (s : State) (c fn : Nat) (a : Shape) (kb : Nat) : Chk (List Nat × List Foot) :=
  let t := BitVec.ofNat 64 a.at_
  let half (i : Nat) : Nat := memRead s.mem (tileAddr c (a.aux + 2 * i)) 2
  match fn with
  | 0 => pure (List.range kb, [])
  | 1 => do
    need (a.aux % 2 == 0) .shape t
    need (inSram a.aux (a.aux + 2)) .sramrange t
    let g := half 0
    need (1 ≤ g && decide (g ≤ 256)) .shape t
    need (inSram a.aux (a.aux + 2 + 2 * g)) .sramrange t
    let l := (List.range g).map fun i => half (i + 1)
    need (l.all fun k => decide (k < kb)) .shape t
    pure (l, [{ lo := a.aux, hi := a.aux + 2 + 2 * g, at_ := a.at_ }])
  | _ => do
    need (a.aux % 8 == 0) .shape t
    let n := (kb + 7) / 8
    need (inSram a.aux (a.aux + n)) .sramrange t
    pure (upTo kb fun k => memRead s.mem (tileAddr c (a.aux + k / 8)) 1 / 2 ^ (k % 8) % 2 == 1,
      [{ lo := a.aux, hi := a.aux + n, at_ := a.at_ }])

/-- An operand record (R169). -/
def Shape.operand (h : Shape) (aux : Nat) : Bool :=
  h.nd == 1 && decide (h.ext 0 ≤ 16384) && decide (h.ext 1 ≤ 32) && !h.wen && !h.men && h.auxk == aux

/-- Checks of a matrix command and the command, its scales apart. DESIGN CHOICE (log 32): an auxiliary array's alignment, blocks and place are
checked before the overlap of step 5 (R154, R171). -/
def planMx (fn : Nat) (xd xa xb : Word) (s : State) (w : Who) (c : Ctx) : Chk Plan := do
  let d ← s.readAcc w.core xd
  let a ← s.readShape w.core xa (some 8) fun h => h.operand (auxOf fn)
  let b ← s.readShape w.core xb (some 8) fun h => h.operand 0
  let wsa := bpWidth (bits c.fmta 63 58)
  let wsb := bpWidth (bits c.fmtb 63 58)
  need (wsa != 0) .fmtbad c.fmta
  need (wsb != 0) .fmtbad c.fmtb
  shapeOk (a.ext 0 == b.ext 0) b
  shapeOk (d.ext 0 == b.ext 1 && d.ext 1 == a.ext 1) d
  let bl ← s.blockList w.core fn a (blocksOf (a.ext 0))
  let recs := recFeet [d.at_, a.at_, b.at_]
  let fa := a.planeFoot wsa
  let fb := b.planeFoot wsb
  apart d.at_ [d.elems 128] ([fa, fb] ++ bl.2 ++ recs)
  inRange [fa, fb]
  let wa := bits (c.prec.setWidth 64) 7 4 + 1
  let wb := bits (c.prec.setWidth 64) 3 0 + 1
  need (decide (wa ≤ wsa) && decide (wb ≤ wsb)) .mxprec (c.prec.setWidth 64)
  let x := { Cmd.blank (.mx bl.1) .dense d with
    a := some a, b := some b, wa := wa, wb := wb, wsa := wsa, wsb := wsb
    sums := (List.range d.count).map fun _ => { s := 0, n := 0, q := none, siv := false, bad := none }
    todo := List.range bl.1.length }
  pure { cmd := x, writes := [d.elems 128], reads := [fa, fb] ++ bl.2, recs := recs }

/-- A dense array on D and A tiles only (R153). -/
def onDense (s : State) (w : Who) (c : Ctx) (k : Out) : Out :=
  if isTile w.core && (tileKind (coreTile w.core) == .d || tileKind (coreTile w.core) == .a) then k
  else trapNow s w c .engfault s.irWord

/-- Addresses of the scales a matrix command reads. -/
def mxScales (c : Ctx) (x : Cmd) : List Word × List Word :=
  match x.op, x.a, x.b with
  | .mx l, some a, some b =>
    (scaleVas c.fmta (a.ext 1) (blocksOf (a.ext 0)) l, scaleVas c.fmtb (b.ext 1) (blocksOf (b.ext 0)) l)
  | _, _, _ => ([], [])

/-- A matrix command; an auxiliary array is read at issue as the records are, but an untrusted word of it taints every slot (R171,
R369). -/
def mxCommand (fn : Nat) (d a b : Reg) (bw : BitVec 1) (s : State) : Out :=
  onCtx s fun w c => needRegs s w c [d, a, b] none (onDense s w c
    (scaledEngine s [d, a, b] (bw == 1) false [d, a, b] (fun s w c => s.auxRange w.core (s.reg w c a.toNat))
      (planMx fn (s.reg w c d.toNat) (s.reg w c a.toNat) (s.reg w c b.toNat)) mxScales))

/-- MXA (R172). -/
def execMxa (d a b : Reg) (bw : BitVec 1) (s : State) : Out := mxCommand 0 d a b bw s
/-- MXAG (R172). -/
def execMxag (d a b : Reg) (bw : BitVec 1) (s : State) : Out := mxCommand 1 d a b bw s
/-- MXSP (R172). -/
def execMxsp (d a b : Reg) (bw : BitVec 1) (s : State) : Out := mxCommand 2 d a b bw s

/-! Sub-steps (R109, R113, R115, R117, R121). -/

/-- Pace of a dense array at a holding, in bit-operations per cc (R113). -/
def densePace (k : TileKind) (t : Nat) : Nat :=
  match k with
  | .a => if t = 7 then 65536 else 8192 * t
  | _ => 16384 * t

/-- Charge of one sub-step (R112). -/
def Cmd.charge (x : Cmd) : Nat := 65536 * x.wa * x.wb

/-- The block product (R109) of two blocks whose planes are read, over the positions below K. -/
def blockProduct (pa pb : List Nat) (k kk : Nat) : Int :=
  (List.range 64).foldl (fun (t : Int) j => if 64 * k + j < kk then t + planeInt pa j * planeInt pb j else t) 0

/-- Add a product at a position: to the near accumulator, or after a flush (R117). -/
def OutSum.add (o : OutSum) (p : Int) (at_ : Nat) : OutSum :=
  match o.q with
  | none => { o with n := p, q := some at_ }
  | some q =>
    if q ≤ at_ ∧ at_ ≤ q + 48 then { o with n := o.n + p * (2 ^ (at_ - q) : Nat) }
    else { o with s := o.s + o.n * (2 ^ q : Nat), n := p, q := some at_ }
/-- The sum after the last flush. -/
def OutSum.total (o : OutSum) : Int :=
  match o.q with
  | none => o.s
  | some q => o.s + o.n * (2 ^ q : Nat)

/-- The first untrusted word among a block's planes, for each of some rows. -/
def State.checkBlocks (s : State) (c : Nat) (x : Cmd) (h : Shape) (k wd : Nat) : List Nat → State × List (Option Nat)
  | [] => (s, [])
  | r :: l =>
    let ck := s.checkRanges c x ((List.range wd).map fun i => (h.block r k i, h.block r k i + 8))
    let y := ck.1.checkBlocks c x h k wd l
    (y.1, ck.2 :: y.2)

/-- One output in one sub-step: marked SIV, whatever else the block holds, or tainted, or added to (R121, R369). -/
def OutSum.step (o : OutSum) (x : Cmd) (ea eb : Nat) (bad : Option Nat) (p : Int) : OutSum :=
  if o.bad.isSome then o
  else if ea = 255 ∨ eb = 255 then { o with siv := true }
  else match bad with
  | some a => { o with bad := some a }
  | none =>
    if 256 ≤ ea then { o with bad := some (ea - 256) }
    else if 256 ≤ eb then { o with bad := some (eb - 256) }
    else o.add p (ea + eb + 68 - x.wa - x.wb)

/-- A sub-step: one K-block over the whole output (R112, R172). -/
def State.subStep (s : State) (c : Nat) (x : Cmd) (a b : Shape) (blocks : List Nat) (t : Nat) : State × Cmd :=
  let k := blocks.getD t 0
  let m := a.ext 1
  let n := b.ext 1
  let ra := s.checkBlocks c x a k x.wa (List.range m)
  let rb := ra.1.checkBlocks c x b k x.wb (List.range n)
  let s := rb.1
  let pa := (List.range m).map fun i => s.planes c a i k x.wa
  let pb := (List.range n).map fun j => s.planes c b j k x.wb
  let sums := (x.sums.zip (List.range x.sums.length)).map fun (y : OutSum × Nat) =>
    let i := y.2 / n
    let j := y.2 % n
    let bad := match (ra.2.getD i none) with
      | some o => some o
      | none => rb.2.getD j none
    OutSum.step y.1 x (x.scaleA.getD (i * blocks.length + t) 0) (x.scaleB.getD (j * blocks.length + t) 0) bad
      (blockProduct (pa.getD i []) (pb.getD j []) k (a.ext 0))
  (s, { x with sums := sums, todo := x.todo.tail })

/-- The command that a core's dense array runs. -/
def Core.denseCmd (k : Core) : Option Cmd := (k.cmds.find? fun x => x.part == .dense).filter fun x => k.runnable x

/-- A sub-step may start: the tile holds tokens and the credit covers its charge (R113). -/
def State.mayStep (s : State) (c : Nat) : Bool :=
  match (s.core c).denseCmd with
  | none => false
  | some x => !x.todo.isEmpty && decide (x.charge ≤ (s.core c).credit) && (s.tok c).hold != 0

/-- A sub-step of command `x` whose residue check comes out as the core's next one does (R369). A first failure leaves the sub-step to be
made and charged again; a second is ENGUE, and every slot of the command has SIV; a second pass that succeeds is logged. -/
def State.checkedStep (s : State) (c : Nat) (x : Cmd) (a b : Shape) (l : List Nat) (t : Nat) : State :=
  let w := x.who c
  let fails := (s.core c).residue.headD false
  let s := s.modCore c fun k => { k with residue := k.residue.tail }
  if fails then
    if x.again then
      let y := { x with again := false, todo := x.todo.tail, sums := x.sums.map fun (o : OutSum) => { o with siv := true } }
      let s := s.putCmd c y
      let kind := ((s.ctx? w).map Ctx.srcKind).getD 0
      s.report (coreRet c) 12 { kind := kind, who := some w } (coreTile c) 0 0 0 0
    else s.putCmd c { x with again := true }
  else
    let r := s.subStep c x a b l t
    let s := r.1.putCmd c { r.2 with again := false }
    if x.again then
      (s.logEntry (coreRet c)
        { cls := 12, kind := ((s.ctx? w).map Ctx.srcKind).getD 0, act := 0, ret := coreRet c, tile := coreTile c, slot := x.slot,
          gen := x.gen.toNat, addr := 0, ak := 0, code := 0, detail := 0 }).1
    else s

/-- DENSE_SUBSTEP (R113): the charge is taken and metered (R291), and a changed holding applies from here on. -/
def execDenseSubstep (s : State) : Out :=
  match s.ev with
  | some (.denseSubstep c) =>
    .next (match (s.core c).denseCmd with
      | none => s
      | some x =>
        match x.op, x.a, x.b, x.todo with
        | .mx l, some a, some b, t :: _ =>
          if !s.mayStep c then s
          else
            let s := s.modCore c fun k => { k with credit := k.credit - x.charge }
            let s := (s.meter c 0x0620 x.charge).takePace c
            s.checkedStep c x a b l t
        | _, _, _, _ => s)
  | _ => .next s

/-- `n` cc of credit for a dense array that runs a command, at the holding of its last sub-step boundary. It stands at a boundary when its
credit covers the next sub-step, or when it has no pace, and takes its holding there; without tokens it stops there with its credit (R113). -/
def State.gainCredit (s : State) (c n : Nat) : State :=
  match (s.core c).denseCmd with
  | none => s
  | some x =>
    if x.todo.isEmpty then s
    else
      let s := if (s.core c).pace = 0 || decide (x.charge ≤ (s.core c).credit) then s.takePace c else s
      s.modCore c fun k => { k with credit := k.credit + n * densePace (tileKind (coreTile c)) k.pace }

/-! ACC (R173). -/

/-- Energy of a slot or element of ACC (R163). -/
def slotEu : Nat := 16

/-- Checks of EZERO and its command. -/
def planEzero (xd : Word) (s : State) (w : Who) (_c : Ctx) : Chk Plan := do
  let d ← s.readAcc w.core xd
  let recs := recFeet [d.at_]
  apart d.at_ [d.elems 128] recs
  let x := { Cmd.blank (.acc 0) .accPort d with units := d.count, rate := 1, eu := slotEu }
  pure { cmd := x, writes := [d.elems 128], reads := [], recs := recs }

/-- EZERO (R173). -/
def execEzero (d : Reg) (s : State) : Out :=
  engine s [d] false true [d] fun s w c => planEzero (s.reg w c d.toNat) s w c

/-- Checks of EACC and its command. -/
def planEacc (xd xa : Word) (s : State) (w : Who) (_c : Ctx) : Chk Plan := do
  let d ← s.readAcc w.core xd
  let a ← s.readAcc w.core xa
  shapeOk (d.sameExt a) d
  shapeOk (d.slots.all fun n => !a.slots.contains n) d
  let recs := recFeet [d.at_, a.at_]
  apart d.at_ [d.elems 128] (a.elems 128 :: recs)
  let x := { Cmd.blank (.acc 1) .accPort d with a := some a, units := 2 * d.count, rate := 0, eu := slotEu }
  pure { cmd := x, writes := [d.elems 128], reads := [a.elems 128], recs := recs }

/-- EACC (R173). -/
def execEacc (d a : Reg) (s : State) : Out :=
  engine s [d, a] false true [d, a] fun s w c => planEacc (s.reg w c d.toNat) (s.reg w c a.toNat) s w c

/-- A drain record (R124). -/
def State.readDrain (s : State) (c : Nat) (a : Word) : Chk (Nat × DrainRec) := do
  let l := s.recWords c a.toNat 8
  let w (i : Nat) : Word := l.getD i 0
  need (bits (w 0) 62 57 == 0 && bits (w 0) 50 22 == 0 && w 5 == 0 && w 6 == 0 && w 7 == 0) .shape a
  pure (a.toNat,
    { ren := bit (w 0) 63, rfmt := bits (w 0) 56 51, rbase := bits (w 0) 21 0, rs1 := stride (w 1) true, rs0 := stride (w 1) false
      kscl := BitVec.ofNat 32 (bits (w 2) 63 32), pdrop := bits (w 2) 31 0, key := w 3
      rowb := bits (w 4) 63 32, colb := bits (w 4) 31 0 })

/-- Every residual element lies in the tile's SRAM outside the save ring (R124). -/
def DrainRec.inside (r : DrainRec) (cols rows : Nat) : Bool :=
  !r.ren || ((List.range (cols * rows)).all fun n =>
    let a := r.resid (n / cols) (n % cols)
    inSram a (a + fmtBytes r.rfmt))

/-- Footprint of the residual elements, where there are any. -/
def DrainRec.feet (r : DrainRec) (at_ cols rows : Nat) : List Foot :=
  if r.ren then
    let x := spread [cols, rows] [r.rs0, r.rs1]
    [{ lo := r.rbase + x.1, hi := r.rbase + x.2 + fmtBytes r.rfmt, at_ := at_ }]
  else []

/-- Checks of EDRN and its command. -/
def planEdrn (xd xa xb : Word) (s : State) (w : Who) (_c : Ctx) : Chk Plan := do
  let d ← s.readShape w.core xd none anyShape
  let a ← s.readAcc w.core xa
  let r ← s.readDrain w.core xb
  fmtOk (fmtWide d.fmt) d
  need (!r.2.ren || r.2.rfmt == 9 || r.2.rfmt == 11) .fmtbad (BitVec.ofNat 64 r.1)
  shapeOk (d.sameExt a) d
  let recs := recFeet [d.at_, a.at_, r.1]
  let res := r.2.feet r.1 (d.ext 0) (d.ext 1)
  apart d.at_ [d.elems d.z] ([a.elems 128] ++ res ++ d.masks ++ recs)
  inRange ([d.elems d.z] ++ d.masks)
  need (r.2.inside (d.ext 0) (d.ext 1)) .sramrange (BitVec.ofNat 64 r.1)
  let x := { Cmd.blank (.acc 2) .accPort d with a := some a, drain := some r.2, units := d.count, rate := 1, eu := slotEu }
  pure { cmd := x, writes := [d.elems d.z], reads := [a.elems 128] ++ res ++ d.masks, recs := recs }

/-- EDRN (R123, R173). -/
def execEdrn (d a b : Reg) (s : State) : Out :=
  engine s [d, a, b] false true [d, a, b] fun s w c =>
    planEdrn (s.reg w c d.toNat) (s.reg w c a.toNat) (s.reg w c b.toNat) s w c

/-- EREAD (R173): a load of the tile's own SRAM, which waits on the scoreboard; by a pair a read (R374). -/
def execEread (d a b : Reg) (s : State) : Out :=
  onCtx s fun w c => needRegs s w c [a, b] (some d) (onTile s w c
    (let va := s.reg w c a.toNat
     let i := s.reg w c b.toNat
     let off := va.toNat + 8 * i.toNat
     let at_ : Word := BitVec.ofNat 64 off
     if !slotAt va.toNat || decide (10 < i.toNat) then trapNow s w c .shape va
     else match c.role with
       | .top p => topRead s w c p d at_ 8
       | _ =>
         afterCond s w c (roomIn s w c .ld
           (let pa := s.paOf (tileAddr w.core off)
            let op : MemOp := .load 3 false
            localCheck s w c op at_ pa fun s =>
              performRead s w c at_ 8 none fun s id => s.launch w op pa (some d) (s.request w c op at_ pa 0 0 (some d) id)))))

/-! Completion (R116, R122, R156, R369). -/

/-- Write the slots of a matrix command in element order, up to the first tainted one: its flags, and the untrusted word (R116, R121,
R369). -/
def State.writeSums (s : State) (c : Nat) (x : Cmd) : List (Nat × OutSum) → Flags → State × Flags × Option Nat
  | [], f => (s, f, none)
  | (off, o) :: r, f =>
    match o.bad with
    | some a => (s, f, some a)
    | none =>
      let ck := s.checkRanges c x [(off, off + 88)]
      match ck.2 with
      | some a => (ck.1, f, some a)
      | none =>
        let s := ck.1
        let g := s.slotFlags c off
        let y := s.writeSlot c off (s.slotVal c off + o.total) (o.siv || g % 2 == 1) (g / 2 % 2 == 1)
        y.1.writeSums c x r (f ||| y.2 ||| (if o.siv then fSI else 0))

/-- A command has nothing left to do. -/
def Cmd.over_ (x : Cmd) : Bool :=
  match x.part with
  | .dense => x.todo.isEmpty
  | _ => x.ended

/-- A command that runs and has nothing left to do completes. -/
def Core.completes (k : Core) (x : Cmd) : Bool := k.runnable x && x.over_

/-- Results of a command at its completion: what it still writes, its flags, an untrusted word. -/
def State.lastWrites (s : State) (c : Nat) (x : Cmd) : State × Flags × Option Nat :=
  match x.op with
  | .mx l => (match x.bad with
    | some a => (s, 0, some a)
    | none => if l.isEmpty then (s, 0, none) else s.writeSums c x (x.dst.slots.zip x.sums) 0)
  | _ => (s, x.flags, x.bad)

/-- Integer OV, which never traps (R128): VCVT between integers. -/
def Cmd.intOv (x : Cmd) : Bool :=
  match x.op with
  | .vun 0 _ => fmtInt x.dst.fmt
  | _ => false

/-- The issuer's share of a completion: the counter falls or the park ends, flags are raised, traps become pending. -/
def State.creditIssuer (s : State) (w : Who) (x : Cmd) (f : Flags) (bad : Option Nat) : State :=
  let s := s.modCtx w fun c =>
    let c := (c.done x.id).engineFlags f x.intOv x.dst.at_
    match bad with
    | some off => c.lateTrap .uesram (BitVec.ofNat 64 off)
    | none => c
  let s := match (s.ctx? w).bind Ctx.partner with
    | some p => s.modCtx { core := w.core, slot := p } fun t => t.raise (((s.ctx? w).map fun c => BitVec.ofNat 6 (c.pw.toNat / 2 ^ 16)).getD 0)
    | none => s
  if x.blocking then
    (match (s.ctx? w).bind Ctx.inPark with
      | some (.matrix id) => if id = x.id then s.completed w else s
      | _ => s)
  else s

/-- Completion of a command of any part but the set engine. -/
def State.finishCmd (s : State) (c : Nat) (x : Cmd) : State :=
  let w := x.who c
  let g := s.gen w
  let r := s.lastWrites c x
  let s := r.1.dropCmd c x.id
  let s := if x.part = .dense then (s.modCore c fun k => { k with credit := 0 }).takePace c else s
  if s.gen w = g then s.creditIssuer w x r.2.1 r.2.2 else s

end Sys2Proof.Machine
end

