-- ==== Sys2Proof/Machine/Streams.lean ====
section
/-! DEFINITION. Streams and the set engine (R177 to R181), and the event by which an engine command completes (R122). -/
namespace Sys2Proof.Machine

/-- A stream register of a core. -/
def State.stream (s : State) (c i : Nat) : Stream := (mget (s.core c).streams i).getD Stream.reset
/-- Replace a stream register; one at its reset value is not listed. -/
def State.setStream (s : State) (c i : Nat) (x : Stream) : State :=
  s.modCore c fun k => { k with streams := mset Stream.reset i x k.streams }
/-- A context owns a stream (R178). -/
def State.owns (s : State) (w : Who) (i : Nat) : Bool :=
  let x := s.stream w.core i
  x.isOpen && x.slot == w.slot && x.gen == s.gen w
/-- A stream is owned by another context. -/
def State.ownedElsewhere (s : State) (w : Who) (i : Nat) : Bool := (s.stream w.core i).isOpen && !s.owns w i
/-- Bytes of a stream's keys. -/
def Stream.z (x : Stream) : Nat := fmtBytes x.fmt
/-- Virtual address of key `n`. -/
def Stream.key (x : Stream) (n : Nat) : Word := x.va + BitVec.ofNat 64 (n * x.z)

/-- A stream record at an address that is checked: format, VA, LEN (R177). -/
def State.readStream (s : State) (c : Nat) (a : Word) : Chk Stream := do
  let l := s.recWords c a.toNat 8
  let w (i : Nat) : Word := l.getD i 0
  need (bits (w 0) 57 0 == 0 && bits (w 2) 63 32 == 0 && ([3, 4, 5, 6, 7].all fun i => w i == 0)) .shape a
  let f := bits (w 0) 63 58
  need (f == 7 || f == 8) .fmtbad a
  let x : Stream := { Stream.reset with va := w 1, len := bits (w 2) 31 0, fmt := f }
  need ((w 1).toNat % x.z == 0 && (x.len == 0 || canonical (w 1))) .streamerr (w 1)
  need (x.len == 0 || decide (2 ^ 54 ≤ (w 1).toNat) || decide ((w 1).toNat + (x.len - 1) * x.z < 2 ^ 54)) .streamerr
    (BitVec.ofNat 64 (2 ^ 54))
  pure x

/-- SSOPEN (R179). -/
def execSsopen (sd : BitVec 3) (a : Reg) (s : State) : Out :=
  onCtx s fun w c => needRegs s w c [a] none (onTile s w c (afterCond s w c (outward s w c [a] none fun s w c =>
    (if c.kind = .migrant ∨ s.ownedElsewhere w sd.toNat then trapNow s w c .streamerr s.irWord
     else
       let va := s.reg w c a.toNat
       readRecords s w c .shape 64 64 [va] fun s =>
         match s.readStream w.core va with
         | .error (cz, t) => trapNow s w c cz t
         | .ok x =>
           recordAdmitted s w c va.toNat 64
             (.next ((s.setStream w.core sd.toNat { x with isOpen := true, slot := w.slot, gen := s.gen w }).finish w 1 8))))))

/-- SSCLOSE (R179). -/
def execSsclose (sd : BitVec 3) (s : State) : Out :=
  onCtx s fun w c => onTile s w c (afterCond s w c (outward s w c [] none fun s w c =>
    (if s.ownedElsewhere w sd.toNat then trapNow s w c .streamerr s.irWord
     else if !(s.stream w.core sd.toNat).isOpen then .next (s.finish w 1 8)
     else .next ((s.setStream w.core sd.toNat { s.stream w.core sd.toNat with isOpen := false, rs := false }).finish w 1 8))))

/-- An address is that of a key of a stream, or of its end. -/
def Stream.hasKey (x : Stream) (va : Word) : Bool :=
  (va - x.va).toNat % x.z == 0 && decide ((va - x.va).toNat ≤ x.len * x.z)

/-- SSNEXT (R179): a load of the next key, or the end marker. By a pair it is a read, which moves the stream once (R374); DEDUCED
(log 62): a topcoat takes the value of the entry before it if that is a key of the stream it names. -/
def execSsnext (d : Reg) (sd : BitVec 3) (s : State) : Out :=
  onCtx s fun w c => needRegs s w c [] (some d) (onTile s w c
    (let x := s.stream w.core sd.toNat
     match c.role with
     | .top p => takeRead s w c p d x.hasKey x.z
     | _ => afterCond s w c
       (if !s.owns w sd.toNat then afterQueue s w c (trapNow s w c .streamerr s.irWord)
        else
          let va := x.key x.pos
          if x.len ≤ x.pos then
            performRead s w c va x.z (some onesW) fun s _ =>
              (s.setStream w.core sd.toNat { x with rs := false }).setReg w c d.toNat onesW
          else
            let op : MemOp := .load (if x.fmt = 7 then 2 else 3) false
            roomIn s w c .ld (checked s w c op .read va false fun s pa =>
              performRead s w c va x.z none fun s id =>
                (s.setStream w.core sd.toNat { x with rs := false, pos := x.pos + 1 }).launch w op pa (some d)
                  (s.request w c op va pa 0 0 (some d) id)))))

/-- SSPOS (R179). -/
def execSspos (d : Reg) (sd : BitVec 3) (s : State) : Out :=
  onCtx s fun w c => needRegs s w c [] (some d) (onTile s w c (afterCond s w c (outward s w c [] (some d) fun s w c =>
    (if !s.owns w sd.toNat then trapNow s w c .streamerr s.irWord
     else
       let x := s.stream w.core sd.toNat
       .next ((s.setReg w c d.toNat (BitVec.ofNat 64 (x.cnt * 2 ^ 32 + x.pos))).finish w 1 8)))))

/-! The set engine (R180, R181). -/

/-- Both streams of a set command are the context's own, two streams of one format (R180). -/
def State.streamsOk (s : State) (w : Who) (sa sb : Nat) : Bool :=
  s.owns w sa && s.owns w sb && sa != sb && (s.stream w.core sa).fmt == (s.stream w.core sb).fmt

/-- Checks of a set command's record and the command. -/
def planSet (fn sa sb : Nat) (xd : Word) (s : State) (w : Who) (_c : Ctx) : Chk Plan := do
  let a := s.stream w.core sa
  let d ← s.readShape w.core xd none fun h => h.nd == 0 && !h.men
  fmtOk (d.fmt == a.fmt) d
  let recs := recFeet [d.at_]
  apart d.at_ [d.elems d.z] recs
  inRange [d.elems d.z]
  let x := { Cmd.blank (.set fn sa sb) .setEngine d with blocking := true, out := if a.rs then a.cnt else 0 }
  pure { cmd := x, writes := [d.elems d.z], reads := [], recs := recs }

/-- A set command on an S tile (R153). -/
def setCommand (fn : Nat) (d : Reg) (sa sb : BitVec 3) (s : State) : Out :=
  onCtx s fun w c => needRegs s w c [d] none
    (if !isTile w.core || tileKind (coreTile w.core) != .s then trapNow s w c .engfault s.irWord
     else afterCond s w c (lockstep s w c [d] none fun s w c =>
       (if !s.streamsOk w sa.toNat sb.toNat then trapNow s w c .streamerr s.irWord
        else readRecords s w c .shape 64 64 [s.reg w c d.toNat] fun s =>
         match planSet fn sa.toNat sb.toNat (s.reg w c d.toNat) s w c with
         | .error (cz, t) => trapNow s w c cz t
         | .ok p =>
           match issueCmd s w c p with
           | .next s' =>
             if (s'.core w.core).cmds.length = (s.core w.core).cmds.length then .next s'
             else
               let s' := s'.setStream w.core sa.toNat { s'.stream w.core sa.toNat with rs := false }
               .next (s'.setStream w.core sb.toNat { s'.stream w.core sb.toNat with rs := false })
           | r => r)))

/-- SISECT (R180). -/
def execSisect (d : Reg) (sa sb : BitVec 3) (s : State) : Out := setCommand 4 d sa sb s
/-- SIMERGE (R180). -/
def execSimerge (d : Reg) (sa sb : BitVec 3) (s : State) : Out := setCommand 5 d sa sb s

/-- Ask for a key of a stream as a load of the issuing context (R180); a fault stops the command. The engine's walk is made at once. -/
def State.askKey (s : State) (c : Nat) (x : Cmd) (st : Nat) (isA : Bool) : State × Cmd :=
  let w := x.who c
  let k := s.stream c st
  let va := k.key k.pos
  let fail (cz : Cause) (t : Word) : Cmd := { x with stop := some (cz, t), ended := true }
  match s.ctx? w with
  | none => (s, { x with ended := true })
  | some cx =>
    let s := match s.xlate w cx va .read with
      | .miss => s.walkEnd { core := c, slot := w.slot, gen := s.gen w, part := cx.part, asid := cx.asid, va := va, mode := cx.mode,
                             install := true }
      | _ => s
    match s.xlate w ((s.ctx? w).getD cx) va .read with
    | .fault cz t => (s, fail cz t)
    | .miss => (s, fail .pgnp va)
    | .ok pa =>
      match s.reachTrap w cx pa with
      | some cz => (s, fail cz va)
      | none =>
        let id := s.ids
        let a : Access := { s.request w cx (.load (if k.fmt = 7 then 2 else 3) false) va pa 0 0 none id with dst := .setKey st, granted := false }
        let x := { x with req := some (id, isA) }
        let s := ({ s with ids := id + 1 } : State).putCmd c x
        (s.send a, x)

/-- Move a stream past a key. -/
def State.advance (s : State) (c st : Nat) : State :=
  let k := s.stream c st
  (s.setStream c st { k with pos := k.pos + 1 }).meter c 0x0630 1
/-- The outputs so far, in both streams (R180). -/
def State.setCounts (s : State) (c sa sb n : Nat) : State :=
  let s := s.setStream c sa { s.stream c sa with cnt := n }
  s.setStream c sb { s.stream c sb with cnt := n }
/-- Write an output. -/
def State.output (s : State) (c : Nat) (x : Cmd) (sa sb : Nat) (v : Word) : State :=
  (s.putElem c x.dst x.dst.z x.out v.toNat).setCounts c sa sb (x.out + 1)

/-- What the loop of R180 does next. -/
inductive SetMove
  | done
  | ask (isA : Bool)
  | skipA
  | skipB
  | both (v : Word)
  | takeA (v : Word)
  | takeB (v : Word)
  deriving DecidableEq, Repr

/-- The next move of SISECT (fn 4) or SIMERGE (fn 5): whether the streams are live, the keys read. -/
def setMove (fn cap : Nat) (x : Cmd) (liveA liveB : Bool) : SetMove :=
  if x.out = cap then .done
  else if fn = 4 then
    if !liveA || !liveB then .done
    else match x.keyA, x.keyB with
      | none, _ => .ask true
      | _, none => .ask false
      | some a, some b => if a.ult b then .skipA else if b.ult a then .skipB else .both a
  else if !liveA && !liveB then .done
  else if !liveB then (match x.keyA with
    | none => .ask true
    | some a => .takeA a)
  else if !liveA then (match x.keyB with
    | none => .ask false
    | some b => .takeB b)
  else match x.keyA, x.keyB with
    | none, _ => .ask true
    | _, none => .ask false
    | some a, some b => if a.ule b then .takeA a else .takeB b

/-- The set engine runs until it needs a key, ends, or has used its rate. -/
def runSet (c : Nat) : Nat → State → Cmd → State × Cmd
  | 0, s, x => (s, x)
  | n + 1, s, x =>
    match x.op with
    | .set fn sa sb =>
      if x.ended || x.req.isSome then (s, x)
      else
        let a := s.stream c sa
        let b := s.stream c sb
        (match setMove fn x.dst.count x (decide (a.pos < a.len)) (decide (b.pos < b.len)) with
        | .done => (s.setCounts c sa sb x.out, { x with ended := true })
        | .ask true => s.askKey c x sa true
        | .ask false => s.askKey c x sb false
        | .skipA => runSet c n ((s.advance c sa).setCounts c sa sb x.out) { x with keyA := none }
        | .skipB => runSet c n ((s.advance c sb).setCounts c sa sb x.out) { x with keyB := none }
        | .both v => runSet c n (((s.output c x sa sb v).advance c sa).advance c sb)
            { x with keyA := none, keyB := none, out := x.out + 1 }
        | .takeA v => runSet c n ((s.output c x sa sb v).advance c sa) { x with keyA := none, out := x.out + 1 }
        | .takeB v => runSet c n ((s.output c x sa sb v).advance c sb) { x with keyB := none, out := x.out + 1 })
    | _ => (s, x)

/-- `n` cc of the set engine (R180): at least one key from each stream to a cc while the tile holds tokens, none without. -/
def State.runSetEngine (s : State) (c n : Nat) : State :=
  match (s.core c).cmds.find? fun x => x.part == .setEngine with
  | none => s
  | some x =>
    let t := bits (s.cb c 0x0200) 3 0
    if t = 0 || x.ended || !(s.core c).runnable x then s
    else
      let r := runSet c (2 * t * n) s x
      r.1.putCmd c r.2

/-- A key reaches the set engine that asked for it, or its failure stops the command (R181). -/
def State.keyReply (s : State) (r : Reply) : State :=
  let c := r.acc.src.core
  match (s.core c).cmds.find? fun x => (x.req.map (·.1)) == some r.acc.id && x.slot == r.acc.src.slot && x.gen == r.acc.src.gen with
  | none => s
  | some x =>
    let isA := ((x.req.map (·.2)).getD true)
    s.putCmd c (match r.status with
      | .ok => if isA then { x with req := none, keyA := some r.value } else { x with req := none, keyB := some r.value }
      | .failed cz => { x with req := none, stop := some (cz, r.acc.va), ended := true })

/-- A set command stops before completion: CNT holds the outputs so far, RS of its first stream is set, and its hold goes (R181). -/
def State.stopSetCmd (s : State) (c : Nat) (x : Cmd) : State :=
  let s := match x.op with
    | .set _ sa sb =>
      let s := s.setCounts c sa sb x.out
      s.setStream c sa { s.stream c sa with rs := true }
    | _ => s
  s.dropCmd c x.id

/-- Completion of a set command, or the trap of the key it stopped at. -/
def State.finishSet (s : State) (c : Nat) (x : Cmd) : State :=
  let w := x.who c
  match x.stop with
  | none =>
    let s := s.dropCmd c x.id
    (match (s.ctx? w).map Ctx.run with
      | some (.parked (.setCmd id)) => if id = x.id then s.completed w else s
      | _ => s)
  | some (cz, t) =>
    let s := s.stopSetCmd c x
    (match s.ctx? w with
      | some cx => (s.wake w).trap w cx.pc t .sync cz
      | none => s)

/-- ENGINE_COMMAND_COMPLETE (R122). -/
def execEngineCommandComplete (s : State) : Out :=
  match s.ev with
  | some (.engineCommandComplete c id) =>
    .next (match (s.core c).cmds.find? fun x => x.id == id with
      | none => s
      | some x =>
        if !(s.core c).completes x then s
        else if x.part = .setEngine then s.finishSet c x else s.finishCmd c x)
  | _ => .next s

/-- `n` cc of a core's engines (R113, R162, R180). -/
def State.runEngines (s : State) (c n : Nat) : State :=
  if (s.core c).cmds.isEmpty then s else ((s.gainCredit c n).runGroups c n).runSetEngine c n

end Sys2Proof.Machine
end

