-- ==== Sys2Proof/Machine/Copies.lean ====
section
/-! DEFINITION. Copies (R240 to R244): descriptors, the channels of a tile, what they send and what comes back. -/
namespace Sys2Proof.Machine

/-- The fields of a copy descriptor (R78). -/
def descOf (l : List Word) : Desc :=
  let w (i : Nat) : Word := l.getD i 0
  { src := w 0, dst := w 1, nd := bits (w 2) 63 61, esz := bits (w 2) 60 59, fes := bit (w 2) 58, cast := bits (w 2) 47 32
    e := (List.range 8).map fun i => if i ≤ bits (w 2) 63 61 then bits (w (3 + i / 4)) (16 * (i % 4) + 15) (16 * (i % 4)) else 1
    ss := (List.range 8).map fun i => if i ≤ bits (w 2) 63 61 then stride (w (5 + i / 2)) (i % 2 == 1) else 0
    ds := (List.range 8).map fun i => if i ≤ bits (w 2) 63 61 then stride (w (9 + i / 2)) (i % 2 == 1) else 0
    dwen := bit (w 13) 63, dwbeg := bits (w 13) 30 0, dwend := bits (w 13) 62 32
    swen := bit (w 14) 63, swbeg := bits (w 14) 30 0, swend := bits (w 14) 62 32 }

/-- Number of elements of a copy. -/
def Desc.total (d : Desc) : Nat := d.e.foldl (· * ·) 1

/-- The rules of R78 and R240 for a descriptor's fields. -/
def descLegal (l : List Word) (d : Desc) (cast : Bool) : Bool :=
  let w (i : Nat) : Word := l.getD i 0
  let z : Nat := 2 ^ d.esz
  let win (en : Bool) (lo hi : Nat) : Bool := !en || (decide (lo < hi) && lo % z == 0 && hi % z == 0)
  bits (w 2) 57 48 == 0 && bits (w 2) 31 0 == 0 && !bit (w 13) 31 && !bit (w 14) 31 && w 15 == 0
    && (d.cast == 0) == !cast && (!d.fes || d.esz == 3)
    && canonical d.src && canonical d.dst
    && ((List.range 8).all fun i =>
        let x := bits (w (3 + i / 4)) (16 * (i % 4) + 15) (16 * (i % 4))
        if i ≤ d.nd then x != 0 else x == 0)
    && win d.dwen d.dwbeg d.dwend && win d.swen d.swbeg d.swend
    && d.src.toNat % z == 0 && d.dst.toNat % z == 0
    && (d.ss.all fun x => decide (x % (z : Int) = 0)) && (d.ds.all fun x => decide (x % (z : Int) = 0))
    && decide (d.total < 2 ^ 48)

/-- Read a copy descriptor at an address that is checked (R78, R240). -/
def State.readDesc (s : State) (c : Nat) (a : Word) (cast : Bool) : Chk Desc := do
  let l := s.recWords c a.toNat 16
  let d := descOf l
  need (descLegal l d cast) .cdesc a
  pure d

/-- Virtual address of source element `n`. -/
def Desc.srcVa (d : Desc) (n : Nat) : Word := d.src + BitVec.ofInt 64 (d.srcAt n)
/-- Virtual address of destination element `n` of a target. -/
def Desc.dstVa (d : Desc) (base : Word) (n : Nat) : Word := base + BitVec.ofInt 64 (d.dstAt n)

/-- Translate for a context as a unit of the tile does, with a walk made at once where the buffer has no entry (R202). A miss is one that has to wait
(R203, R205). -/
def State.unitXlate (s : State) (w : Who) (c : Ctx) (va : Word) (k : AccKind) : State × Xlate :=
  match s.xlate w { c with walkFault := none, walkHit := none } va k with
  | .miss =>
    let wk : Walk :=
      { core := w.core, slot := w.slot, gen := s.gen w, part := c.part, asid := c.asid, va := va, mode := c.mode, install := true }
    if s.refillHeld w.core c.part c.asid va then (s, .miss)
    else
      let r := s.walk wk
      (match r.2 with
        | .ok e => (r.1.install w.core e, r.1.useEntry c va k e)
        | .error (.fault cz pa) => (r.1, .fault cz ((pa.map (BitVec.ofNat 64)).getD va))
        | .error .wait => (s, .miss))
  | x => (s, x)

/-- Pages of 64 KiB of a range of virtual addresses. -/
def pagesOf (base : Word) (lo hi : Int) : List Nat :=
  let first := ((base.toNat : Int) + lo).toNat / 2 ^ 16
  let last := ((base.toNat : Int) + hi - 1).toNat / 2 ^ 16
  (List.range (last + 1 - first)).map (first + ·)

/-- Those of them that lie in a tile's SRAM: page number, tile SRAM offset. -/
def State.tilePages (s : State) (w : Who) (c : Ctx) (k : AccKind) (base : Word) (lo hi : Int) : Map Nat :=
  ((pagesOf base lo hi).filterMap fun i =>
    match (s.unitXlate w c (BitVec.ofNat 64 (i * 2 ^ 16)) k).2 with
    | .ok pa => (match s.isLocalPa pa, s.placeOf (lpaOf pa) with
      | true, .sram t off => if t = w.core then some (i, off) else none
      | _, _ => none)
    | _ => none)

/-- The first page of a range whose translation has to wait. -/
def State.pageWaits (s : State) (w : Who) (c : Ctx) (k : AccKind) (base : Word) (lo hi : Int) : Option Word :=
  ((pagesOf base lo hi).map fun i => BitVec.ofNat 64 (i * 2 ^ 16)).find? fun va => (s.unitXlate w c va k).2 == .miss

/-- Footprint of a copy's elements from its first address (R159). -/
def descFoot (e : List Nat) (st : List Int) (z : Nat) (en : Bool) (lo hi : Nat) : Int × Int :=
  if en then (lo, hi)
  else
    let x := spread e st
    (x.1, x.2 + z)

/-- The ranges of a tile's SRAM that a footprint covers, page by page. -/
def pageRanges (pages : Map Nat) (base : Word) (f : Int × Int) : List Range :=
  let lo := ((base.toNat : Int) + f.1).toNat
  let hi := ((base.toNat : Int) + f.2).toNat
  pages.map fun p =>
    let a := Nat.max lo (p.1 * 2 ^ 16)
    let b := Nat.min hi ((p.1 + 1) * 2 ^ 16)
    { lo := p.2 + (a - p.1 * 2 ^ 16), hi := p.2 + (b - p.1 * 2 ^ 16) }

/-- The lowest free channel of a tile (R240). -/
def Core.freeChan (k : Core) : Option Nat :=
  (List.range 4).find? fun i => ((mget k.chans i).map fun x => x.finished).getD true

/-- Element 0 of source and destinations translates (R240, R244): to the tile named, for a CPCAST. -/
def State.firstElements (s : State) (w : Who) (c : Ctx) (d : Desc) (at_ : Word) (cast : Bool) : List (Nat × Word) → Except Xlate Unit
  | [] => .ok ()
  | (t, base) :: r =>
    match s.xlate w c (d.dstVa base 0) .write with
    | .ok pa =>
      let here := s.isLocalPa pa && (match s.placeOf (lpaOf pa) with
        | .sram k _ => k == t
        | _ => false)
      if cast && !here then .error (.fault .cdesc at_) else s.firstElements w c d at_ cast r
    | x => .error x

/-- Start a copy on a channel (R240). -/
def startCopy (s : State) (w : Who) (c : Ctx) (dst : Reg) (d : Desc) (targets : List (Nat × Word)) (cast : Bool) : Out :=
  match (s.core w.core).freeChan with
  | none => .next (s.stallOn w .channel)
  | some ch =>
    let z : Nat := 2 ^ d.esz
    let self := if cast then (targets.findIdx? fun t => t.1 == w.core).getD targets.length else 0
    let fd := descFoot d.e d.ds z d.dwen d.dwbeg d.dwend
    let fs := descFoot d.e d.ss z d.swen d.swbeg d.swend
    let pages := match targets[self]? with
      | some t => s.tilePages w c .write t.2 fd.1 fd.2
      | none => []
    let writes := pageRanges pages ((targets.getD self (0, 0)).2) fd
    let reads := pageRanges (s.tilePages w c .read d.src fs.1 fs.2) d.src fs
    let waits := ((targets[self]?).bind fun t => s.pageWaits w c .write t.2 fd.1 fd.2).orElse fun _ => s.pageWaits w c .read d.src fs.1 fs.2
    if waits.isSome then .next (s.missed w c (waits.getD 0))
    else if (!writes.isEmpty || !reads.isEmpty) && decide (Config.holdPool ≤ (s.core w.core).holds.length) then .next (s.stallOn w .hold)
    else
      let id := s.ids
      let seq := (s.core w.core).cpSeq
      let x : Chan :=
        { seq := seq, slot := w.slot, gen := s.gen w, id := id, desc := d, asid := c.asid, tag := c.tag, cast := cast
          targets := targets, self := self, pages := pages, total := d.total, reads := 0, answered := 0, buf := [], writes := 0
          done := [], owed := 0, wp := 0, finished := false, fault := false, stopping := none
          before := ((mget (s.core w.core).chans ch).map fun y => y.before ++ [y.seq]).getD [] }
      let h : Hold := { id := id, writes := writes, reads := reads, after := (s.core w.core).blocked.map accKey }
      let s := { s with ids := id + 1 }
      let s := s.modCore w.core fun k => { k with
        chans := mput ch x k.chans
        cpSeq := (seq + 1) % 2 ^ 32
        holds := if writes.isEmpty && reads.isEmpty then k.holds else k.holds ++ [h] }
      let handle := BitVec.ofNat 64 (seq * 2 ^ 32 + coreRet w.core * 2 ^ 16 + coreTile w.core * 2 ^ 8 + ch)
      let s := s.modCtx w fun c => c.add { id := id, cls := .cp, dst := none, home := some w.core, both := false }
      .next ((s.setReg w c dst.toNat handle).finish w 1 8)

/-- The frame of CPY and CPCAST: the checks of R240, the translation of element 0, and the start. -/
def copyCommand (s : State) (d a : Reg) (srcs : List Reg) (cast : Bool) (tgts : Who → Ctx → Desc → List (Nat × Word))
    (legal : Who → Ctx → Desc → Bool) : Out :=
  onCtx s fun w c => needRegs s w c srcs (some d) (onTile s w c
    (let at_ := s.reg w c a.toNat
     afterCond s w c (roomIn s w c .cp (outward s w c srcs (some d) fun s w c =>
       (readRecords s w c .cdesc 128 128 [at_] fun s =>
         match s.readDesc w.core at_ cast with
         | .error (cz, t) => trapNow s w c cz t
         | .ok x =>
           if !legal w c x then trapNow s w c .cdesc at_
           else recordAdmitted s w c at_.toNat 128 (match s.xlate w c (x.srcVa 0) .read with
             | .fault cz t => trapNow s w c cz t
             | .miss => .next (s.missed w c (x.srcVa 0))
             | .ok _ =>
               match s.firstElements w c x at_ cast (tgts w c x) with
               | .error (.fault cz t) => trapNow s w c cz t
               | .error _ =>
                 let va := ((tgts w c x).find? fun t => s.xlate w c (x.dstVa t.2 0) .write == .miss).map fun t => x.dstVa t.2 0
                 .next (s.missed w c (va.getD x.dst))
               | .ok _ => startCopy s w c d x (tgts w c x) cast))))))

/-- CPY (R240). -/
def execCpy (d a : Reg) (s : State) : Out :=
  copyCommand s d a [a] false (fun w _ x => [(w.core, x.dst)]) fun _ _ _ => true

/-- Tile of a cluster by its local index 4 ly + lx (R78). -/
def clusterTile (core i : Nat) : Nat :=
  let t := coreTile core
  coreId (coreRet core) ((t / 64 * 4 + i / 4) * 16 + t % 16 / 4 * 4 + i % 4)

/-- CPCAST (R244). -/
def execCpcast (d a b : Reg) (s : State) : Out :=
  copyCommand s d a [a, b] true
    (fun w c x => (upTo 16 fun i => x.cast / 2 ^ i % 2 == 1).map fun i =>
      (clusterTile w.core i, x.dst + BitVec.ofNat 64 i * s.reg w c b.toNat))
    fun w c x => (s.reg w c b.toNat).toNat % 2 ^ x.esz == 0

/-- State of a copy of a channel as CPWP shows it; none for a SEQ not issued on it (R242). -/
def cpwpWord (k : Chan) (seq : Nat) : Option Word :=
  if k.seq = seq then
    some (BitVec.ofNat 64 ((if k.finished then 2 ^ 63 else 0) + (if k.fault then 2 ^ 62 else 0) + k.wp % 2 ^ 48))
  else if k.before.contains seq then some (BitVec.ofNat 64 (2 ^ 63 + 2 ^ 61))
  else none

/-- CPWP (R242). -/
def execCpwp (d a : Reg) (s : State) : Out :=
  onCtx s fun w c => needRegs s w c [a] (some d) (onTile s w c
    (outward s w c [a] (some d) fun s w c =>
      (let h := s.reg w c a.toNat
       let bad := trapNow s w c .wptrbad h
       if bits h 31 22 ≠ 0 ∨ bits h 7 2 ≠ 0 ∨ bits h 21 16 ≠ coreRet w.core ∨ bits h 15 8 ≠ coreTile w.core then bad
       else match (mget (s.core w.core).chans (bits h 1 0)).bind fun k => cpwpWord k (bits h 63 32) with
         | none => bad
         | some v => .next ((s.setReg w c d.toNat v).finish w 1 8))))

/-! Channels at work (R241, R243). -/

/-- Elements that may be written: all, or those below the one that failed (R243). -/
def Chan.limit (x : Chan) : Nat :=
  match x.stopping with
  | none => x.total
  | some (n, _, _) => n

/-- A copy's element access. -/
def State.elemAccess (s : State) (w : Who) (x : Chan) (op : MemOp) (va : Word) (pa : Nat) (data : Word) (d : Dest) : Access :=
  { id := s.ids, src := { modn := s.modn, core := w.core, slot := x.slot, gen := x.gen }, tag := x.tag, op := op, va := va, pa := pa,
    data := data, cmp := BitVec.ofNat 64 x.id, dst := d, attempt := 0 }

/-- Where an element performs, or the fault that stops the copy (R243), or none while its translation waits. Its issuer's mode and spaces are
those at issue. -/
def State.elemPa (s : State) (w : Who) (k : Chan) (va : Word) (kind : AccKind) (core : Option Nat) :
    State × Except (Option (Cause × Word)) Nat :=
  match s.ctx? w with
  | none => (s, .error (some (.pgnp, va)))
  | some c0 =>
    let c := { c0 with mode := k.tag.mode, part := k.tag.part, asid := k.asid }
    let x := s.unitXlate w c va kind
    match x.2 with
    | .ok pa =>
      match x.1.reachTrap w c pa with
      | some cz => (x.1, .error (some (cz, va)))
      | none =>
        let here := match core with
          | none => true
          | some t => x.1.isLocalPa pa && (match x.1.placeOf (lpaOf pa) with
            | .sram k _ => k == t
            | _ => false)
        if here then (x.1, .ok pa) else (x.1, .error (some (.cdesc, va)))
    | .fault cz t => (x.1, .error (some (cz, t)))
    | .miss => (x.1, .error none)

/-- Send the read of the next source element (R241). DESIGN CHOICE (log 38): reads go in element order, at most one in a cc. -/
def State.sendRead (s : State) (c ch : Nat) (x : Chan) : State :=
  let w : Who := { core := c, slot := x.slot }
  let va := x.desc.srcVa x.reads
  let p := s.elemPa w x va .read none
  match p.2 with
  | .error none => s
  | .error (some (cz, t)) => p.1.putChan c ch (x.stopAt x.reads cz t)
  | .ok pa =>
    let s := p.1
    let a := s.elemAccess w x (.copyRead x.desc.esz) va pa 0 (.copyRd ch x.reads)
    (({ s with ids := s.ids + 1 } : State).putChan c ch { x with reads := x.reads + 1 }).send a

/-- Places of one destination element for every target, or the fault. -/
def State.elemPas (s : State) (w : Who) (x : Chan) (n : Nat) : List (Nat × Word) → State × Except (Option (Cause × Word)) (List (Word × Nat))
  | [] => (s, .ok [])
  | (t, base) :: r =>
    let va := x.desc.dstVa base n
    let p := s.elemPa w x va .write (if x.cast then some t else none)
    match p.2 with
    | .error e => (p.1, .error e)
    | .ok pa =>
      let q := p.1.elemPas w x n r
      (q.1, match q.2 with
        | .error e => .error e
        | .ok l => .ok ((va, pa) :: l))

/-- Write out the next destination element, in element order (R241). -/
def State.sendWrite (s : State) (c ch : Nat) (x : Chan) (v : Word) : State :=
  let w : Who := { core := c, slot := x.slot }
  let p := s.elemPas w x x.writes x.targets
  match p.2 with
  | .error none => s
  | .error (some (cz, t)) => p.1.putChan c ch (x.stopAt x.writes cz t)
  | .ok l =>
    let n := x.writes
    let s := p.1.putChan c ch { x with writes := n + 1, owed := x.owed + l.length, buf := x.buf.filter fun y => y.1 != n }
    (l.zip (List.range l.length)).foldl (fun s y =>
      let a := s.elemAccess w x (.copyWrite x.desc.esz x.desc.fes) y.1.1 y.1.2 v (.copyWr ch (16 * n + y.2))
      let s := if s.gen w = x.gen then s.noteFlush w a.op a.pa else s
      ({ s with ids := s.ids + 1 } : State).send a) s

/-- One cc of a channel: at most one source read and one destination write (R241), in element order. An element that meets an earlier hold of
its tile waits there (R217). -/
def State.runChan (s : State) (c ch : Nat) : State :=
  match mget (s.core c).chans ch with
  | none => s
  | some x =>
    if x.finished then s
    else
      let s := if x.stopping.isNone ∧ x.reads < x.total ∧ x.reads < x.writes + 64 then s.sendRead c ch x else s
      match mget (s.core c).chans ch with
      | none => s
      | some x =>
        match x.buf.find? fun y => y.1 == x.writes with
        | some y => if x.writes < x.limit then s.sendWrite c ch x y.2 else s.endChan c ch
        | none => s.endChan c ch

/-- `n` cc of a core's channels. -/
def State.runChans (s : State) (c : Nat) : Nat → State
  | 0 => s
  | n + 1 =>
    if (s.core c).chans.all fun p => p.2.finished then s
    else ([0, 1, 2, 3].foldl (fun s ch => s.runChan c ch) s).runChans c n

/-- COPY_SOURCE_REPLY (R241). -/
def execCopySourceReply (s : State) : Out :=
  match s.ev with
  | some (.copySourceReply c ch r0) =>
    let r := s.arrived r0
    let s := s.leftOutbox r.acc.id
    .next (if s.inboundShut r.acc then s else match mget (s.core c).chans ch, r.acc.dst with
      | some x, .copyRd _ n =>
        if x.finished ∨ BitVec.ofNat 64 x.id ≠ r.acc.cmp then s
        else
          let x := { x with answered := x.answered + 1 }
          let x := match r.status with
            | .ok => { x with buf := x.buf ++ [(n, r.value)] }
            | .failed cz => x.stopAt n cz r.acc.va
          (((s.putChan c ch x).endReads c x).endChan c ch)
      | _, _ => s)
  | _ => .next s

/-- COPY_WRITE_PERFORMED (R242): the write pointer and this tile's released bytes move on. -/
def execCopyWritePerformed (s : State) : Out :=
  match s.ev with
  | some (.copyWritePerformed c ch r0) =>
    let r := s.arrived r0
    let s := s.leftOutbox r.acc.id
    .next (if s.inboundShut r.acc then s else s.copyWritten c ch r)
  | _ => .next s

end Sys2Proof.Machine
end

