-- ==== Sys2Proof/Machine/Batching.lean ====
section
/-! DEFINITION. The conflict-batching unit (R245 to R249). -/
namespace Sys2Proof.Machine

/-- Bodies of a batch. -/
def batchBodies (l : List Constraint) : List Nat := (l.map (·.bodies)).flatten
/-- Constraints the unit holds. -/
def Cbu.held (u : Cbu) : Nat := u.pending.length + u.batch.length + sumOf (u.closed.map List.length)
/-- A constraint fits the open batch (R248). -/
def Cbu.fits (u : Cbu) (c : Constraint) : Bool :=
  (c.bodies.all fun b => !(batchBodies u.batch).contains b) && decide ((batchBodies u.batch).length + c.bodies.length ≤ u.bl)
/-- Close the open batch, forming apart (R248). -/
def Cbu.close (u : Cbu) : Cbu :=
  { u with closed := u.closed ++ [u.batch.map (·.tag)], batch := [], pending := u.pending.map fun (c : Constraint) => { c with tested := false } }

/-- Batch forming (R248): each turn tests or moves one constraint, or closes a batch; `fuel` covers a unit of 256 constraints. -/
def Cbu.form : Nat → Cbu → Cbu
  | 0, u => u
  | n + 1, u =>
    match u.pending.find? fun c => !c.tested with
    | some c =>
      let rest := u.pending.takeWhile (fun x => x.tested)
      let after := u.pending.drop (rest.length + 1)
      if u.fits c then
        let v := { u with pending := rest ++ after, batch := u.batch ++ [c] }
        if (batchBodies v.batch).length = v.bl ∨ v.batch.length = v.ml then Cbu.form n v.close else Cbu.form n v
      else Cbu.form n { u with pending := rest ++ { c with tested := true } :: after }
    | none => if u.held = 256 ∧ !u.batch.isEmpty then Cbu.form n u.close else u

/-- Turns that forming can take. -/
def formFuel : Nat := 70000

/-- CBFLUSH (R248): close and form until nothing is open or pending. -/
def Cbu.flush : Nat → Cbu → Cbu
  | 0, u => u
  | n + 1, u => if u.batch.isEmpty then u else Cbu.flush n (Cbu.form formFuel u.close)

/-- The frame of a CB instruction (R245): an S tile, a resident context, by a pair once. -/
def cbFrame (s : State) (srcs : List Reg) (body : State → Who → Ctx → Out) : Out :=
  onCtx s fun w c => needRegs s w c srcs none
    (if !isTile w.core || tileKind (coreTile w.core) != .s then trapNow s w c .engfault s.irWord
     else afterCond s w c (lockstep s w c srcs none fun s w c =>
       if c.kind = .migrant then trapNow s w c .cberr s.irWord else body s w c))

/-- The context owns the unit. -/
def State.ownsCbu (s : State) (w : Who) : Bool :=
  (s.core w.core).cbu.owner == some (w.slot, s.gen w) && (s.core w.core).cbu.savedBy.isNone

/-- Only the owner may name the unit (R245). -/
def asOwner (s : State) (w : Who) (c : Ctx) (k : Out) : Out := if s.ownsCbu w then k else trapNow s w c .cberr s.irWord

/-- The unit takes an instruction: its state changes now, in issue order, and the context parks until it has finished. -/
def State.cbIssue (s : State) (w : Who) (u : Cbu) (d : Option Reg) (v : Word) (at_ : Nat) (out : List Word) : State :=
  let b : CbBusy := { slot := w.slot, gen := s.gen w, dst := d.map (·.toNat), value := v, at_ := at_, out := out }
  (s.modCore w.core fun k => { k with cbu := { u with busy := k.cbu.busy ++ [b] } }).park w .cb

/-- A record of the unit is admitted by the tile's table, and then read. -/
def cbRecord (s : State) (w : Who) (c : Ctx) (bytes align : Nat) (at_ : Word) (go : State → List Word → Out) : Out :=
  readRecords s w c .shape align bytes [at_] fun s =>
    recordAdmitted s w c at_.toNat bytes (go s (s.recWords w.core at_.toNat (bytes / 8)))

/-- CBCFG (R246). -/
def execCbcfg (a : Reg) (s : State) : Out :=
  cbFrame s [a] fun s w c =>
    let at_ := s.reg w c a.toNat
    let u := (s.core w.core).cbu
    if u.owner.isSome && !s.ownsCbu w then trapNow s w c .cberr s.irWord
    else cbRecord s w c 64 64 at_ fun s l =>
      let w0 := l.getD 0 0
      let ml := bits w0 24 16
      let bl := bits w0 9 0
      let bad := bits w0 62 25 != 0 || bits w0 15 10 != 0 || (l.drop 1).any (fun x => x != 0)
        || (bit w0 63 && (ml == 0 || decide (256 < ml) || bl == 0 || decide (512 < bl)))
      if bad then trapNow s w c .cberr at_
      else
        let keep := u.busy
        let u' : Cbu :=
          if bit w0 63 then { Cbu.reset with owner := some (w.slot, s.gen w), ml := ml, bl := bl, busy := keep }
          else { Cbu.reset with busy := keep }
        .next (s.cbIssue w u' none 0 0 [])

/-- The distinct bodies of a constraint record, or none where the record is faulty (R247). -/
def bodiesOf (l : List Word) : Option (List Nat) :=
  let nb := bits (l.getD 1 0) 2 0
  let all := [bits (l.getD 2 0) 31 0, bits (l.getD 2 0) 63 32, bits (l.getD 3 0) 31 0, bits (l.getD 3 0) 63 32]
  if nb = 0 ∨ 4 < nb ∨ bits (l.getD 1 0) 63 3 ≠ 0 ∨ (all.drop nb).any (fun b => b != 0) then none
  else some (all.take nb).eraseDups

/-- CBPUSH (R247). -/
def execCbpush (d a : Reg) (s : State) : Out :=
  cbFrame s [a, d] fun s w c => asOwner s w c
    (let at_ := s.reg w c a.toNat
     cbRecord s w c 32 32 at_ fun s l =>
       let u := (s.core w.core).cbu
       match bodiesOf l with
       | none => trapNow s w c .cberr at_
       | some bs =>
         if u.bl < bs.length then trapNow s w c .cberr at_
         else if u.held = 256 then .next (s.cbIssue w u (some d) 0 0 [])
         else
           let u' := Cbu.form formFuel { u with pending := u.pending ++ [{ tag := l.getD 0 0, bodies := bs, tested := false }] }
           .next (s.cbIssue w u' (some d) 1 0 []))

/-- CBFLUSH (R248). -/
def execCbflush (s : State) : Out :=
  cbFrame s [] fun s w c => asOwner s w c (.next (s.cbIssue w (Cbu.flush 600 (s.core w.core).cbu) none 0 0 []))

/-- CBPOP (R249). -/
def execCbpop (d a : Reg) (s : State) : Out :=
  cbFrame s [a, d] fun s w c => asOwner s w c
    (let at_ := s.reg w c a.toNat
     let u := (s.core w.core).cbu
     let tags := u.closed.head?.getD []
     let n := 8 * tags.length
     if at_.toNat % 8 ≠ 0 ∨ !inSram at_.toNat (at_.toNat + n) then trapNow s w c .sramrange at_
     else match s.refusedGranule w.core c.tag .write { lo := at_.toNat, hi := at_.toNat + n, at_ := 0 } with
       | some g =>
         let l := tileAddr w.core g
         trapNow (s.logRefusal (.core w.core) c.tag .write l (s.src w)) w c .acctbl (BitVec.ofNat 64 g)
       | none =>
         let u' := if u.closed.isEmpty then u else Cbu.form formFuel { u with closed := u.closed.tail }
         .next (s.cbIssue w u' (some d) (BitVec.ofNat 64 tags.length) at_.toNat tags))

/-- CBSTAT's word (R249). -/
def Cbu.stat (u : Cbu) : Word :=
  BitVec.ofNat 64 ((batchBodies u.batch).length * 2 ^ 36 + u.closed.length * 2 ^ 27 + u.batch.length * 2 ^ 18
    + u.pending.length * 2 ^ 9 + u.held)

/-- CBSTAT (R249). -/
def execCbstat (d : Reg) (s : State) : Out :=
  cbFrame s [d] fun s w c => asOwner s w c
    (.next (s.cbIssue w (s.core w.core).cbu (some d) (s.core w.core).cbu.stat 0 []))

/-- What the unit is finishing writes, and may write now: no hold or earlier access stands in its way (R217, R249). -/
def Core.cbReady (k : Core) (b : CbBusy) : Bool :=
  let x : Range := { lo := b.at_, hi := b.at_ + 8 * b.out.length }
  b.out.isEmpty || (k.holds.all fun h => !k.holdStops h true x)

/-- CB_UNIT_FINISHED (R245): the oldest instruction is finished, its words are written, its result is in the register, and the park
ends. -/
def execCbUnitFinished (s : State) : Out :=
  match s.ev with
  | some (.cbUnitFinished c) =>
    .next (match (s.core c).cbu.busy with
      | [] => s
      | b :: r =>
        if !(s.core c).cbReady b then s
        else
          let w : Who := { core := c, slot := b.slot }
          let s := s.modCore c fun k => { k with cbu := { k.cbu with busy := r } }
          if s.gen w ≠ b.gen then s
          else
            let s := (b.out.zip (List.range b.out.length)).foldl (fun s x => s.putTile c (b.at_ + 8 * x.2) 8 x.1.toNat) s
            match (s.ctx? w).bind Ctx.inPark with
            | some .cb =>
              let s := match b.dst with
                | none => s
                | some d =>
                  let s := s.setRegOf w d b.value
                  (match (s.ctx? w).bind Ctx.partner with
                    | some p => s.setRegOf { core := c, slot := p } d b.value
                    | none => s)
              s.completed w
            | _ => s)
  | _ => .next s

end Sys2Proof.Machine
end

