-- ==== Sys2Proof/Machine/Memctl.lean ====
section
/-! DEFINITION. Meanings of fences, counter waits, migration, instruction-cache invalidation, register borrowing and neighbour links
(R215, R216, R230 to R239). -/
namespace Sys2Proof.Machine

/-! Fences (R215). -/

/-- A copy still reads or writes bytes of its tile: its read hold stands, or not every element here is released (R215, R218). -/
def Core.copyHere (k : Core) (id : Nat) : Bool :=
  k.holds.any fun h => h.id == id && (!h.reads.isEmpty || (!h.writes.isEmpty &&
    match k.chans.find? fun p => p.2.id == id with
      | some p => decide (p.2.released < p.2.total)
      | none => true))

/-- Earlier work of a context on its own tile (FENCE.T): engine commands, copies that use its SRAM, accesses to it. -/
def State.onOwnTile (s : State) (w : Who) (o : OutOp) : Bool :=
  match o.cls with
  | .mx => true
  | .cp => (s.core w.core).copyHere o.id
  | _ => o.home == some w.core && isTile w.core

/-- The outstanding operations that the condition of a fence still needs: 0 FENCE.T, 1 FENCE.W, 2 FENCE.S (R215, R261). -/
def State.fenceNeeds (s : State) (w : Who) (c : Ctx) (k : Nat) : List OutOp :=
  match k with
  | 0 => c.out.filter fun o => s.onOwnTile w o
  | 1 => c.out.filter fun o => s.onOwnTile w o || o.home.isSome
  | _ => c.out

/-- The condition of a fence (R215). -/
def State.fenceMet (s : State) (w : Who) (c : Ctx) (k : Nat) : Bool :=
  (s.fenceNeeds w c k).isEmpty && (k != 2 || c.flush.isEmpty)

/-- The link core's read that flushes a context's stores to a host port (R215). -/
def State.flushRead (s : State) (w : Who) (c : Ctx) (port id : Nat) : Access :=
  { id := id, src := s.src w, tag := c.tag, op := .load 3 false, va := 0, pa := s.paOf (hostBase + port * 2 ^ 42), data := 0,
    cmp := 0, dst := .nobody, attempt := 0 }
/-- Once every access has been answered, the host ports stored to are read, each once (R215); a port whose link is down
has nothing left to read (R403). -/
def State.sendFlush (s : State) (w : Who) (c : Ctx) : State :=
  if !c.out.isEmpty then s
  else
    let todo := (c.flush.filter fun f => f.2.isNone).map (·.1)
    todo.foldl (fun s p =>
      let id := s.ids
      if !bit (s.cb (hostCore p) 0x0A00) 63 then
        s.modCtx w fun c => { c with flush := c.flush.filter fun f => f.1 != p }
      else
      let s := { s with ids := id + 1, outbox := s.outbox ++ [s.flushRead w c p id] }
      s.modCtx w fun c => { c with flush := c.flush.map fun f => if f.1 = p then (p, some id) else f }) s

/-- A parked FENCE.S sends its flushing reads once every access has been answered (R215). -/
def State.flushDue (s : State) (core : Nat) : State :=
  (s.core core).slots.foldl (fun s p =>
    let w : Who := { core := core, slot := p.1 }
    match s.ctx? w with
    | some c => if c.run = .parked (.fence 2) then s.sendFlush w c else s
    | none => s) s

/-- A fence: done at once when its condition holds, else parked (R215). -/
def fence (s : State) (k : Nat) : Out :=
  onCtx s fun w c =>
    if s.fenceMet w c k then .next (s.finish w 1 8)
    else .next ((if k = 2 then s.sendFlush w c else s).park w (.fence k))

/-- FENCE.T (R215, R230). -/
def execFenceT (s : State) : Out := fence s 0
/-- FENCE.W (R215, R230). -/
def execFenceW (s : State) : Out := fence s 1
/-- FENCE.S (R215, R230). -/
def execFenceS (s : State) : Out := fence s 2

/-- WAITC (R216, R230). -/
def execWaitc (m cp st l : BitVec 4) (s : State) : Out :=
  onCtx s fun w c => waitLimits s w c m.toNat cp.toNat st.toNat l.toNat (.next (s.finish w 1 8))

/-! MIGRATE (R231). -/

/-- MIGRATE: the migrant departs with the PC of the next instruction; in a handler it does not move (R339). -/
def execMigrate (a : Reg) (s : State) : Out :=
  onCtx s fun w c => needRegs s w c [a] none (outward s w c [a] none fun s w c =>
    (let va := s.reg w c a.toNat
     if c.kind ≠ .migrant then trapNow s w c .migfail va
     else if va.toNat % 8 ≠ 0 then trapNow s w c .align va
     else xlated s w c va .read fun pa =>
       if !s.isLocalPa pa then trapNow s w c .migfail va
       else match s.reachTrap w c pa with
         | some cz => trapNow s w c cz va
         | none =>
           if s.moves w c pa then
             (if !s.samePart (coreRet w.core) (coreRet (s.homeNow pa)) then trapNow s w c .partviol va
              else together s w c
                (let t := match s.runningTop w c with
                  | some (u, _) => (s.finish w 1 8).followTop w u.slot c.retired none
                  | none => s.finish w 1 8
                 .next (t.modCtx w fun x => { x with run := .departing (s.homeNow pa) x.pc })))
           else .next (s.finish w 1 8)))

/-! ICINV (R232). -/

/-- Cores of the module that hold a context of a partition, the message contexts apart, which fetch nothing. -/
def State.coresOfPart (s : State) (p : Nat) : List Nat :=
  (s.cores.filter fun k => k.2.slots.any fun x => x.2.part == p && x.2.kind != .message).map (·.1)

/-- ICINV: sent to every core that holds a context of the partition; a completing park until each has acknowledged. -/
def execIcinv (a b : Reg) (s : State) : Out :=
  onCtx s fun w c => needRegs s w c [a, b] none
    (waitLimits s w c 15 15 0 15 (lockstep s w c [a, b] none fun s w c =>
      (let va := s.reg w c a.toNat
       let n := s.reg w c b.toNat
       if n = 0 then .next (s.finish w 1 8)
       else
         let q : IcReq :=
           { core := w.core, slot := w.slot, gen := s.gen w, part := c.part, asid := c.asid, va := va, len := n.toNat
             phys := c.mode == .f }
         let cs := s.coresOfPart c.part
         if cs.isEmpty then .next (s.finish w 1 8)
         else .next ((s.park w (.icinv cs.length)).pushAll (cs.map fun k => Ev.icacheInvalidation k q)))))

/-! Register borrowing (R233 to R236). -/

/-- BORROW (R234). -/
def execBorrow (d a : Reg) (s : State) : Out :=
  onCtx s fun w c => needRegs s w c [a] (some d)
    (let v := s.reg w c a.toNat
     let n := v.toNat
     if c.kind = .migrant ∨ n < 8 ∨ 128 < n ∨ n % 8 ≠ 0 ∨ 4 ≤ c.sets.length then trapNow s w c .borrowerr v
     else
       let k := s.core w.core
       match (if k.ringCount = 0 then k.place w.core n else none) with
       | none => .next ((s.setReg w c d.toNat onesW).finish w 1 8)
       | some (sl, base) =>
         let s := s.modCore w.core fun k => { k with withheld := k.withheld ++ [{ slot := sl, base := base, lim := n }] }
         let s := s.modCtx w fun x => { x with sets := x.sets ++ [(sl, base, n)] }
         .next ((s.setReg w c d.toNat (BitVec.ofNat 64 sl)).finish w 1 8))

/-- XMOV (R235). -/
def execXmov (d a b : Reg) (s : State) : Out :=
  onCtx s fun w c => needRegs s w c [a, b] (some d)
    (let v := s.reg w c a.toNat
     match c.sets.find? fun t => t.1 == bits v 5 0 with
     | none => trapNow s w c .borrowerr v
     | some (_, base, n) =>
       let j := bits v 14 8
       if c.kind = .migrant ∨ bits v 63 17 ≠ 0 ∨ bit v 15 ∨ bits v 7 6 ≠ 0 ∨ n ≤ j then trapNow s w c .borrowerr v
       else if (s.fileEntry w.core (base + j)).bad then badEntry s w c j (base + j)
       else
         let old := (s.fileEntry w.core (base + j)).val
         let new : RegEntry := { val := s.reg w c b.toNat, pres := .present, bad := false }
         let s := if bit v 16 then
             s.modCore w.core fun k => { k with file := mset RegEntry.stripped (base + j) new k.file }
           else s
         .next ((s.setReg w c d.toNat old).finish w 1 8))

/-- RETURN (R236). -/
def execRetn (a : Reg) (s : State) : Out :=
  onCtx s fun w c => needRegs s w c [a] none
    (let v := s.reg w c a.toNat
     match c.sets.find? fun t => decide (t.1 = v.toNat) with
     | none => trapNow s w c .borrowerr v
     | some (sl, base, n) =>
       let s := s.modCore w.core fun k => { k with
         withheld := k.withheld.filter fun x => x.slot != sl
         file := stripEntries base n k.file
         strips := k.strips ++ [{ slot := sl, base := base, lim := n }] }
       let s := (s.push (.stripDone w.core sl)).modCtx w fun x => { x with sets := x.sets.filter fun t => t.1 != sl }
       .next (s.finish w 1 8))

/-! Neighbour links (R237 to R239). -/

/-- The live tile beside a core in a direction within its partition (R238). -/
def State.linkTo (s : State) (core dir : Nat) : Option Nat :=
  if !isTile core then none
  else (s.tileBeside core dir).filter fun t =>
    s.coreLive t && (coreRet t == coreRet core || s.samePart (coreRet core) (coreRet t))

/-- NWR (R238): one unacknowledged write for each direction, counted in ctr.ST. -/
def execNwr (n : BitVec 7) (a : Reg) (k : BitVec 2) (s : State) : Out :=
  onCtx s fun w c => needRegs s w c [a] none
    (match (if c.kind == .migrant || c.partner.isSome then none else s.linkTo w.core k.toNat) with
     | none => trapNow s w c .nlink s.irWord
     | some t =>
       if c.nwrOut.contains k.toNat then .next (s.park w (.nwr k.toNat))
       else roomIn s w c .st
         (let id := s.ids
          let m : NWrite :=
            { id := id, src := s.src w, part := c.part, asid := c.asid, core := t, dir := k.toNat, reg := n.toNat,
              data := s.reg w c a.toNat }
          let o : OutOp := { id := id, cls := .st, dst := none, home := some t, both := false }
          let s := ({ s with ids := id + 1 } : State).modCtx w fun x => { (x.add o) with nwrOut := x.nwrOut ++ [k.toNat] }
          .next ((s.push (.neighbourWrite m)).finish w 1 8)))

/-- NARM (R239). -/
def execNarm (d : Reg) (s : State) : Out :=
  onCtx s fun w c => needRegs s w c [] (some d)
    (if c.kind == .migrant || c.partner.isSome then trapNow s w c .nlink s.irWord
     else .next ((s.setEntry w c d.toNat { (s.regEntry w c d.toNat) with pres := .armed }).finish w 1 8))

/-- Presence bits of 64 registers from `r` on; none at or above the limit (R239). -/
def State.presences (s : State) (w : Who) (c : Ctx) (r : Nat) : Word :=
  BitVec.ofNat 64 (sumOf ((List.range 64).map fun i =>
    if r + i < c.lim ∧ r + i < 128 ∧ (s.regEntry w c (r + i)).pres = .present then 2 ^ i else 0))

/-- NPRES (R239). -/
def execNpres (d a : Reg) (s : State) : Out :=
  onCtx s fun w c => needRegs s w c [a] (some d)
    (if c.kind == .migrant || c.partner.isSome then trapNow s w c .nlink s.irWord
     else .next ((s.setReg w c d.toNat (s.presences w c (bits (s.reg w c a.toNat) 6 0))).finish w 1 8))

end Sys2Proof.Machine
end

