-- ==== Sys2Proof/Machine/Clock.lean ====
section
/-! DEFINITION. What time does: the clock of a basin, the waiting time it charges to contexts (R259 to R262), notices running out (R282),
barrier timers (R312), step boundaries (R280). -/
namespace Sys2Proof.Machine

/-- Tokens held by a tile (R277). -/
def State.hold (s : State) (c : Nat) : Nat := bits (s.cb c 0x0200) 3 0
/-- The vector energy budget of a core, signed (R162, R277). -/
def State.veb (s : State) (c : Nat) : Int := ((s.cb c 0x0208) >>> 32).truncate 32 |>.toInt

/-! The instruction that would issue next. -/

/-- A register field raised by a frame (R298), as a number that is not reduced. -/
def raised (it stride mask k : Nat) (r : Reg) : Nat := if mask / 2 ^ (2 - k) % 2 = 1 then r.toNat + it * stride else r.toNat

/-- The instruction a frame issues in its current iteration (R298). -/
def stepped (rep : Word) (i : Instr) : Instr :=
  i.mapRegs fun k r => BitVec.ofNat 7 (raised (bits rep 15 0) (bits rep 57 55) (bits rep 54 52) k r)

/-- The instruction a context would issue next, as its frame raises it, where its word is at hand. -/
def State.peek (s : State) (w : Who) (c : Ctx) : Option Instr :=
  match (s.fetch w c c.pc).2 with
  | .word v => (match decodeWord v.toNat 0 with
    | .ok i => some (if c.framing then stepped c.repst i else i)
    | .error _ => none)
  | _ => none

/-- The commands of VOP, VUN, VRED, VMEM, PLANE and ACC, which are charged to VEB (R162). -/
def Instr.charged : Instr → Bool
  | .vadd _ _ _ => true
  | .vsub _ _ _ => true
  | .vmul _ _ _ => true
  | .vfma _ _ _ => true
  | .vmin _ _ _ => true
  | .vmax _ _ _ => true
  | .vand _ _ _ => true
  | .vor _ _ _ => true
  | .vxor _ _ _ => true
  | .vshl _ _ _ => true
  | .vcmp _ _ _ => true
  | .vsel _ _ _ => true
  | .vcvt _ _ => true
  | .vexp _ _ => true
  | .vrcp _ _ => true
  | .vrsq _ _ => true
  | .vabs _ _ => true
  | .vneg _ _ => true
  | .vmov _ _ => true
  | .vsoft _ _ => true
  | .vfill _ _ => true
  | .vmask _ _ _ => true
  | .vsum _ _ => true
  | .vmaxr _ _ => true
  | .vminr _ _ => true
  | .vscan _ _ => true
  | .vgath _ _ _ => true
  | .vscat _ _ _ => true
  | .ezero _ => true
  | .eacc _ _ => true
  | .edrn _ _ _ => true
  | .bppack _ _ _ => true
  | .bpunpk _ _ => true
  | .bscl _ _ _ => true
  | _ => false

/-- The next instruction of a context is one that energy holds back (R162, R255). -/
def State.heldByVeb (s : State) (w : Who) (c : Ctx) : Bool :=
  decide (s.veb w.core ≤ 0) && ((s.peek w c).map Instr.charged).getD false

/-- A command of the tile is held up by pacing (R261): a matrix or set command under less than full holding, any other command with no
energy left. -/
def State.cmdPaced (s : State) (c id : Nat) : Bool :=
  match (s.core c).cmds.find? fun x => x.id == id with
  | none => false
  | some x => match x.part with
    | .dense => decide (s.hold c < (tileKind (coreTile c)).full)
    | .setEngine => decide (s.hold c < (tileKind (coreTile c)).full)
    | _ => decide (s.veb c ≤ 0)

/-- Every outstanding command is held up by pacing, and something is outstanding. -/
def State.allPaced (s : State) (c : Nat) (l : List OutOp) : Bool :=
  !l.isEmpty && l.all fun o => o.cls == .mx && s.cmdPaced c o.id

/-- Every item a context awaits is held up by pacing (R261). -/
def State.awaitsPaced (s : State) (w : Who) (c : Ctx) : Bool :=
  match c.run with
  | .parked (.matrix id) => s.cmdPaced w.core id
  | .parked (.setCmd id) => s.cmdPaced w.core id
  | .parked (.counter .mx) => s.allPaced w.core (c.out.filter fun o => o.cls == .mx)
  | .parked (.waitc mx cp st ld) =>
    s.allPaced w.core (c.out.filter fun o =>
      (o.cls == .mx && decide (mx < c.count .mx)) || (o.cls == .cp && decide (cp < c.count .cp))
        || (o.cls == .st && decide (st < c.count .st)) || (o.cls == .ld && decide (ld < c.count .ld)))
  | .parked (.fence k) => s.allPaced w.core (s.fenceNeeds w c k) && (k != 2 || c.flush.isEmpty)
  | .saving => s.allPaced w.core c.out
  | _ => false

/-- Which counter a cc of a context's life adds to (R260): none, TCNT or CNT. -/
inductive Charge | none | tcnt | cnt
  deriving DecidableEq, Repr, Inhabited

/-- Attribution of each cc (R260). -/
def State.charge (s : State) (w : Who) (c : Ctx) : Charge :=
  match c.run, c.role with
  | .frozen, _ => .none
  | .placed, _ => .none
  | .saving, _ => .none
  | _, .top _ => .none
  | _, _ =>
    if c.mode != .u then .none
    else if c.run == .ready && decide (c.spacing ≤ s.now w.core) && s.heldByVeb w c then .tcnt
    else if s.awaitsPaced w c then .tcnt
    else .cnt

/-- Greatest value of a 40-bit waiting count (R259). -/
def maxCount : Nat := 2 ^ 40 - 1

/-- The barrier timer of a parked BWAITT runs down (R312). -/
def Run.tick (r : Run) : Run :=
  match r with
  | .parked (.barrier b (some t)) => .parked (.barrier b (some (t - 1)))
  | r => r

/-- CNT reaches the limit in this cc (R262). -/
def Ctx.expires (c : Ctx) (ch : Charge) : Bool :=
  let lim := bits c.wdog 63 48 * 2 ^ 20
  ch == .cnt && lim != 0 && bits c.wdog 39 0 + 1 == lim

/-- A context after a cc. -/
def Ctx.elapse (c : Ctx) (ch : Charge) : Ctx :=
  let c := { c with run := c.run.tick, expired := c.expired || c.expires ch }
  match ch with
  | .none => c
  | .tcnt => { c with thrc := setBits c.thrc 39 0 (Nat.min maxCount (bits c.thrc 39 0 + 1)) }
  | .cnt => { c with wdog := setBits c.wdog 39 0 (Nat.min maxCount (bits c.wdog 39 0 + 1)) }

/-- What the present cc adds to for a context: as it was before its issue, where it has issued in it (R260). -/
def State.chargeNow (s : State) (w : Who) (c : Ctx) : Charge :=
  match (s.core w.core).issued with
  | some (sl, b) => if sl = w.slot then (if b then .cnt else .none) else s.charge w c
  | none => s.charge w c

/-- Every context of a core after a cc, its engines and channels, and its notice (R282). -/
def State.elapseCore (s : State) (core : Nat) : State :=
  let k := s.core core
  let slots := k.slots.map fun p => (p.1, p.2.elapse (s.chargeNow { core := core, slot := p.1 } p.2))
  let s := s.setCore core { k with slots := slots, issued := none }
  let s := (s.runEngines core 1).runChans core 1
  let w := s.cb core 0x0200
  if bits w 21 12 = 0 then s else s.setCb core 0x0200 (setBits w 21 12 (bits w 21 12 - 1))

/-- A cc of a home is over: it may take another access, and a serving goes on (R207, R226). -/
def Core.nextCc (k : Core) : Core :=
  { k with
    cc := 0
    took := false
    servings := k.servings.map fun (v : Serving) => { v with due := true } }

/-- The basin's cc is over, and what was noted of it with it; a BUDGET accepted in it is for the next round (R289). -/
def Ret.nextCc (k : Ret) : Ret :=
  { k with late := false, closed := false, asked := [], accepted := k.budgeted.orElse fun _ => k.accepted, budgeted := none }

/-- The abort requests that reached root barriers of a core in this cc are applied, after whatever completed there (R312). -/
def State.settleAborts (s : State) (core : Nat) : State :=
  let l := (s.core core).aborts
  if l.isEmpty then s
  else l.foldl (fun s x => if bits (s.cb core (barSt x.1)) 47 32 = x.2.toNat ∧ !s.committing core x.1 then s.verdict core x.1 true else s)
    (s.modCore core fun k => { k with aborts := [] })

/-- One cc of a basin's clock passes (R9): the errors found in it are settled, then its cores' contexts, engines, notices and timers go on,
and at a step boundary a round is due (R2, R280). A basin that drains counts how long (R392); one in retention has no clock
(R396). -/
def State.elapse (s : State) (r : Nat) : State :=
  let cs := s.coresOf r
  let s := cs.foldl (fun s c => (s.modCore c Core.nextCc).settleAborts c) (s.settleErrors r)
  match (s.reticle r).low with
  | .retained => s
  | .draining =>
    let s := cs.foldl (fun s c => s.modCtx { core := c, slot := 63 } fun x => { x with spacing := 0 }) s
    s.modRet r fun k => { k.nextCc with drained := k.drained + 1 }
  | .running =>
    let s := (cs.foldl (fun s c => (s.elapseCore c).flushDue c) s).settleGains r
    let cc := (s.reticle r).cc
    let s := s.modRet r fun k => { k.nextCc with cc := cc + 1, step := (cc + 1) / Config.stepCc }
    if (cc + 1) % Config.stepCc = 0 then s.push (.grantRound r) else s

end Sys2Proof.Machine
end

