-- ==== Sys2Proof/Machine/Control.lean ====
section
/-! DEFINITION. Meanings of branches, calls, repeat frames and thread control (R294 to R306). -/
namespace Sys2Proof.Machine

/-- BR (R294): taken when the predicate equals NOT sense. -/
def execBr (p : BitVec 4) (sn : BitVec 1) (o : BitVec 20) (s : State) : Out :=
  onCtx s fun w c =>
    if c.pred p.toNat = (sn == 0) then .next (s.finishTo w (c.pc + (sext64 o <<< 2)) 8) else .next (s.finish w 1 8)

/-- CALL (R294). -/
def execCall (d : Reg) (imm : BitVec 19) (s : State) : Out :=
  onCtx s fun w c =>
    needRegs s w c [] (some d)
      (.next ((s.setReg w c d.toNat (c.pc + 4)).finishTo w (c.pc + (sext64 imm <<< 2)) 8))

/-- JR (R294): the target is read before the link is written, and a target that is no multiple of 4 traps ALIGN. -/
def execJr (d a : Reg) (imm : BitVec 12) (s : State) : Out :=
  onCtx s fun w c =>
    needRegs s w c [a] (some d)
      (let t := s.reg w c a.toNat + sext64 imm
       if bits t 1 0 ≠ 0 then trapNow s w c .align t
       else .next ((s.setReg w c d.toNat (c.pc + 4)).finishTo w t 8))

/-! Repeat frames (R295 to R299). -/

/-- A BR, CALL, JR, REPF or SYS instruction, which no frame may hold (R297 step 3). -/
def Instr.nests : Instr → Bool
  | .br _ _ _ => true
  | .call _ _ => true
  | .jr _ _ _ => true
  | .repfConstant _ _ _ _ => true
  | .repfRegister _ _ _ _ => true
  | .trap _ => true
  | .hcall _ => true
  | .eret => true
  | _ => false

/-- A word is the first of an LDI, which has two (R54). DEDUCED (log 30): a LONG word of reserved `sub` is ILLOP alone, and no word after it is
fetched. -/
def startsLdi (v : BitVec 32) : Bool :=
  match decodeWord v.toNat 0 with
  | .ok (.ldi _ _) => true
  | .ok (.ldiN _ _) => true
  | _ => false

/-- What REPF finds when it looks at the next instructions: their length in words, a nesting instruction, a fetch fault, or a miss. -/
inductive FrameEnd
  | words (n : Nat)
  | nest (at_ : Word)
  | trap (c : Cause) (tval : Word)
  | miss
  deriving DecidableEq, Repr, Inhabited

/-- Fetch and examine `n` instructions from an address on, one word at a time in address order (R297 steps 2 to 4). -/
def State.frameWords (w : Who) (c : Ctx) : Nat → Word → Nat → State → State × FrameEnd
  | 0, _, len, s => (s, .words len)
  | n + 1, a, len, s =>
    let r := s.fetch w c a
    match r.2 with
    | .miss => (r.1, .miss)
    | .trap cz t => (r.1, .trap cz t)
    | .word v =>
      if startsLdi v then
        let q := r.1.fetch w c (a + 4)
        match q.2 with
        | .miss => (q.1, .miss)
        | .trap cz t => (q.1, .trap cz t)
        | .word _ => State.frameWords w c n (a + 8) (len + 2) q.1
      else
        match decodeWord v.toNat 0 with
        | .ok i => if Instr.nests i then (r.1, .nest a) else State.frameWords w c n (a + 4) (len + 1) r.1
        | .error _ => State.frameWords w c n (a + 4) (len + 1) r.1

/-- repst at the start of a frame (R297 step 6). -/
def frameStart (n1 stride mask len cnt : Nat) : Word :=
  BitVec.ofNat 64 (2 ^ 63 + n1 * 2 ^ 58 + stride * 2 ^ 55 + mask * 2 ^ 52 + (len - 1) * 2 ^ 47 + cnt * 2 ^ 16)

/-- REPF with a count (R297). -/
def repf (s : State) (w : Who) (c : Ctx) (n1 stride mask cnt : Nat) : Out :=
  if bit c.repst 63 then trapNow s w c .repfnest c.pc
  else
    let r := State.frameWords w c (n1 + 1) (c.pc + 4) 0 s
    match r.2 with
    | .miss => .next r.1
    | .trap cz t => trapNow r.1 w c cz t
    | .nest at_ => trapNow r.1 w c .repfnest at_
    | .words len =>
      if cnt = 0 then .next (r.1.finish w (1 + len) 8)
      else .next ((r.1.finish w 1 8).modCtx w fun x => { x with repst := frameStart n1 stride mask len cnt })

/-- REPF, constant form (R295, R297). -/
def execRepfConstant (n : BitVec 4) (st m : BitVec 3) (cnt : BitVec 15) (s : State) : Out :=
  onCtx s fun w c => repf s w c n.toNat st.toNat m.toNat cnt.toNat
/-- REPF, register form: the count is x[a][15:0] (R295, R297). -/
def execRepfRegister (n : BitVec 4) (st m : BitVec 3) (a : Reg) (s : State) : Out :=
  onCtx s fun w c => needRegs s w c [a] none (repf s w c n.toNat st.toNat m.toNat (bits (s.reg w c a.toNat) 15 0))

/-! Thread control (R302 to R306). -/

/-- NOP (R302). -/
def execNop (s : State) : Out := onCtx s fun w _ => .next (s.finish w 1 8)
/-- YIELD (R303): lent positions are given up until the context's own position comes round. -/
def execYield (s : State) : Out :=
  onCtx s fun w _ => .next ((s.finish w 1 8).modCtx w fun c => { c with
    yielded := s.now w.core + 1 + (w.slot + 63 - s.now w.core % 64) % 64 })

/-- What EXITMEM reports a context to hold (R343): borrowed sets, streams, the CBU, barrier memberships. -/
def State.holdings (s : State) (w : Who) (c : Ctx) : Nat :=
  (if c.sets.isEmpty then 0 else 1)
    + (if (s.core w.core).streams.any fun p => p.2.isOpen && p.2.slot == w.slot && p.2.gen == s.gen w then 2 else 0)
    + (if (s.core w.core).cbu.owner = some (w.slot, s.gen w) ∧ (s.core w.core).cbu.savedBy = none then 4 else 0)
    + (if c.grp = 0 then 0 else 8)

/-- Retirement from step 2 on (R43, R52, R236, R274): one −1 for the context or the pair. -/
def State.retire (s : State) (w : Who) (c : Ctx) : State :=
  let s := s.releaseSets w
  let s := s.leaveAll w
  let s := s.releaseStreams w
  let s := s.releaseCbu w
  let s := s.uncharge c.dref false (some (s.src w, c.tag))
  let s := s.returnOverflow c.ovix
  let s := s.vacate w
  match c.partner with
  | none => s
  | some p => s.vacate { core := w.core, slot := p }

/-- EXIT (R43, R304, R378). -/
def execExit (s : State) : Out :=
  onCtx s fun w c =>
    waitLimits s w c 0 0 0 0
      (if c.mode == .u && bit c.trapen 11 && s.holdings w c != 0 then
         trapNow s w c .exitmem (BitVec.ofNat 64 (s.holdings w c))
       else together s w c (.next (s.retire w c)))

/-- The context that TSTART makes (R305, R42): privilege, ASID, partition, class and watchdog limit are its creator's. -/
def childOf (c : Ctx) (base lim : Nat) (pc : Word) : Ctx :=
  { Ctx.fresh .resident (if c.prv == .u then .u else .s) c.part c.asid base lim pc with
    ecls := c.ecls, wdog := maskIn (maskBits 63 48) 0 c.wdog, dref := c.dref }

/-- A child is placed in the slot found for it. One charged to a tree is Placed until its charge is acknowledged (R274), which then
delivers the handle; any other is Ready at once. -/
def State.startChild (s : State) (w : Who) (c : Ctx) (d : Reg) (sl base lim : Nat) (pc arg : Word) : State :=
  let t : Who := { core := w.core, slot := sl }
  let k := { childOf c base lim pc with spacing := s.now w.core + 1 }
  let k := if bit c.dref 63 then { k with run := .placed } else k
  let s := (s.setCtx t k).setReg t k 1 arg
  let h := s.handle t
  if bit c.dref 63 then
    let id := s.ids
    let o : OutOp := { id := id, cls := .ld, dst := some d.toNat, home := none, both := (s.runningTop w c).isSome }
    let wt : DrainWait :=
      { core := drefCore c.dref, src := s.src w, tag := c.tag, id := id, use := .child sl, value := h, va := BitVec.ofNat 64 (drefRoot c.dref) }
    let s := { s with ids := id + 1 }
    let s := (s.owe w c d.toNat).modCtx w fun x => x.add o
    (s.push (.drainUp (.core (drefCore c.dref)) (.core (drefCore c.dref)) (drefRoot c.dref) wt)).finish w 1 8
  else (s.setReg w c d.toNat h).finish w 1 8

/-- TSTART (R305). DEDUCED (log 61): on a reticle with PVAL = 0, which runs no such context (R323), no slot is free for one. -/
def execTstart (d a b : Reg) (s : State) : Out :=
  onCtx s fun w c =>
    needRegs s w c [a, b] (some d) (roomIn s w c .ld
      (let pc := s.reg w c a.toNat
       let v := s.reg w c b.toNat
       let n := bits v 7 0
       if bits pc 1 0 ≠ 0 then trapNow s w c .align pc
       else if bits v 31 8 ≠ 0 ∨ n < 8 ∨ 128 < n ∨ n % 8 ≠ 0 ∨ c.kind = .migrant then trapNow s w c .taskerr s.irWord
       else outward s w c [a, b] (some d) fun s w c =>
         (let k := s.core w.core
          match (if k.ringCount = 0 && s.pval (coreRet w.core) then k.place w.core n else none) with
          | none => .next ((s.setReg w c d.toNat onesW).finish w 1 8)
          | some (sl, base) => .next (s.startChild w c d sl base n pc (sextN 32 (bits v 63 32))))))

/-- The context a handle names, if the generation still matches (R306). -/
def State.handleOf (s : State) (core : Nat) (h : Word) : Option (Who × Ctx) :=
  let t : Who := { core := core, slot := bits h 5 0 }
  if (s.gen t).toNat = bits h 31 16 then (s.ctx? t).map fun x => (t, x) else none

/-- TSTOP (R306): kills the resident context that the handle names, unless it has gone. -/
def execTstop (a : Reg) (s : State) : Out :=
  onCtx s fun w c =>
    needRegs s w c [a] none
      (let h := s.reg w c a.toNat
       if bits h 63 32 ≠ 0 ∨ bits h 15 6 ≠ 0 then trapNow s w c .taskerr s.irWord
       else match s.handleOf w.core h with
         | none => outward s w c [a] none fun s w _ => .next (s.finish w 1 8)
         | some (t, x) =>
           if x.kind ≠ .resident ∨ t = w ∨ c.partner = some t.slot ∨ x.asid ≠ c.asid ∨ x.part ≠ c.part
               ∨ modeCode c.prv < modeCode x.prv then
             trapNow s w c .taskerr s.irWord
           else outward s w c [a] none fun s w _ => .next ((s.kill t 0 false).finish w 1 8))

end Sys2Proof.Machine
end

