-- ==== Sys2Proof/Machine/Contexts.lean ====
section
/-! DEFINITION. The life of contexts between instructions: waking (R36, R254), taking the trap that is due (R339, R341), stripping
(R32), and migrants on their way (R47 to R53). -/
namespace Sys2Proof.Machine

/-- Its next instruction is an EXIT that still drains ctr (R304), or is not known yet. -/
def State.atExit (s : State) (w : Who) (c : Ctx) : Bool :=
  !c.drained && match (s.fetch w c c.pc).2 with
    | .word _ => s.peek w c == some .exit
    | .miss => true
    | .trap _ _ => false

/-! Traps that are due (R341). -/

/-- The pending asynchronous traps in the order of R341. -/
inductive Due
  | debug | late | eng | watchdog | severity | step | resume | droop | tokrevoke | hostirq
  deriving DecidableEq, Repr, Inhabited

/-- HOSTIRQ is pending for a slot whose context runs in U with HIE set (R338). -/
def State.hostirqDue (s : State) (w : Who) (c : Ctx) : Bool :=
  let v := s.cb w.core 0x0810
  bit v 15 && bits v 5 0 == w.slot && c.mode == .u && bit c.trapen 10

/-- A trap of this kind is due. -/
def State.isDue (s : State) (w : Who) (c : Ctx) : Due → Bool
  | .debug => c.pend.dbg.isSome
  | .late => c.pend.late.isSome && !s.atExit w c
  | .eng => c.pend.eng.isSome && !s.atExit w c
  | .watchdog => c.pend.watchdog.isSome
  | .severity => c.pend.severity.isSome
  | .step => c.pend.step.isSome
  | .resume => c.pend.resume.isSome
  | .droop => c.pend.droop.isSome
  | .tokrevoke => c.pend.tokrevoke.isSome
  | .hostirq => s.hostirqDue w c

/-- The first trap due at an issue turn (R341). -/
def State.due? (s : State) (w : Who) (c : Ctx) : Option Due :=
  [Due.debug, .late, .eng, .watchdog, .severity, .step, .resume, .droop, .tokrevoke, .hostirq].find? fun d => s.isDue w c d
/-- One that ends a park is due (R36). -/
def State.dueInPark (s : State) (w : Who) (c : Ctx) : Bool :=
  (c.diverged && !s.pairBehind w c) || [Due.debug, .late, .watchdog, .severity, .hostirq].any fun d => s.isDue w c d

/-- Cause, tval and marks of a due trap (R343). -/
def State.dueTrap (s : State) (w : Who) (c : Ctx) : Due → Cause × Word × TrapKind
  | .debug => (.debug, c.pend.dbg.getD 0, { asyn := true, late := false, eng := false })
  | .late => ((c.pend.late.getD (.none, 0)).1, (c.pend.late.getD (.none, 0)).2, { asyn := false, late := true, eng := false })
  | .eng => ((c.pend.eng.getD (.none, 0)).1, (c.pend.eng.getD (.none, 0)).2, { asyn := false, late := false, eng := true })
  | .watchdog => (.watchdog, c.wdog, { asyn := true, late := false, eng := false })
  | .severity => (.severity, c.pend.severity.getD 0, { asyn := true, late := false, eng := false })
  | .step => (.steptrap, c.pend.step.getD 0, { asyn := true, late := false, eng := false })
  | .resume => (.resume, c.pend.resume.getD 0, { asyn := true, late := false, eng := false })
  | .droop => (.droop, c.pend.droop.getD 0, { asyn := true, late := false, eng := false })
  | .tokrevoke => (.tokrevoke, c.pend.tokrevoke.getD 0, { asyn := true, late := false, eng := false })
  | .hostirq => (.hostirq, s.cb w.core 0x0810 &&& maskBits 63 16, { asyn := true, late := false, eng := false })

/-- A trap taken is no longer pending (R338, R341). -/
def State.notDue (s : State) (w : Who) : Due → State
  | .debug => s.modCtx w fun c => { c with pend := { c.pend with dbg := none } }
  | .late => s.modCtx w fun c => { c with pend := { c.pend with late := none } }
  | .eng => s.modCtx w fun c => { c with pend := { c.pend with eng := none } }
  | .watchdog => s.modCtx w fun c => { c with pend := { c.pend with watchdog := none } }
  | .severity => s.modCtx w fun c => { c with pend := { c.pend with severity := none } }
  | .step => s.modCtx w fun c => { c with pend := { c.pend with step := none } }
  | .resume => s.modCtx w fun c => { c with pend := { c.pend with resume := none } }
  | .droop => s.modCtx w fun c => { c with pend := { c.pend with droop := none } }
  | .tokrevoke => s.modCtx w fun c => { c with pend := { c.pend with tokrevoke := none } }
  | .hostirq => s.setCb w.core 0x0810 (setBit (s.cb w.core 0x0810) 15 false)

/-- TAKE_TRAP (R254, R339): the Ready context of a slot takes the first trap due; where one of x1 to x4 is lost it takes UEREG, and that trap
stays due (R367). -/
def State.takeDue (s : State) (w : Who) : State :=
  match s.ctx? w with
  | none => s
  | some c =>
    match s.due? w c with
    | none => s
    | some d =>
      if c.run ≠ .ready ∨ s.trapWaits w c then s
      else
        let t := s.dueTrap w c d
        let f := if c.mode == .f || c.inh || (s.vector w c).isNone then (s, none) else State.checkRegs w c [1, 2, 3, 4] s
        match f.2 with
        | none => (f.1.notDue w d).trap w c.pc t.2.1 t.2.2 t.1
        | some x => if f.1.gen w = s.gen w then f.1.trap w c.pc x .sync .uereg else f.1

/-! Waking (R36, R254). -/

/-- The home of the firmware context's queue that a core's HCALLs go to (R345). -/
def fwCore (c : Nat) : Nat := coreId (coreRet c) 0

/-- HCALL requests of a firmware context's queue and on their way to it (R345). -/
def State.hcalls (s : State) (f : Nat) : Nat :=
  (s.core f).hcq.length + (s.pending.filter fun e => match e with
    | .hcallRequest q => fwCore q.src.core == f
    | _ => false).length

/-- The wake condition of a park (R36). Completing parks, and a blocking set command, are ended by their units. -/
def State.wakes (s : State) (w : Who) (c : Ctx) : Park → Bool
  | .regs rs => rs.all fun r => (s.regEntry w c r).pres == .present
  | .counter k => decide (c.count k < 15)
  | .waitc mx cp st ld => c.within mx cp st ld
  | .fence k => s.fenceMet w c k
  | .cond => c.cond.isNone && !(c.lvq.any LvqEntry.conditional) && c.kind != .message
  | .nwr dir => !c.nwrOut.contains dir
  | .cb => false
  | .icinv _ => false
  | .tlbi _ => false
  | .matrix _ => false
  | .setCmd _ => false
  | .firmwareQueue => decide (s.hcalls (fwCore w.core) < Config.hcallQueue)
  | .barrier b _ => ((s.member? w.core b w.slot).map (·.done)).getD true
  | .lvqFull => decide (c.lvq.length < Config.lvqEntries)
  | .lvqEmpty => match (c.partner.bind fun p => s.ctx? { core := w.core, slot := p }).map Ctx.lvq with
    | some (.read _ _ _ v :: _) => v.isSome
    | some (.held _ :: _) => true
    | _ => ((c.partner.bind fun p => s.ctx? { core := w.core, slot := p }).map Ctx.diverged).getD false
  | .partner => !s.pairBehind w c
  | .tsv n => ((c.tsv[n]?).map (·.2)).getD true
  | .machchk => false

/-- Parks that no asynchronous trap ends (R36). -/
def Park.firm : Park → Bool
  | .cb => true
  | .icinv _ => true
  | .tlbi _ => true
  | .matrix _ => true
  | .lvqFull => true
  | .machchk => true
  | _ => false

/-- A parked context has something to wake for. -/
def State.mayWake (s : State) (w : Who) (c : Ctx) : Bool :=
  match c.run with
  | .parked p => s.wakes w c p || (!p.firm && c.cancelling.isNone && s.dueInPark w c)
  | _ => false

/-- A blocking set command of a context stops where it stands (R36, R181): the instruction goes on when it executes again. -/
def State.stopSet (s : State) (w : Who) (c : Ctx) : State :=
  match c.run with
  | .parked (.setCmd id) => (match (s.core w.core).cmds.find? fun x => x.id == id with
    | some x => s.stopSetCmd w.core x
    | none => s)
  | _ => s

/-- CONTEXT_WAKE: the wake condition holds, or a trap is due that ends the park; an outstanding conditional access is then cancelled
first (R36, R227, R254). -/
def State.wakeUpCtx (s : State) (w : Who) : State :=
  match s.ctx? w with
  | none => s
  | some c =>
    match c.run with
    | .parked p =>
      if s.wakes w c p then s.wake w
      else if p.firm || c.cancelling.isSome || !s.dueInPark w c then s
      else if c.cond.isSome then (s.modCtx w fun c => { c with cancelling := some .trap }).push (.cancel w.core w.slot .trap)
      else (s.stopSet w c).wake w
    | _ => s

/-! Migrants on their way (R48 to R52). -/

/-- The 32 words of a migrant's packet (R49). -/
def State.packet (s : State) (w : Who) (c : Ctx) (pc : Word) : List Word :=
  let o := c.ovix.getD (coreRet w.core, 2 ^ 20 - 1)
  [pc,
   BitVec.ofNat 64 (c.part * 2 ^ 48 + c.asid * 2 ^ 36 + (if c.partner.isSome then 2 ^ 35 else 0) + c.ecls.toNat * 2 ^ 32
     + (c.pw.toNat ||| 1)),
   c.fmta, c.fmtb, c.repst, c.dref, c.wdog,
   BitVec.ofNat 64 (0xFFFFF * 2 ^ 44 + o.2 * 2 ^ 24 + o.1 * 2 ^ 16)]
  ++ ((List.range 23).map fun i => s.reg w c (i + 1))
  ++ [BitVec.ofNat 64 (bits c.trapen 21 0 * 2 ^ 40 + bits c.thrc 39 0)]

/-- Word `i` of a packet. -/
def pkt (p : List Word) (i : Nat) : Word := p.getD i 0

/-- The migrant a packet makes (R42, R49). -/
def migrantOf (p : List Word) (base : Nat) : Ctx :=
  { Ctx.fresh .migrant .u (bits (pkt p 1) 53 48) (bits (pkt p 1) 47 36) base 24 (pkt p 0) with
    ecls := BitVec.ofNat 3 (bits (pkt p 1) 34 32)
    pw := BitVec.ofNat 32 (bits (pkt p 1) 31 0)
    fmta := pkt p 2
    fmtb := pkt p 3
    repst := pkt p 4
    dref := pkt p 5
    wdog := pkt p 6
    trapen := BitVec.ofNat 64 (bits (pkt p 31) 61 40)
    thrc := BitVec.ofNat 64 (bits (pkt p 31) 39 0)
    ovix := packetOvix p }

/-- Write x1 to x23 of a migrant from its packet. -/
def State.loadRegs (s : State) (w : Who) (c : Ctx) (p : List Word) : State :=
  (List.range 23).foldl (fun s i => s.setReg w c (i + 1) (pkt p (8 + i))) s

/-- Put one member into a slot. -/
def State.placeMember (s : State) (core : Nat) (p : List Word) (sl base : Nat) (role : Role) : State :=
  let w : Who := { core := core, slot := sl }
  let c := { migrantOf p base with role := role, spacing := s.now core + 1 }
  (s.setCtx w c).loadRegs w c p

/-- Place a packet in a slot, or a pair in two (R50). DESIGN CHOICE (log 65): the members of a pair take two runs of 24 entries, each the first
that fits, not one run of 48. -/
def State.placePacket (s : State) (core : Nat) (p : List Word) : Option State :=
  if bit (pkt p 1) 35 then
    match (s.core core).place core 24 with
    | none => none
    | some (sl, base) =>
      let s' := s.placeMember core p sl base .single
      match (s'.core core).place core 24 with
      | none => none
      | some (sl2, base2) =>
        some ((s'.placeMember core p sl2 base2 (.top sl)).modCtx { core := core, slot := sl } fun c =>
          { c with role := .under sl2 })
  else (s.core core).place core 24 |>.map fun x => s.placeMember core p x.1 x.2 .single

/-- No hold of a tile stops the write of the next ring entry (R217). -/
def State.ringFree (s : State) (core : Nat) : Bool :=
  let k := s.core core
  let lo := Config.ringLo + 256 * ((k.ringHead + k.ringCount) % Config.ringPackets)
  k.holds.all fun h => !k.holdStops h true { lo := lo, hi := lo + 256 }

/-- Append a packet to the tail of a core's ring, each word with fresh check bits. -/
def State.ringAppend (s : State) (core : Nat) (p : List Word) : State :=
  let k := s.core core
  let a := ringEntry core (k.ringHead + k.ringCount)
  let out (x : Nat) : Bool := decide (x < a) || decide (a + 256 ≤ x)
  let s : State := { s with mem := memWords s.mem a p, poison := s.poison.filter out, corrupt := s.corrupt.filter out }
  s.modCore core fun k => { k with ringCount := k.ringCount + 1 }

/-- The words of the packet at the head of a ring are checked as it is read (R18, R192, R357), charged to the migrant (R358): whether one is not to be
trusted. -/
def State.checkRing (s : State) (core : Nat) : State × Bool :=
  let a := ringEntry core (s.core core).ringHead
  s.checkWords (.sram core (Config.ringLo + 256 * (s.core core).ringHead)) { kind := 3, who := none } ((List.range 32).map fun i => a + 8 * i)

/-- The migrant's tag, under which its overflow entry is written and read (R52, R324). -/
def packetTag (p : List Word) : Tag := { part := bits (pkt p 1) 53 48, mode := .u }

/-- The 64-byte granules of an overflow entry (R326). -/
def granules (a : Nat) : List Nat := [a, a + 64, a + 128, a + 192]

/-- The source of what a core's own hardware sends: its message context. -/
def State.messageSrc (s : State) (core : Nat) : Src := s.src { core := core, slot := 63 }

/-- Write a packet to its overflow entry and append it to the core's queue, linking it behind the tail (R49, R50, R52). -/
def State.overflowAppend (s : State) (core : Nat) (p : List Word) : State :=
  match packetOvix p with
  | none => s.killPacket core p (causeCode .acctbl)
  | some o =>
    let a := s.poolEntry o
    let tail := (s.core core).overflow.getLast?
    let r := s.unitAdmitsAll (s.messageSrc core) (packetTag p) .write
      (granules a ++ (tail.map fun t => s.poolEntry t + 56).toList)
    if !r.2 then r.1.killPacket core p (causeCode .acctbl)
    else
      let s := r.1.unitWriteAll a p
      let s := match tail with
        | none => s
        | some t =>
          let b := s.poolEntry t + 56
          s.unitWrite b (setBits (BitVec.ofNat 64 (memRead s.mem (s.nowAt b) 8)) 63 44 o.2)
      s.modCore core fun k => { k with overflow := k.overflow ++ [o] }

/-- An arriving packet: a slot, the ring, or the overflow queue (R50). -/
def State.arrivePacket (s : State) (core : Nat) (p : List Word) : State :=
  let placed := if (s.core core).ringCount = 0 then s.placePacket core p else none
  match placed with
  | some s' => s'
  | none => if (s.core core).ringCount < Config.ringPackets then s.ringAppend core p else s.overflowAppend core p

/-- The ring's packets take free slots, first in, first out (R50); one with a word that is not to be trusted is discarded as a kill (DESIGN
CHOICE, log 63). -/
def State.drainRing (s : State) (core : Nat) : Nat → State
  | 0 => s
  | n + 1 =>
    let k := s.core core
    if k.ringCount = 0 then s
    else
      let next (s : State) : State :=
        s.modCore core fun k => { k with ringHead := (k.ringHead + 1) % Config.ringPackets, ringCount := k.ringCount - 1 }
      match s.placePacket core (s.ringPacket core k.ringHead) with
      | none => s
      | some _ =>
        let ck := s.checkRing core
        let p := ck.1.ringPacket core k.ringHead
        if ck.2 then (next (ck.1.killPacket core p (causeCode .uesram))).drainRing core n
        else match ck.1.placePacket core p with
          | none => ck.1
          | some s' => (next s').drainRing core n

/-- The overflow head moves into a free ring entry (R50, R52); it is queued no more, and its LINK says so (R49). -/
def State.refill (s : State) (core : Nat) : State :=
  let k := s.core core
  match k.overflow with
  | [] => s
  | o :: rest =>
    if Config.ringPackets ≤ k.ringCount then s
    else
      let a := s.poolEntry o
      let p := (readWords s.mem (s.nowAt a) 32).set 7 (setBits (BitVec.ofNat 64 (memRead s.mem (s.nowAt (a + 56)) 8)) 63 44 0xFFFFF)
      let s := s.modCore core fun k => { k with overflow := rest }
      let r := s.unitAdmitsAll (s.messageSrc core) (packetTag p) .read (granules a)
      if !r.2 then r.1.killPacket core p (causeCode .acctbl)
      else
        let ck := r.1.unitReadAll a { kind := 3, who := none } 32
        if ck.2.isNone then ck.1.killPacket core p (causeCode .uedram)
        else (ck.1.ringAppend core p).drainRing core 1

/-- A Departing migrant whose ctr is zero leaves: packet, slot freed (R48), unless a register is lost (R367). A trap that became due while it drained is taken first, at
the instruction that made it leave, which has not been performed. -/
def State.departNow (s : State) (w : Who) : State :=
  match s.ctx? w with
  | none => s
  | some c =>
    match c.run with
    | .departing home pc =>
      if !c.drained then s
      else if (s.due? w { c with pc := pc }).isSome then s.modCtx w fun c => { c with run := .ready, pc := pc, stall := none }
      else
        let f := State.checkRegs w c (upTo 24 fun r => r != 0) s
        match f.2 with
        | some x =>
          if f.1.gen w = s.gen w then (f.1.modCtx w fun c => { c with run := .ready, pc := pc, stall := none }).trap w pc x .sync .uereg
          else f.1
        | none =>
          let s := f.1.push (.migrantArrival home (f.1.packet w c pc) w.core)
          let s := s.vacate w
          match c.partner with
          | none => s
          | some p => s.vacate { core := w.core, slot := p }
    | _ => s

/-- Stripping of a slot's entries ends (R32): the slot is free, and the ring's head takes it before anything else (R50). A launcher that
waits for room tries again (R266). -/
def State.stripped (s : State) (core slot : Nat) : State :=
  if (s.core core).strips.any fun x => x.slot == slot then
    let s := s.modCore core fun k => { k with strips := k.strips.filter fun x => x.slot != slot }
    let s := s.drainRing core (s.core core).ringCount
    let root := s.rootRet (coreRet core)
    if s.pval (coreRet core) && !(s.reticle root).launch.isEmpty then s.push (.gangPlace root) else s
  else s

/-! The meanings of the events. -/

/-- ISSUE_SPACING_END (R129): the spacing of a context has run, and it may issue again. -/
def execIssueSpacingEnd (s : State) : Out :=
  match s.ev with
  | some (.issueSpacingEnd core slot) =>
    .next (s.modCtx { core := core, slot := slot } fun c => if c.spacing ≤ s.now core then { c with spacing := 0 } else c)
  | _ => .next s

/-- CONTEXT_WAKE (R254). -/
def execContextWake (s : State) : Out :=
  match s.ev with
  | some (.contextWake core slot) => .next (s.wakeUpCtx { core := core, slot := slot })
  | _ => .next s

/-- TAKE_TRAP (R339). -/
def execTakeTrap (s : State) : Out :=
  match s.ev with
  | some (.takeTrap core slot) => .next (s.takeDue { core := core, slot := slot })
  | _ => .next s

/-- STRIP_DONE (R32). -/
def execStripDone (s : State) : Out :=
  match s.ev with
  | some (.stripDone core slot) => .next (s.stripped core slot)
  | _ => .next s

/-- MIGRANT_DEPARTURE (R48). -/
def execMigrantDeparture (s : State) : Out :=
  match s.ev with
  | some (.migrantDeparture core slot) => .next (s.departNow { core := core, slot := slot })
  | _ => .next s

/-- MIGRANT_ARRIVAL (R50). -/
def execMigrantArrival (s : State) : Out :=
  match s.ev with
  | some (.migrantArrival core p _) => .next (s.arrivePacket core p)
  | _ => .next s

/-- OVERFLOW_REFILL (R50). -/
def execOverflowRefill (s : State) : Out :=
  match s.ev with
  | some (.overflowRefill core) => .next (s.refill core)
  | _ => .next s

/-- WATCHDOG_EXPIRY (R262): WATCHDOG is due in the cc in which CNT reached the limit. -/
def execWatchdogExpiry (s : State) : Out :=
  match s.ev with
  | some (.watchdogExpiry core slot) =>
    .next (s.modCtx { core := core, slot := slot } fun c =>
      if c.expired then { c with expired := false, pend := { c.pend with watchdog := some c.wdog } } else c)
  | _ => .next s

end Sys2Proof.Machine
end

