-- ==== Sys2Proof/Machine/Messages.lean ====
section
/-! DEFINITION. Meanings of the events of messages: requests at their homes, attempts and wait lists, cancels, replies, combining,
walks and invalidations, neighbour writes, stamps (R188, R195, R202, R207, R225 to R227, R232, R238, R271, R353). -/
namespace Sys2Proof.Machine

/-- A context's conditional access is still the one of this number. -/
def State.stillWants (s : State) (a : Access) : Bool :=
  a.src.modn != s.modn || match s.srcWho a.src with
    | none => false
    | some w => ((s.ctx? w).bind (·.cond)).map (·.id) == some a.id

/-- The answer of an operation of a context that is not an access of its own: a result or a failure with its tval (R33, R222). -/
def State.settle (s : State) (src : Src) (id : Nat) (v : Word) (st : Status) (va : Word) : State :=
  s.applyReply { acc := { id := id, src := src, tag := { part := 0, mode := .u }, op := .qpush, va := va, pa := 0, data := 0,
                          cmp := 0, dst := .notice, attempt := 0 }, value := v, status := st }

/-! Requests at their homes. -/

/-- LOAD_REQUEST (R188). -/
def execLoadRequest (s : State) : Out :=
  match s.ev with
  | some (.loadRequest a) => .next (s.reach a)
  | _ => .next s
/-- ACTIVE_MESSAGE (R207). -/
def execActiveMessage (s : State) : Out :=
  match s.ev with
  | some (.activeMessage a) => .next (s.reach a)
  | _ => .next s
/-- REMOTE_UPDATE_MIGRANT (R229). -/
def execRemoteUpdateMigrant (s : State) : Out :=
  match s.ev with
  | some (.remoteUpdateMigrant a) => .next (s.reach a)
  | _ => .next s
/-- CONDITIONAL_ATTEMPT (R225). -/
def execConditionalAttempt (s : State) : Out :=
  match s.ev with
  | some (.conditionalAttempt a) => .next (s.reach a)
  | _ => .next s
/-- ATTEMPT_RESEND (R225): the requester's core sends the next attempt. -/
def execAttemptResend (s : State) : Out :=
  match s.ev with
  | some (.attemptResend a) => .next (if s.stillWants a then s.send a else s)
  | _ => .next s
/-- WAIT_LIST_PARK (R225): the ninth attempt performs, or enters the word's list. -/
def execWaitListPark (s : State) : Out :=
  match s.ev with
  | some (.waitListPark a) => .next (s.reach a)
  | _ => .next s
/-- PARK_REQUEST_RETRY (R225). -/
def execParkRequestRetry (s : State) : Out :=
  match s.ev with
  | some (.parkRequestRetry a) =>
    .next (if !s.stillWants a then s
      else if s.isLocalPa a.pa ∧ s.homeOf a.pa = a.src.core then s.arrive a else s.push (.waitListPark a))
  | _ => .next s

/-! Wait lists (R226). -/

/-- WAIT_LIST_SERVE (R226): a cc of the serving that is at work at a home. -/
def execWaitListServe (s : State) : Out :=
  match s.ev with
  | some (.waitListServe c wa) =>
    .next (if (s.core c).servings.head?.any fun v => v.word == wa && v.due then s.serveStep c else s)
  | _ => .next s

/-! Cancels (R227). -/

/-- The access an attempt's event carries. -/
def attemptOf : Ev → Option Access
  | .conditionalAttempt a => some a
  | .attemptResend a => some a
  | .waitListPark a => some a
  | .parkRequestRetry a => some a
  | _ => none

/-- Take a waiting access away wherever it waits; answers whether it was still waiting. -/
def State.takeAway (s : State) (id : Nat) (core : Nat) : State × Bool :=
  let mine (a : Access) : Bool := a.id == id && a.src.modn == s.modn && a.src.core == core
  let inFlight := s.pending.any fun e => ((attemptOf e).map mine).getD false
  let asked : Job → Bool := fun j => match j with
    | .again a => mine a
    | .forward a => mine a
    | _ => false
  let parked := s.cores.any fun p =>
    p.2.waits.any mine || p.2.blocked.any mine || p.2.ready.any mine || p.2.jobs.any asked
  let s := { s with
    pending := s.pending.filter fun e => !((attemptOf e).map mine).getD false
    cores := s.cores.map fun (p : Nat × Core) =>
      (p.1, { p.2 with
        waits := p.2.waits.filter fun a => !mine a, blocked := p.2.blocked.filter fun a => !mine a
        ready := p.2.ready.filter fun a => !mine a, jobs := p.2.jobs.filter fun j => !asked j }) }
  (s, inFlight || parked)

/-- CANCEL (R227): the home removes the entry and answers whether the access had performed. One of another module's home leaves the
module, where an attempt of it has left. -/
def execCancel (s : State) : Out :=
  match s.ev with
  | some (.cancel core slot why) =>
    let id : Option Nat := match why with
      | .kill d => some d
      | _ => ((s.ctx? { core := core, slot := slot }).bind fun c => c.cond).map fun a => a.id
    .next (match id with
      | none => s.push (.cancelAnswer core slot true why)
      | some i =>
        match s.outbox.find? fun a => a.id == i && a.src.core == core with
        | some a => { s with outbox := s.outbox ++ [{ a with attempt := 255 }] }
        | none =>
          let x := s.takeAway i core
          x.1.push (.cancelAnswer core slot (!x.2) why))
  | _ => .next s

/-- A conditional access that had not performed is withdrawn: counter and presence as before its issue, and recorded to be re-sent
(R227). -/
def State.withdraw (s : State) (w : Who) : State :=
  match s.ctx? w with
  | none => s
  | some c =>
    match c.cond with
    | none => s
    | some a =>
      let s := match c.op? a.id with
        | some o => s.landNothing w o
        | none => s
      let nth := ((c.op? a.id).map (·.nth)).getD 0
      s.modCtx w fun c => { (c.done a.id) with
        cond := none, resend := some { a with attempt := 9, cmp := BitVec.ofNat 64 nth }, resendMore := c.resend.toList ++ c.resendMore }

/-- The completing park that a context stands in, which runs on when the context is stopped (R36); a topcoat frozen by a trap stays marked
so. -/
def Ctx.firmPark (c : Ctx) : Option Park :=
  match c.inPark with
  | some .cb => some .cb
  | some (.icinv n) => some (.icinv n)
  | some (.tlbi n) => some (.tlbi n)
  | some (.matrix id) => some (.matrix id)
  | _ => if c.busy = some .partner then c.busy else none

/-- A context freezes (R355): its park ends, but a completing park runs on (R36, R157). -/
def State.freezeNow (s : State) (w : Who) : State :=
  match s.ctx? w with
  | none => s
  | some c =>
    (s.stopSet w c).modCtx w fun c => { c with run := .frozen, busy := c.firmPark }

/-- A context that is being saved stops issuing, its park ended (R349). DESIGN CHOICE (log 59): it stands in a state of the model's own, which R28
does not list, until the save is over. A topcoat that a FREEZE had stopped goes on, to come up with its undercoat. -/
def State.stopForSave (s : State) (w : Who) : State :=
  match s.ctx? w with
  | none => s
  | some c =>
    let s := (s.stopSet w c).modCtx w fun c => { c with run := .saving, busy := c.firmPark }
    match c.role with
    | .under p => s.modCtx { core := w.core, slot := p } fun t =>
        if t.run = .frozen ∧ t.busy ≠ some Park.partner then
          { t with run := (match t.busy with
              | some k => .parked k
              | none => .ready), busy := none }
        else t
    | _ => s

/-- CANCEL_ANSWER (R227): the event that cancelled takes effect. -/
def execCancelAnswer (s : State) : Out :=
  match s.ev with
  | some (.cancelAnswer core slot performed why) =>
    let w : Who := { core := core, slot := slot }
    .next (match why with
      | .kill _ => s
      | _ =>
        if ((s.ctx? w).bind (·.cancelling)).isNone then s
        else
        let why := ((s.ctx? w).bind (·.cancelling)).getD why
        let s := if performed then s else s.withdraw w
        let s := s.modCtx w fun c => { c with cancelling := none }
        match why with
        | .freeze => s.freezeNow w
        | .save _ => s.stopForSave w
        | _ => match s.ctx? w with
          | some c => (match c.run with
            | .parked _ => (s.stopSet w c).wake w
            | _ => s)
          | none => s)
  | _ => .next s

/-! Replies (R33, R188, R222). -/

/-- A notice for one word of a merge entry's commit (R410). -/
def State.commitNotice (s : State) (c e : Nat) (st : Status) : State :=
  match mget (s.core c).merges e with
  | none => s
  | some b =>
    let s := match st with
      | .failed _ => s.setCb c (mergeOff e) (setBit (s.cb c (mergeOff e)) 55 true)
      | .ok => s
    let s := s.modCore c fun k => { k with merges := mput e { b with committing := b.committing - 1 } k.merges }
    if b.committing = 2 then s.push (.mergeCommitDone c e) else s

/-- The flushing read of a FENCE.S has been answered (R215). -/
def State.flushed (s : State) (src : Src) (id : Nat) : State :=
  match s.srcWho src with
  | none => s
  | some w => s.modCtx w fun c => { c with flush := c.flush.filter fun f => f.2 != some id }

/-- An answer reaches whatever made the access (R33, R188, R222), and a failed attempt its requester (R225): a context's register or counter, a set command, a context that waits for a word,
a copy channel, an instruction that reads memory at issue, a launcher, a merge entry, a combine entry, a save or a fence. -/
def State.accept (s : State) (r : Reply) : State :=
  if r.acc.op.conditional && r.status == .failed .none then (if s.stillWants r.acc then s.attemptFailed r.acc else s)
  else match r.acc.dst with
  | .setKey _ => s.keyReply r
  | .fetch => s.fetchEnds r
  | .gather n => s.gatherEnds n r
  | .image rt => s.imageEnds rt r
  | .save id => s.saveAnswered id r
  | .copyRd ch _ => s.push (.copySourceReply r.acc.src.core ch r)
  | .copyWr ch _ => s.push (.copyWritePerformed r.acc.src.core ch r)
  | .commit e => s.commitNotice r.acc.src.core e r.status
  | .combine rt e => s.push (.combineReply rt e r)
  | .nobody => s.flushed r.acc.src r.acc.id
  | _ => s.applyReply r

/-- LOAD_REPLY (R33). -/
def execLoadReply (s : State) : Out :=
  match s.ev with
  | some (.loadReply r0) =>
    let r := s.arrived r0
    .next (if s.inboundShut r.acc then s else (s.leftOutbox r.acc.id).accept r)
  | _ => .next s

/-- PERFORMED_NOTICE (R188, R349, R410). -/
def execPerformedNotice (s : State) : Out :=
  match s.ev with
  | some (.performedNotice r0) =>
    let r := s.arrived r0
    .next (if s.inboundShut r.acc then s else (s.leftOutbox r.acc.id).accept r)
  | _ => .next s

/-- A cancel of an access that left the module will have no answer either; the access has failed, so the cancel found it gone. -/
def State.cancelLost (s : State) (a : Access) : State :=
  if s.outbox.any fun b => b.id == a.id && b.attempt == 255 then
    match (s.srcWho a.src).bind fun w => (s.ctx? w).bind (·.cancelling) with
    | some why => s.push (.cancelAnswer a.src.core a.src.slot true why)
    | none => s
  else s

/-- An access that will have no answer is reported to whatever made it (R222, R343). -/
def State.lost (s : State) (a : Access) (cz : Cause) : State :=
  ((s.cancelLost a).leftOutbox a.id).accept { acc := a, value := 0, status := .failed cz }

/-- MEMORY_TIMEOUT (R343): the access is abandoned as one that failed; a later reply finds nothing outstanding. -/
def execMemoryTimeout (s : State) : Out :=
  match s.ev with
  | some (.memoryTimeout a) =>
    .next (s.lost a .timeoutmem)
  | _ => .next s

/-- PCIE_COMPLETION (R215): the flushing read of a FENCE.S, or a read of a host window. -/
def execPcieCompletion (s : State) : Out :=
  match s.ev with
  | some (.pcieCompletion _ r) => .next ((s.leftOutbox r.acc.id).accept r)
  | _ => .next s

/-! Combining (R195, R196). -/

/-- COMBINE_JOIN (R195): a request joins the open entry of its word, partition and privilege, opens one, or passes uncombined, ahead of what
its source has sent since (R210). -/
def execCombineJoin (s : State) : Out :=
  match s.ev with
  | some (.combineJoin r n a) =>
    let l := (s.reticle r).combine
    let open_ : Combine → Bool := fun k =>
      k.node == n && !k.sent && k.word == a.pa && ((k.members.head?).map (·.tag)).getD a.tag == a.tag
    .next (if l.any open_ then
        s.modRet r fun k => { k with combine := k.combine.map fun x => if open_ x then { x with members := x.members ++ [a] } else x }
      else if (l.filter fun k => k.node == n).length < Config.combineEntries then
        let id := s.ids
        let s := { s with ids := id + 1 }
        let s := s.modRet r fun k => { k with combine := k.combine ++
          [{ node := n, word := a.pa, members := [a], sent := false, id := id }] }
        s.push (.combineClose r id)
      else s.pushFront a.event)
  | _ => .next s

/-- COMBINE_CLOSE (R195): one AMO.ADD.F with the sum of the operands goes to the home, ahead of what its members' sources have sent since (R210). -/
def execCombineClose (s : State) : Out :=
  match s.ev with
  | some (.combineClose r id) =>
    .next (match (s.reticle r).combine.find? fun k => k.id == id && !k.sent with
      | none => s
      | some k =>
        match k.members with
        | [] => s
        | m :: _ =>
          let sum := (k.members.map (·.data)).foldl (· + ·) (0 : Word)
          let a : Access := { m with id := id, op := .amo 0 true, data := sum, dst := .combine r id, attempt := 0 }
          (s.modRet r fun x => { x with combine := x.combine.map fun y => if y.id = id then { y with sent := true } else y }).pushFront
            (.activeMessage a))
  | _ => .next s

/-- The answers of the members of an entry, in the order they reached the node (R195, R196). -/
def splitReply (v : Word) (st : Status) : List Access → List Ev
  | [] => []
  | m :: r =>
    let x : Reply := { acc := m, value := v, status := st }
    (if m.op.isLoad then Ev.loadReply x else Ev.performedNotice x) :: splitReply (v + m.data) st r

/-- COMBINE_REPLY (R195). -/
def execCombineReply (s : State) : Out :=
  match s.ev with
  | some (.combineReply r id x) =>
    .next (match (s.reticle r).combine.find? fun k => k.id == id with
      | none => s
      | some k =>
        (s.modRet r fun y => { y with combine := y.combine.filter fun z => z.id != id }).pushAll
          (splitReply x.value x.status k.members))
  | _ => .next s

/-! Translation and caches (R202, R232, R353). -/

/-- WALK_COMPLETE (R202). -/
def execWalkComplete (s : State) : Out :=
  match s.ev with
  | some (.walkComplete k) => .next (s.walkEnd k)
  | _ => .next s

/-- A TLBI removes an entry (R353). -/
def TlbiReq.hits (q : TlbiReq) (e : TlbEntry) : Bool :=
  e.part == q.part && match q.scope with
    | 0 => e.page == vaBits q.va / 2 ^ e.size && (e.g || e.asid == q.asid)
    | 1 => !e.g && e.asid == q.asid
    | _ => true

/-- What a context holds of a walk's end goes where TLBI removes it (R203). -/
def Ctx.forgetWalk (c : Ctx) (q : TlbiReq) : Ctx :=
  { c with
    walkHit := c.walkHit.filter fun x => !TlbiReq.hits q x.2
    walkFault := if c.part = q.part then none else c.walkFault }

/-- The translations that a TLBI removes at a core are noted while accesses issued under them are not answered (R203). -/
def State.noteRemoved (s : State) (core : Nat) (q : TlbiReq) : State :=
  let gone := (s.core core).tlb.filter fun e => TlbiReq.hits q e
  let old := (s.core core).removed.filter fun x => s.underRemoved core x
  s.modCore core fun k => { k with removed := old ++ gone.map fun e => (e, s.ids) }

/-- TLB_REMOVAL (R353): matching entries go, matching walks will not be installed, and the buffer acknowledges. Whether a walk under way
will match is not known before it ends, so every walk of the partition at the core is treated so. -/
def execTlbRemoval (s : State) : Out :=
  match s.ev with
  | some (.tlbRemoval core q) =>
    let s := (s.noteRemoved core q).modCore core fun k => { k with
      tlb := k.tlb.filter fun e => !TlbiReq.hits q e
      slots := k.slots.map fun p => (p.1, Ctx.forgetWalk p.2 q) }
    let s := { s with pending := s.pending.map fun (e : Ev) => match e with
      | .walkComplete k => if k.core = core ∧ k.part = q.part then .walkComplete { k with install := false } else e
      | _ => e }
    .next (s.push (.tlbiAck q))
  | _ => .next s

/-- TLBI_ACK (R353). -/
def execTlbiAck (s : State) : Out :=
  match s.ev with
  | some (.tlbiAck q) =>
    let w : Who := { core := q.core, slot := q.slot }
    .next (if s.gen w ≠ q.gen then s
      else match (s.ctx? w).bind Ctx.inPark with
        | some (.tlbi n) => if n ≤ 1 then s.completed w else s.modCtx w fun c => c.setPark (.tlbi (n - 1))
        | _ => s)
  | _ => .next s

/-- An instruction word's address meets the range of an ICINV (R232). -/
def IcReq.meets (q : IcReq) (va : Word) : Bool :=
  decide (2 ^ 24 ≤ q.len) || (decide (va.toNat < q.va.toNat + q.len) && decide (q.va.toNat < va.toNat + 4))

/-- An ICINV removes a cached word (R232). -/
def IcReq.hits (q : IcReq) (l : ILine) : Bool :=
  l.part == q.part && l.asid == q.asid && l.phys == q.phys && IcReq.meets q l.va

/-- Words fetched for an instruction that has not issued go, and one on its way is asked for again (R232). -/
def Ctx.forgetWords (c : Ctx) (q : IcReq) : Ctx :=
  if c.part == q.part && c.asid == q.asid && (c.mode == .f) == q.phys then
    { c with fetched := c.fetched.filter fun x => !IcReq.meets q x.1, fetching := none }
  else c

/-- ICACHE_INVALIDATION (R232). -/
def execIcacheInvalidation (s : State) : Out :=
  match s.ev with
  | some (.icacheInvalidation core q) =>
    .next ((s.modCore core fun k => { k with
      icache := k.icache.filter fun l => !IcReq.hits q l
      slots := k.slots.map fun p => (p.1, Ctx.forgetWords p.2 q) }).push (.icinvAck q))
  | _ => .next s

/-- ICINV_ACK (R232). -/
def execIcinvAck (s : State) : Out :=
  match s.ev with
  | some (.icinvAck q) =>
    let w : Who := { core := q.core, slot := q.slot }
    .next (if s.gen w ≠ q.gen then s
      else match (s.ctx? w).bind Ctx.inPark with
        | some (.icinv n) => if n ≤ 1 then s.completed w else s.modCtx w fun c => c.setPark (.icinv (n - 1))
        | _ => s)
  | _ => .next s

/-! Neighbour writes (R238, R339). -/

/-- The receiver of a neighbour write: a resident context, alone, of the sender's partition and ASID, with the register. -/
def State.receiver (s : State) (core : Nat) (n : NWrite) : Option Ctx :=
  (s.ctx? { core := core, slot := n.src.slot }).filter fun c =>
    c.kind == .resident && c.partner.isNone && c.part == n.part && c.asid == n.asid && decide (n.reg < c.lim)

/-- A held write lands: its register is armed, and no handler holds it back. -/
def State.nwrLands (s : State) (core : Nat) (n : NWrite) : Bool :=
  match s.ctx? { core := core, slot := n.src.slot } with
  | none => false
  | some c =>
    (s.regEntry { core := core, slot := n.src.slot } c n.reg).pres == .armed && !(c.inh && 1 ≤ n.reg && decide (n.reg ≤ 4))

/-- NEIGHBOUR_WRITE (R238): dropped where its sender has gone (R35), refused, discarded for register 0, or held until it lands. -/
def execNeighbourWrite (s : State) : Out :=
  match s.ev with
  | some (.neighbourWrite n) =>
    .next (if (s.srcWho n.src).isNone then s else match s.receiver n.core n with
      | none => s.push (.nwrAck n false)
      | some _ =>
        if n.reg = 0 then s.push (.nwrAck n true)
        else s.modCore n.core fun k => { k with nwr := k.nwr ++ [n] })
  | _ => .next s

/-- NEIGHBOUR_WRITE_LAND (R238). -/
def execNeighbourWriteLand (s : State) : Out :=
  match s.ev with
  | some (.neighbourWriteLand core dir slot) =>
    .next (match (s.core core).nwr.find? fun n => n.dir == dir && n.src.slot == slot with
      | none => s
      | some n =>
        if s.nwrLands core n then
          let s := s.setRegOf { core := core, slot := slot } n.reg n.data
          (s.modCore core fun k => { k with nwr := k.nwr.filter fun m => m != n }).push (.nwrAck n true)
        else s)
  | _ => .next s

/-- NWR_ACK (R238): the counter falls and the direction is free; a refusal is a late NLINK. -/
def execNwrAck (s : State) : Out :=
  match s.ev with
  | some (.nwrAck n ok) =>
    .next (match s.srcWho n.src with
      | none => s
      | some w =>
        let s := s.modCtx w fun c => { c with nwrOut := c.nwrOut.filter fun d => d != n.dir }
        s.settle n.src n.id 0 (if ok then .ok else .failed .nlink) (BitVec.ofNat 64 (n.reg * 2 ^ 8 + n.dir)))
  | _ => .next s

/-! Stamps of early-push queues (R270, R271). -/

/-- A write issued at or before a stamp has not performed yet (R220). -/
def Ctx.owesWrite (c : Ctx) (cnt : Nat) : Bool :=
  let upTo (n : Nat) : Bool := n != 0 && decide ((cnt + 2 ^ 28 - n % 2 ^ 28) % 2 ^ 28 < 2 ^ 27)
  c.out.any (fun o => upTo o.nth) || (c.resend.toList ++ c.resendMore).any fun a => a.op == .stef && upTo a.cmp.toNat

/-- The producer of a stamp has performed its writes up to it, or has gone (R220, R271). -/
def State.stampMet (s : State) (st : Word) : Bool :=
  let w : Who := { core := coreId (bits st 63 58) (bits st 57 50), slot := bits st 49 44 }
  match s.ctx? w with
  | none => true
  | some c =>
    (s.gen w).toNat != bits st 43 28
      || (decide ((c.performedW + 2 ^ 28 - bits st 27 0) % 2 ^ 28 < 2 ^ 27) && !c.owesWrite (bits st 27 0))

/-- STAMP_QUERY (R271): the producer's core answers, at once or when its writes have performed. -/
def execStampQuery (s : State) : Out :=
  match s.ev with
  | some (.stampQuery q) => .next (if s.stampMet q.stamp then s.push (.stampSatisfied q) else s.push (.stampQuery q))
  | _ => .next s
/-- STAMP_SATISFIED (R271): the QPOP's reply is sent. -/
def execStampSatisfied (s : State) : Out :=
  match s.ev with
  | some (.stampSatisfied q) => .next (s.answer (s.homeOf q.reply.acc.pa) q.reply.acc q.reply.value q.reply.status)
  | _ => .next s

end Sys2Proof.Machine
end

