-- ==== Sys2Proof/Machine/Broker.lean ====
section
/-! DEFINITION. Power tokens: meanings of the TOKEN instructions (R318) and of the broker's events: grant rounds, notices, droop, thermal
reports, loans (R279 to R292). -/
namespace Sys2Proof.Machine

/-! TOKEN (R318). -/

/-- The frame of a TOKEN instruction: rim cores hold no token state. -/
def tokenFrame (s : State) (srcs : List Reg) (d : Option Reg) (body : State → Who → Ctx → Out) : Out :=
  onCtx s fun w c => needRegs s w c srcs d
    (if !isTile w.core then trapNow s w c .tokenerr s.irWord else outward s w c srcs d body)

/-- TKREQ. -/
def execTkreq (d a : Reg) (s : State) : Out :=
  tokenFrame s [a] (some d) fun s w c =>
    let s' := s.tokRequest w.core (s.reg w c a.toNat).toNat c.ecls.toNat
    .next ((s'.setReg w c d.toNat (s'.cb w.core 0x0200)).finish w 1 8)
/-- TKREL. -/
def execTkrel (a : Reg) (s : State) : Out :=
  tokenFrame s [a] none fun s w c => .next ((s.tokRelease w.core (s.reg w c a.toNat).toNat).finish w 1 8)
/-- TKLEND. -/
def execTklend (d a b : Reg) (s : State) : Out :=
  tokenFrame s [a, b] (some d) fun s w c =>
    let v := s.reg w c b.toNat
    let t := bits v 7 0
    if bits v 63 8 ≠ 0 ∨ 192 ≤ t ∨ s.tileFailed (coreRet w.core) t ∨ t = coreTile w.core then trapNow s w c .lenderr v
    else
      let r := s.tokLend w.core (s.reg w c a.toNat).toNat (coreId (coreRet w.core) t)
      .next ((r.2.setReg w c d.toNat (BitVec.ofNat 64 r.1)).finish w 1 8)
/-- TKQRY. -/
def execTkqry (d : Reg) (s : State) : Out :=
  tokenFrame s [] (some d) fun s w c => .next ((s.setReg w c d.toNat (s.cb w.core 0x0200)).finish w 1 8)
/-- ECLS. -/
def execEcls (a : Reg) (s : State) : Out :=
  tokenFrame s [a] none fun s w c =>
    let v := s.reg w c a.toNat
    if bits v 63 3 ≠ 0 then trapNow s w c .tokenerr s.irWord
    else .next ((s.modCtx w fun c => { c with ecls := BitVec.ofNat 3 (bits v 2 0) }).finish w 1 8)

/-! The broker's counts (R279). -/

/-- Sum of numbers by key. -/
def mapSum (m : Map Nat) : Nat := sumOf (m.map (·.2))
/-- Add to the number at a key. -/
def mapAdd (k n : Nat) (m : Map Nat) : Map Nat := mset 0 k ((mget m k).getD 0 + n) m
/-- Take from the number at a key. -/
def mapSub (k n : Nat) (m : Map Nat) : Map Nat := mset 0 k ((mget m k).getD 0 - n) m

/-- C: the budget in force, under the thermal cap while that is active (R279, R286). -/
def State.budgetNow (s : State) (r : Nat) : Nat :=
  let b := bits (s.rcb r 0x0600) 9 0
  let w := s.rcb r 0x0618
  if bit w 16 then Nat.min b (bits w 9 0) else b
/-- The ceiling, lowered by what a lender has recalled (R279, R287). -/
def State.ceiling (s : State) (r : Nat) : Int :=
  let k := s.reticle r
  (s.budgetNow r + k.lentIn : Nat) - (k.lentOut + mapSum k.recalled : Nat)
/-- The pool (R279), less what engines still draw of tokens already lost (R282). -/
def State.tokenPool (s : State) (r : Nat) : Int :=
  s.ceiling r - (s.granted r + sumOf ((s.reticle r).gains.map (·.n)) : Nat)

/-- Tiles of a basin that hold token state and that something has touched, in ascending number. -/
def State.tokenTiles (s : State) (r : Nat) : List Nat :=
  ((upTo 192 fun t => (mget s.cores (coreId r t)).isSome).map (coreId r)).filter fun c => s.kindMax c != 0
/-- Tokens lent that wait for their lender's loss (R278, R279). -/
def State.lendsWaiting (s : State) (r : Nat) : Nat :=
  sumOf (((s.reticle r).gains.filter fun g => g.dst.isSome).map (·.n))
/-- What a round sees unmet of a tile. -/
def State.lacks (s : State) (c : Nat) : Nat := (s.tokSeen c).want - (s.tokSeen c).hold
/-- The unmet tiles of a basin, as a round sees them. -/
def State.unmetTiles (s : State) (r : Nat) : List Nat := (s.tokenTiles r).filter fun c => s.lacks c != 0
/-- Sum of what they lack. -/
def State.unmetTotal (s : State) (r : Nat) : Nat := sumOf ((s.unmetTiles r).map s.lacks)

/-- Effective class at a boundary (R280). -/
def State.effClass (s : State) (c k : Nat) : Nat :=
  let u := (mget (s.reticle (coreRet c)).unmet (coreTile c)).getD k
  Nat.min 7 ((s.tokSeen c).cls + (k - 1 - u) / 16)
/-- Grant order (R280). -/
def State.grantsBefore (s : State) (k a b : Nat) : Bool :=
  let u (c : Nat) : Nat := (mget (s.reticle (coreRet c)).unmet (coreTile c)).getD k
  if s.effClass a k ≠ s.effClass b k then decide (s.effClass b k < s.effClass a k)
  else if u a ≠ u b then decide (u a < u b)
  else decide (a < b)
/-- The unmet tiles in grant order. -/
def State.grantOrder (s : State) (r : Nat) : List Nat := sortBy (s.grantsBefore (s.reticle r).step) (s.unmetTiles r)
/-- Revocation order (R282): class ascending, then tile descending. -/
def State.revokeOrder (s : State) (r : Nat) : List Nat :=
  sortBy (fun (a b : Nat) =>
      if (s.tokSeen a).cls ≠ (s.tokSeen b).cls then decide ((s.tokSeen a).cls < (s.tokSeen b).cls) else decide (b < a))
    (s.tokenTiles r)

/-- Report a token event to the contexts of a tile that run in U with TKE set (R290); a later event replaces the tval of a pending one (R341). -/
def State.reportTokens (s : State) (c : Nat) (droop : Bool) (n : Nat) : State :=
  let v := BitVec.ofNat 64 ((s.tok c).hold + n % 16 * 2 ^ 4 + if droop then 2 ^ 8 else 0)
  let told (x : Ctx) : Ctx :=
    if x.mode == .u && bit x.trapen 8 then
      let p := if droop then { x.pend with droop := some v } else { x.pend with tokrevoke := some v }
      { x with pend := { p with droop := p.droop.map fun _ => v, tokrevoke := p.tokrevoke.map fun _ => v } }
    else x
  s.modCore c fun k => { k with slots := k.slots.map fun p => (p.1, told p.2) }

/-- A tile's idle time starts at a boundary (R283). -/
def State.idleFrom (s : State) (c k : Nat) : State :=
  s.modRet (coreRet c) fun x => { x with idle := mput (coreTile c) k x.idle }

/-! A grant round (R280 to R283). -/

/-- Tiles charged or lent to since the last boundary are idle from this one; those idle for IDLE steps are reclaimed (R283). -/
def State.reclaim (s : State) (r : Nat) : State :=
  let k := (s.reticle r).step
  let s := (s.reticle r).worked.foldl (fun s t => s.idleFrom (coreId r t) k) s
  let s := s.modRet r fun x => { x with worked := [] }
  let lim := bits (s.rcb r 0x0608) 23 16
  if lim = 0 then s
  else (s.tokenTiles r).foldl (fun s c =>
    let t := s.tok c
    if t.hold ≠ 0 ∧ ((mget (s.reticle r).idle (coreTile c)).getD k) + lim ≤ k then
      s.setTok c { t with hold := 0, want := t.want - (s.tokSeen c).want, pend := 0, ncnt := 0 }
    else s) s

/-- Grants in grant order, under the pool and CSL; answers the tokens added (R280, R281). -/
def State.grantAll (s : State) (r csl : Nat) : List Nat → Nat → State × Nat
  | [], added => (s, added)
  | c :: l, added =>
    let t := s.tok c
    let g := Nat.min (s.lacks c) (Nat.min (s.tokenPool r).toNat (csl - added))
    if g = 0 then State.grantAll s r csl l added
    else
      let s := (s.setTok c { t with hold := t.hold + g }).idleFrom c (s.reticle r).step
      if added + g = csl then (s, added + g) else State.grantAll s r csl l (added + g)

/-- Place a notice of `n` tokens on a tile (R282, R290, R292). -/
def State.notice (s : State) (c n : Nat) : State :=
  let t := s.tok c
  let s := s.setTok c { t with pend := t.pend + n, ncnt := 512 }
  let r := coreRet c
  (s.setRcb r 0x0638 (satInc (s.rcb r 0x0638) 31 16)).reportTokens c false n

/-- Choose tokens to notice for an amount, from holders in order: the plan so far maps each tile to its tokens (R282). -/
def State.choose (s : State) (ok : Nat → Bool) : List Nat → Nat → Map Nat → Map Nat
  | [], _, plan => plan
  | c :: l, n, plan =>
    let t := s.tok c
    let g := if ok c then Nat.min n (t.hold - t.pend - (mget plan c).getD 0) else 0
    State.choose s ok l (n - g) (mapAdd c g plan)

/-- Running notices counted against the unmet amounts: what is left of a tile's amount and of the notices (R282). -/
def State.cover (s : State) (cls : Nat) : List Nat → Nat → Map Nat → Nat × Map Nat
  | [], n, m => (n, m)
  | h :: l, n, m =>
    let g := if (s.tokSeen h).cls < cls then Nat.min n ((mget m h).getD 0) else 0
    State.cover s cls l (n - g) (mapSub h g m)

/-- Tokens to notice for a ceiling below use (R282): what stands above it, less the tokens already under notice. -/
def State.excessPlan (s : State) (r : Nat) : Map Nat :=
  let holders := s.revokeOrder r
  let running := sumOf (holders.map fun c => (s.tok c).pend)
  s.choose (fun _ => true) holders (((s.granted r + s.lendsWaiting r : Nat) - s.ceiling r).toNat - running) []

/-- Notices are placed as planned. -/
def State.noticeAll (s : State) (plan : Map Nat) : State := plan.foldl (fun s p => if p.2 = 0 then s else s.notice p.1 p.2) s

/-- The notices of a round: for a ceiling below use, and for unmet tiles while the pool is 0 (R282). -/
def State.placeNotices (s : State) (r : Nat) (order : List Nat) : State :=
  let holders := s.revokeOrder r
  let plan := s.excessPlan r
  s.noticeAll (if s.tokenPool r ≠ 0 then plan
    else
      let run : Map Nat := holders.foldl (fun m c => mapAdd c (s.tok c).pend m) []
      let rest := (order.foldl (fun (x : List (Nat × Nat) × Map Nat) c =>
        let y := s.cover (s.tokSeen c).cls holders (s.lacks c) x.2
        (x.1 ++ [(c, y.1)], y.2)) ([], run)).1
      rest.foldl (fun plan p => s.choose (fun h => decide ((s.tokSeen h).cls < (s.tokSeen p.1).cls)) holders p.2 plan) plan)

/-! Loans (R287). -/

/-- The basin on a side may lend to or borrow from this one: the pass is live, both lend, one partition or both across partitions. -/
def State.lendsWith (s : State) (r side : Nat) : Option Nat :=
  if !s.passLive r side then none
  else (neighbourRet r side).filter fun q =>
    bit (s.rcb r 0x0608) 32 && bit (s.rcb q 0x0608) 32
      && (s.samePart r q || (bit (s.rcb r 0x0608) 33 && bit (s.rcb q 0x0608) 33))

/-- Return tokens that have come free and that a lender recalled. -/
def State.returnLoans (s : State) (r : Nat) : State :=
  [0, 1, 2, 3].foldl (fun s side =>
    let k := s.reticle r
    let owed := (mget k.recalled side).getD 0
    let free := (s.tokenPool r + (mapSum k.recalled : Nat)).toNat
    let n := Nat.min owed free
    if n = 0 || !s.passLive r side then s
    else
      let s := s.modRet r fun k => { k with recalled := mapSub side n k.recalled, loanIn := mapSub side n k.loanIn }
      match neighbourRet r side with
      | some q => s.push (.loanReturn q (opposite side) n)
      | none => s) s

/-- Offer to each neighbour that lacked tokens after its own grants what the pool holds above LRES; tokens on loan are not lent on. -/
def State.makeLoans (s : State) (r : Nat) : State :=
  [0, 1, 2, 3].foldl (fun s side =>
    match s.lendsWith r side with
    | none => s
    | some q =>
      let free := (s.tokenPool r - ((s.reticle r).lentIn : Nat) - (bits (s.rcb r 0x0608) 31 24 : Nat)).toNat
      let n := Nat.min (Nat.min free (s.reticle q).left) 16
      if n = 0 then s
      else (s.modRet r fun k => { k with loanOut := mapAdd side n k.loanOut }).push (.loanOffer q (opposite side) n)) s

/-- Take offered loans, which count against CSL in this round (R281): what is above it waits for the next. -/
def State.takeLoans (s : State) (r csl added : Nat) : State :=
  ((s.reticle r).offers.foldl (fun (x : State × Nat) p =>
    let n := Nat.min p.2 (csl - x.2)
    (x.1.modRet r fun k => { k with offers := mapSub p.1 n k.offers, loanIn := mapAdd p.1 n k.loanIn }, x.2 + n))
    (s, added)).1

/-- Tokens of a loan on a side that have been called back and are not back yet. -/
def State.calledBack (s : State) (q side : Nat) : Nat :=
  (mget (s.reticle q).recalled side).getD 0 + sumOf (s.pending.map fun (e : Ev) => match e with
    | .loanRecall r d n => if r = q ∧ d = side then n else 0
    | .loanReturn r d n => if some r = neighbourRet q side ∧ d = opposite side then n else 0
    | _ => 0)

/-- A lender whose own tiles stay unmet recalls loans. -/
def State.recallLoans (s : State) (r : Nat) : State :=
  ([3, 2, 1, 0].foldl (fun (x : State × Nat) side =>
    match neighbourRet r side with
    | none => x
    | some q =>
      let out := (mget (x.1.reticle r).loanOut side).getD 0
      let n := Nat.min x.2 (out - x.1.calledBack q (opposite side))
      if n = 0 || !x.1.passLive r side then x else (x.1.push (.loanRecall q (opposite side) n), x.2 - n)) (s, s.unmetTotal r)).1

/-- Refill VEB of every core with its holding (R162). -/
def State.refillVeb (s : State) (r : Nat) : State :=
  ((s.cores.map (·.1)).filter fun c => coreRet c == r && isTile c).foldl (fun s c =>
    let f := 16384 + 114688 * (s.tok c).hold
    let v := min (s.veb c + f) f
    s.setCb c 0x0208 (BitVec.ofNat 64 (BitVec.ofInt 32 v).toNat <<< 32 ||| BitVec.ofNat 64 f)) s

/-- A grant round (R280). -/
def State.round (s : State) (r : Nat) : State :=
  let s := match (s.reticle r).accepted with
    | some n => (s.setRcb r 0x0600 (setBits (s.rcb r 0x0600) 9 0 n)).modRet r fun k => { k with accepted := none }
    | none => s
  let s := (s.settleGains r).reclaim r
  if (s.reticle r).droopHold ≠ 0 then
    (s.modRet r fun k => { k with droopHold := k.droopHold - 1 }).refillVeb r
  else
    let csl := bits (s.rcb r 0x0608) 7 0
    let s := s.returnLoans r
    let order := s.grantOrder r
    let g := s.grantAll r csl order 0
    let s := g.1.placeNotices r (order.filter fun c => g.1.lacks c != 0)
    let s := s.modRet r fun k => { k with left := s.unmetTotal r }
    let s := (s.makeLoans r).takeLoans r csl g.2
    (s.recallLoans r).refillVeb r

/-- A pass is lost (R288): what came on loan over it is gone at once, and notices meet the excess; a lender's LENTOUT stays. -/
def State.losePass (s : State) (r side : Nat) : State :=
  match neighbourRet r side with
  | none => s
  | some q =>
    if s.deadPasses.contains (r, side) then s
    else
      let s : State := { s with deadPasses := s.deadPasses ++ [(r, side), (q, opposite side)] }
      let drop (s : State) (b d : Nat) : State :=
        let s := s.modRet b fun k => { k with loanIn := mdel d k.loanIn, recalled := mdel d k.recalled, offers := mdel d k.offers }
        s.noticeAll (s.excessPlan b)
      drop (drop s r side) q (opposite side)

/-! The events. -/

/-- GRANT_ROUND (R280). A basin in Lowland has no clock and no round (R396). -/
def execGrantRound (s : State) : Out :=
  match s.ev with
  | some (.grantRound r) => .next (if (s.reticle r).low = .retained then s else s.round r)
  | _ => .next s

/-- NOTICE_EXPIRY (R282): the noticed tokens are gone; they join the pool once the engine's lower holding takes effect. -/
def execNoticeExpiry (s : State) : Out :=
  match s.ev with
  | some (.noticeExpiry c) =>
    let t := s.tok c
    .next (if t.ncnt ≠ 0 ∨ t.pend = 0 then s
      else
        let s := s.setTok c (t.lose t.pend)
        if s.lags c then s.modRet (coreRet c) fun k => { k with gains := k.gains ++ [{ src := c, n := t.pend, dst := none }] } else s)
  | _ => .next s

/-- DROOP_ALARM (R284, R289): every holding is halved, notices are cancelled, and rounds are held. One in the cc of a boundary holds that
boundary's round too. -/
def execDroopAlarm (s : State) : Out :=
  match s.ev with
  | some (.droopAlarm r) =>
    let due := s.pending.contains (.grantRound r)
    let s := (s.tokenTiles r).foldl (fun s c =>
      let t := s.tok c
      let h := t.hold / 2
      let s := s.setTok c { t with hold := h, pend := 0, ncnt := 0 }
      if t.hold = 0 then s else s.reportTokens c true (t.hold - h)) s
    let s := s.setRcb r 0x0638 (satInc (s.rcb r 0x0638) 15 0)
    .next (s.modRet r fun k => { k with droopHold := bits (s.rcb r 0x0608) 11 8 + if due then 1 else 0 })
  | _ => .next s

/-- THERMAL_REPORT (R286). -/
def execThermalReport (s : State) : Out :=
  match s.ev with
  | some (.thermalReport r on) => .next (s.setRcb r 0x0618 (setBit (s.rcb r 0x0618) 16 on))
  | _ => .next s

/-- LOAN_OFFER (R287): the borrower takes it in its next round. -/
def execLoanOffer (s : State) : Out :=
  match s.ev with
  | some (.loanOffer r side n) =>
    .next (if s.passLive r side then s.modRet r fun k => { k with offers := mapAdd side n k.offers } else s)
  | _ => .next s

/-- LOAN_RECALL (R287): a lowered ceiling, up to what the borrower still has. -/
def execLoanRecall (s : State) : Out :=
  match s.ev with
  | some (.loanRecall r side n) =>
    let k := s.reticle r
    let had := (mget k.loanIn side).getD 0 - (mget k.recalled side).getD 0
    .next (if s.passLive r side then s.modRet r fun k => { k with recalled := mapAdd side (Nat.min n had) k.recalled } else s)
  | _ => .next s

/-- LOAN_RETURN (R287): LENTOUT falls, and the tokens are in the lender's pool again. -/
def execLoanReturn (s : State) : Out :=
  match s.ev with
  | some (.loanReturn r side n) =>
    .next (if s.passLive r side then s.modRet r fun k => { k with loanOut := mapSub side n k.loanOut } else s)
  | _ => .next s

end Sys2Proof.Machine
end

