-- ==== Sys2Proof/Machine/Drainage.lean ====
section
/-! DEFINITION. The drainage tree (R272 to R276): counters that rise and fall, acknowledgements, the root word, and what a charge is
for. -/
namespace Sys2Proof.Machine

/-! The root word (R272, R324, R328). -/

/-- Change the root word in one step where it performs now (R205, R272), and serve its list (R317): as an atomic access of the context that causes
it, which the home's table may refuse (R324, R328), and which meets an untrusted word (R192). Answers the cause of a failure. -/
def State.rootChange (s : State) (root : Nat) (cause : Option (Src × Tag)) (f : Word → Word) : State × Option Cause :=
  let ad : State × Bool := match cause with
    | none => (s, true)
    | some (src, t) => s.unitAdmits src t .atomic root
  if !ad.2 then (ad.1, some .acctbl)
  else
    let l := ad.1.nowAt root
    let b : Blame := match cause with
      | none => { kind := 7, who := none }
      | some (src, t) => ad.1.blame src t.mode
    let ck := ad.1.checkWord (ad.1.placeOf l) l b
    if ck.2 then (ck.1, some .uedram)
    else
      let s := ck.1.storeBytes l 8 (f (BitVec.ofNat 64 (memRead ck.1.mem l 8))).toNat
      (s.serveSoon (s.homeOf (s.paOf l)) l, none)

/-- Add to LIVE, modulo 2^16. -/
def addLive (n : Nat) (v : Word) : Word := setBits v 15 0 ((bits v 15 0 + n) % 2 ^ 16)

/-! What a charge is for (R267, R273, R274). -/

/-- The lowest free entry of a reticle's overflow pool (R52). -/
def State.freeOverflow (s : State) (r : Nat) : Option Nat :=
  (List.range (bits (s.rcb r 0x0408) 19 0)).find? fun i => !(s.reticle r).pool.contains i

/-- A spawned packet takes an overflow entry of its spawner's reticle and leaves for its home (R52, R269, R314). Answers the result of SPAWN: 1 where
there is no entry, and no migrant. -/
def State.sendSpawn (s : State) (core : Nat) (p : List Word) (home : Nat) : State × Word :=
  let r := coreRet core
  match s.freeOverflow r with
  | none => (s, 1)
  | some i =>
    let w7 := BitVec.ofNat 64 (0xFFFFF * 2 ^ 44 + i * 2 ^ 24 + r * 2 ^ 16)
    ((s.modRet r fun k => { k with pool := sadd i k.pool }).push (.migrantArrival home (p.set 7 w7) core), 0)

/-- A member of a launcher's gang that stands for a refused charge is charged no longer (R267). -/
def State.gangRefused (s : State) (r core : Nat) : State :=
  match (s.reticle r).gang with
  | none => s
  | some g =>
    match g.members.find? fun m => m.1 == core &&
        ((s.ctx? { core := m.1, slot := m.2 }).map fun c => bit c.dref 63).getD false with
    | none => s
    | some m => s.modCtx { core := m.1, slot := m.2 } fun c => { c with dref := 0 }

/-- One charge of a gang has been answered; the last lets the launcher go on (R267). -/
def State.gangCharged (s : State) (r core : Nat) (bad : Option Cause) : State :=
  let refused := bad.isSome
  let s := if refused then s.gangRefused r core else s
  match (s.reticle r).gang with
  | none => s
  | some g =>
    let g' := { g with charges := g.charges - 1, failed := g.failed || refused }
    let s := s.modRet r fun k => { k with gang := some g' }
    if g.charges = 1 then s.push (.gangRelease r) else s

/-- The child of a TSTART: Ready once its charge is acknowledged, gone where it is refused (R273, R274, R305). -/
def State.childCharged (s : State) (t : Who) (handle : Word) (refused : Bool) : State :=
  if (s.gen t).toNat ≠ bits handle 31 16 then s
  else match (s.ctx? t).map Ctx.run with
    | some .placed =>
      if refused then s.vacate t
      else s.modCtx t fun c => { c with run := .ready, spacing := s.now t.core + 1 }
    | _ => s

/-! Counters (R272 to R274). -/

/-- What a +1 adds at a level: the amount of a DRINC at its core, one elsewhere. -/
def drainAmount (n : DrainNode) (w : DrainWait) : Nat :=
  match n, w.use with
  | .core _, .amount k => k
  | _, _ => 1

/-- A −1, KILL or FAIL at a level (R273, R274, R276): a count that returns to zero passes −1 on, and the marks go up whatever the counts
do. A −1 that meets +1s not yet acknowledged is set off against them when they are; one that finds no entry is discarded and logged. -/
def State.drainLower (s : State) (n : DrainNode) (root : Nat) (dec kill fail : Bool) (cause : Option (Src × Tag)) : State :=
  match n with
  | .root => (s.rootChange root cause fun v =>
      let v := if dec then addLive (2 ^ 16 - 1) v else v
      let v := if kill then setBit v 62 true else v
      if fail then setBit v 63 true else v).1
  | _ =>
    let k := s.drainCount n root
    let up (s : State) (d : Bool) : State :=
      if d || kill || fail then s.push (.drainDown (drainParent n) n root d kill fail cause) else s
    if !dec then up s false
    else if s.drainWaits n root != [] then
      up (s.setDrainWaits n root (s.drainWaits n root) (s.drainLows n root + 1)) false
    else if k = 0 then
      let c := match n with
        | .core c => c
        | .cluster r _ => coreId r 0
        | .reticle r => coreId r 0
        | .root => 0
      let e : LogEntry :=
        { cls := 63, kind := 7, act := 1, ret := coreRet c, tile := coreTile c, slot := 0, gen := 0
          addr := BitVec.ofNat 64 (s.paOf root), ak := 1, code := causeCode .uectr, detail := 0 }
      up (s.logEntry (coreRet c) e).1 false
    else up (s.setDrain n root (k - 1)) (k == 1)

/-- The operation that raised a counter completes (R273, R314): a SPAWN that finds no overflow entry has its charge withdrawn first (R269). -/
def State.charged (s : State) (w : DrainWait) (root : Nat) (bad : Option Cause) : State :=
  let st : Status := match bad with
    | some cz => .failed cz
    | none => .ok
  match w.use with
  | .amount _ => s.settle w.src w.id 0 st w.va
  | .child slot => (s.childCharged { core := w.src.core, slot := slot } w.value bad.isSome).settle w.src w.id w.value st w.va
  | .packet p home =>
    if bad.isSome then s.settle w.src w.id 0 st w.va
    else
      let r := s.sendSpawn w.src.core p home
      let s := if r.2 = 1 then r.1.drainLower (.core w.core) root true false false (some (w.src, w.tag)) else r.1
      s.settle w.src w.id r.2 .ok w.va
  | .gang r => s.gangCharged r w.core bad

/-- A level answers its child, or at a core completes the operation (R273). -/
def State.drainAnswer (s : State) (n child : DrainNode) (root : Nat) (bad : Option Cause) (w : DrainWait) : State :=
  match n with
  | .core _ => s.charged w root bad
  | _ => s.push (.drainAck child root bad w)

/-- A +1 at a level (R273): refused without a free entry, or past 2^32 − 1 at a core; a counter that leaves zero passes it on and waits, and so
does any further +1 until the answer comes; any other change stays local. The root word counts it in LIVE. -/
def State.drainRaise (s : State) (n child : DrainNode) (root : Nat) (w : DrainWait) : State :=
  match n with
  | .root =>
    let r := s.rootChange root (some (w.src, w.tag)) (addLive 1)
    r.1.push (.drainAck child root r.2 w)
  | _ =>
    let k := s.drainCount n root
    let l := s.drainWaits n root
    let add := drainAmount n w
    if k = 0 ∧ l = [] then
      (if s.drainFull n then s.drainAnswer n child root (some .drainerr) w
       else (s.setDrainWaits n root [(child, w)] 0).push (.drainUp (drainParent n) n root w))
    else if 2 ^ 32 ≤ k + add + sumOf (l.map fun x => drainAmount n x.2) then s.drainAnswer n child root (some .drainerr) w
    else if l != [] then s.setDrainWaits n root (l ++ [(child, w)]) (s.drainLows n root)
    else (s.setDrain n root (k + add)).drainAnswer n child root none w

/-- Answer to the first +1 of a level (R273): on a refusal nothing of those that waited for it stands, else all of it does, less the −1s met
meanwhile; every one of them is answered. -/
def State.drainAnswered (s : State) (n : DrainNode) (root : Nat) (bad : Option Cause) (w : DrainWait) : State :=
  let l := s.drainWaits n root
  let lows := s.drainLows n root
  let k := sumOf (l.map fun x => drainAmount n x.2) - lows
  let s := s.setDrainWaits n root [] 0
  let s := if bad.isSome then s
    else if k = 0 then s.push (.drainDown (drainParent n) n root true false false (some (w.src, w.tag)))
    else s.setDrain n root k
  l.foldl (fun s x => s.drainAnswer n x.1 root bad x.2) s

/-! The events. -/

/-- DRAIN_UP (R273). -/
def execDrainUp (s : State) : Out :=
  match s.ev with
  | some (.drainUp n child root w) => .next (s.drainRaise n child root w)
  | _ => .next s
/-- DRAIN_ACK (R273). -/
def execDrainAck (s : State) : Out :=
  match s.ev with
  | some (.drainAck n root bad w) => .next (s.drainAnswered n root bad w)
  | _ => .next s
/-- DRAIN_DOWN (R273, R274). -/
def execDrainDown (s : State) : Out :=
  match s.ev with
  | some (.drainDown n _ root dec kill fail cause) => .next (s.drainLower n root dec kill fail cause)
  | _ => .next s

/-- A drainage reference names a root. -/
def namesRoot (d : Word) (root : Nat) : Bool := bit d 63 && drefRoot d == root

/-- Kill the members of a tree on every reticle of a partition, in slots and in packets (R372). -/
def State.killTree (s : State) (r root : Nat) : State :=
  let rs := upTo 49 fun q => q == r || s.samePart r q
  rs.foldl (fun s q =>
    let s := (s.whosOf q).foldl (fun s w => match s.ctx? w with
      | some c => if namesRoot c.dref root then s.kill w 0 false else s
      | none => s) s
    ((s.cores.map (·.1)).filter fun c => coreRet c == q).foldl
      (fun s c => s.discardPackets c fun p => namesRoot (p.getD 5 0) root) s) s

/-- Reticle of a level of the tree. -/
def nodeRet : DrainNode → Nat
  | .core c => coreRet c
  | .cluster r _ => r
  | .reticle r => r
  | .root => 0

/-- A tile to name in the log for a level. -/
def nodeTile : DrainNode → Nat
  | .core c => coreTile c
  | _ => 0

/-- COUNTER_ENTRY_UE (R276, R372): the entry is removed, FAIL goes up, the error is logged, and under action 3 the tree's members are
killed. -/
def execCounterEntryUe (s : State) : Out :=
  match s.ev with
  | some (.counterEntryUe n root) =>
    .next (if n = .root ∨ s.drainCount n root = 0 then s
      else
        let s := (s.setDrain n root 0).push (.drainDown (drainParent n) n root false false true none)
        let r := nodeRet n
        let act := s.action r 9 7
        let s := s.report r 9 { kind := 7, who := none } (nodeTile n) (BitVec.ofNat 64 (s.paOf root)) 1 (causeCode .uectr) 0
        if act = 3 then s.killTree r root else s)
  | _ => .next s

end Sys2Proof.Machine
end

