-- ==== Sys2Proof/Machine/Groups.lean ====
section
/-! DEFINITION. Named barriers: meanings of the GRP instructions and of the messages between barriers (R307 to R312). -/
namespace Sys2Proof.Machine

/-! The instructions (R311, R312). -/

/-- The frame of a GRP instruction: its registers, its barrier number (R72, R307), by a pair once; one that waits for the phase when both
members have come to it. -/
def grpFrame (s : State) (waits : Bool) (g : BitVec 7) (srcs : List Reg) (d : Option Reg) (body : State → Who → Ctx → Nat → Out) : Out :=
  onCtx s fun w c => needRegs s w c srcs d
    (if 48 ≤ g.toNat then trapNow s w c .grouperr s.irWord
     else
       let k (s : State) (w : Who) (c : Ctx) : Out := body s w c g.toNat
       if waits then lockstep s w c srcs d k else outward s w c srcs d k)

/-- The context's membership, without which every form but GJOIN traps (R311). -/
def asMember (s : State) (w : Who) (c : Ctx) (b : Nat) (go : Member → Out) : Out :=
  match s.member? w.core b w.slot with
  | none => trapNow s w c .grouperr s.irWord
  | some m => go m

/-- A member arrives: counted at once, or with the phase in which it joins (R311); local completion is tested. -/
def State.arriveMember (s : State) (w : Who) (b : Nat) (m : Member) : State :=
  let st := s.cb w.core (barSt b)
  let ph := bits st 47 32
  let ap : BitVec 16 := BitVec.ofNat 16 (if m.joining then ph + 1 else ph)
  let s := s.modMember w.core b w.slot fun m => { m with out := true, done := false, ap := ap }
  let s := if m.joining then s else s.setCb w.core (barSt b) (setBits st 13 8 (bits st 13 8 + 1))
  s.testCompletion w.core b 3

/-- The arrival is consumed (R309). -/
def State.consume (s : State) (w : Who) (b : Nat) : State := s.modMember w.core b w.slot fun m => { m with out := false }

/-- COLLTIMEOUT (R311): the wait is consumed and the instruction has completed when the trap is taken. -/
def collTimeout (s : State) (w : Who) (c : Ctx) (b : Nat) (m : Member) : Out :=
  if s.trapWaits w c then .next s
  else
    let s := ((s.consume w b).finish w 1 8).modCtx w fun x => { x with pend := { x.pend with step := c.pend.step } }
    let s := match c.role with
      | .under p => s.followTop w p c.retired none
      | _ => s
    match s.ctx? w with
    | none => .next s
    | some x => .next (s.trap w x.pc (BitVec.ofNat 64 (m.ap.toNat * 2 ^ 32 + b)) .sync .colltimeout)

/-- The wait of BWAIT and BARW (R311). -/
def barrierWait (s : State) (w : Who) (c : Ctx) (b : Nat) : Out :=
  asMember s w c b fun m =>
    if !m.out then .next (s.finish w 1 8)
    else if !m.done then .next (s.park w (.barrier b none))
    else if m.res then collTimeout s w c b m
    else .next ((s.consume w b).finish w 1 8)

/-- GJOIN (R311). -/
def execGjoin (g : BitVec 7) (s : State) : Out :=
  grpFrame s false g [] none fun s w c b =>
    if c.kind = .migrant ∨ (s.member? w.core b w.slot).isSome then trapNow s w c .grouperr s.irWord
    else if Config.memberPool ≤ (s.core w.core).members.length then trapNow s w c .grpfull s.irWord
    else
      let st := s.cb w.core (barSt b)
      let now := bits st 13 8 == 0 && bits st 31 23 == 0 && !bit st 62
      let st' := if now then setBits st 5 0 (bits st 5 0 + 1) else setBits st 19 14 (bits st 19 14 + 1)
      let m : Member :=
        { bar := b, slot := w.slot, saved := none, joining := !now, out := false, ap := 0, done := false, res := false }
      let s := (s.setCb w.core (barSt b) st').modCore w.core fun k => { k with members := k.members ++ [m] }
      .next ((s.modCtx w fun x => { x with grp := setBit x.grp b true }).finish w 1 8)

/-- GLEAVE (R311). -/
def execGleave (g : BitVec 7) (s : State) : Out :=
  grpFrame s false g [] none fun s w c b => asMember s w c b fun _ => .next ((s.leaveBarrier w b).finish w 1 8)

/-- BARR (R311): an arrival issues as a release does (R212). -/
def execBarr (g : BitVec 7) (s : State) : Out :=
  grpFrame s false g [] none fun s w c b => asMember s w c b fun m =>
    if m.out then .next (s.finish w 1 8) else asRelease s w c (.next ((s.arriveMember w b m).finish w 1 8))

/-- BWAIT (R311). -/
def execBwait (g : BitVec 7) (s : State) : Out :=
  grpFrame s true g [] none fun s w c b => barrierWait s w c b

/-- BARW (R311). -/
def execBarw (g : BitVec 7) (s : State) : Out :=
  grpFrame s true g [] none fun s w c b => asMember s w c b fun m =>
    if m.out then barrierWait s w c b else asRelease s w c (barrierWait (s.arriveMember w b m) w c b)

/-- The status word of BWAITT (R312). -/
def waitStatus (res ph : Nat) : Word := BitVec.ofNat 64 (res * 2 ^ 62 + ph * 2 ^ 32)

/-- BWAITT (R312). -/
def execBwaitt (d : Reg) (g : BitVec 7) (b : Reg) (s : State) : Out :=
  grpFrame s true g [b] (some d) fun s w c n => asMember s w c n fun m =>
    let give (s : State) (res ph : Nat) : Out := .next ((s.setReg w c d.toNat (waitStatus res ph)).finish w 1 8)
    let t := bits (s.reg w c b.toNat) 39 0
    if !m.out then give s 0 (bits (s.cb w.core (barSt n)) 47 32)
    else if m.done then give (s.consume w n) (if m.res then 1 else 0) m.ap.toNat
    else if t = 0 then give s 2 m.ap.toNat
    else .next (s.park w (.barrier n (some t)))

/-! Messages between barriers (R308, R310, R312). -/

/-- A barrier's parent can be reached: a live core of this module, or another module with a route (R312, R394). -/
def State.parentReached (s : State) (c : Nat) (p : BarId) : Bool :=
  if p.modn = s.modn then s.coreLive p.core else s.reachable (coreRet c) p.modn

/-- An event that a parent's or child's core discards is logged there (R310): an event entry of no source, its cause code 0. -/
def State.logDiscard (s : State) (c kind : Nat) (cz : Cause) (addr : Word) : State :=
  let e : LogEntry :=
    { cls := 63, kind := kind, act := 1, ret := coreRet c, tile := coreTile c, slot := 0, gen := 0, addr := addr, ak := 0,
      code := causeCode cz, detail := 0 }
  (s.logEntry (coreRet c) e).1

/-- A barrier message leaves for another module (R440). -/
def State.leave (s : State) (e : Ev) : State := { s with departed := s.departed ++ [e] }

/-- A barrier whose parent cannot be reached aborts its phase (R312); one cut off from another module is left without a parent (R440). -/
def State.cutOff (s : State) (c b : Nat) (p : BarId) : State :=
  if p.modn = s.modn then s.verdict c b true else s.orphan c b

/-- BARRIER_ARRIVAL (R310): counted in CARR, unless beyond NCH. One whose parent is of another module leaves this one; where the parent
cannot be reached the child's phase ends by abort (R312). -/
def execBarrierArrival (s : State) : Out :=
  match s.ev with
  | some (.barrierArrival p k) =>
    .next (if k.modn = s.modn ∧ !s.parentReached k.core p then s.cutOff k.core k.bar p
      else if p.modn ≠ s.modn then s.leave (.barrierArrival p k)
      else
        let st := s.cb p.core (barSt p.bar)
        if bits (s.cb p.core (barCfg p.bar)) 34 26 ≤ bits st 31 23 then s.logDiscard p.core 6 .none 0
        else (s.setCb p.core (barSt p.bar) (setBits st 31 23 (bits st 31 23 + 1))).testCompletion p.core p.bar 3)
  | _ => .next s

/-- BARRIER_VERDICT (R310): applied, and sent on to the children; locked merge entries commit before a completion is applied (R410). -/
def execBarrierVerdict (s : State) : Out :=
  match s.ev with
  | some (.barrierVerdict b abort) =>
    .next (if b.modn ≠ s.modn then s.leave (.barrierVerdict b abort)
      else if !abort ∧ !(s.lockedAt b.core b.bar).isEmpty then s.commitAt b.core b.bar
      else s.verdict b.core b.bar abort)
  | _ => .next s

/-- An abort request for a phase at a barrier (R312): discarded when the phase has ended there or is decided, at a root applied once this
cc is over, so that a completion of the cc wins, else sent on under the parent's number of the phase. -/
def State.abortAt (s : State) (c b : Nat) (phase : BitVec 16) : State :=
  if bits (s.cb c (barSt b)) 47 32 ≠ phase.toNat ∨ s.committing c b then s
  else match parentOf (s.cb c (barCfg b)) with
    | none => s.modCore c fun k => { k with aborts := k.aborts ++ [(b, phase)] }
    | some p =>
      if !s.parentReached c p then s.cutOff c b p
      else
        let off : BitVec 16 := BitVec.ofNat 16 (bits (s.cb c (barCfg b)) 15 0)
        s.push (.barrierAbortRequest p { modn := s.modn, core := c, bar := b } (phase + off))

/-- BWAITT_TIMEOUT (R312): the timer of a parked BWAITT has reached its limit with the phase not ended. The context stays parked until
the verdict. -/
def execBwaittTimeout (s : State) : Out :=
  match s.ev with
  | some (.bwaittTimeout core slot) =>
    let w : Who := { core := core, slot := slot }
    .next (match (s.ctx? w).map Ctx.run with
      | some (.parked (.barrier b (some _))) =>
        let s := s.modCtx w fun c => { c with run := .parked (.barrier b none) }
        (match s.member? core b slot with
          | some m => if m.out && !m.done then s.abortAt core b m.ap else s
          | none => s)
      | _ => s)
  | _ => .next s

/-- BARRIER_ABORT_REQUEST (R312). -/
def execBarrierAbortRequest (s : State) : Out :=
  match s.ev with
  | some (.barrierAbortRequest b k phase) =>
    .next (if b.modn = s.modn then s.abortAt b.core b.bar phase else s.leave (.barrierAbortRequest b k phase))
  | _ => .next s

/-- BARRIER_REGISTRATION (R308): NCH rises and the parent's phase is answered; refused without a free child entry, for a number
above 47, or from another partition (R334). -/
def execBarrierRegistration (s : State) : Out :=
  match s.ev with
  | some (.barrierRegistration p k) =>
    .next (if p.modn ≠ s.modn then
        (if s.reachable (coreRet k.core) p.modn then s.leave (.barrierRegistration p k) else s.orphan k.core k.bar)
      else if !s.coreLive p.core then s
      else if k.modn = s.modn ∧ coreRet k.core ≠ coreRet p.core ∧ !s.samePart (coreRet k.core) (coreRet p.core) then
        s.push (.registrationReply k true 0)
      else if 48 ≤ p.bar ∨ Config.memberPool ≤ (s.core p.core).children.length then s.push (.registrationReply k true 0)
      else
        let g := s.cb p.core (barCfg p.bar)
        let s := s.setCb p.core (barCfg p.bar) (setBits g 34 26 (bits g 34 26 + 1))
        let s := s.modCore p.core fun x => { x with children := x.children ++ [{ bar := p.bar, who := some k, entry := 0 }] }
        s.push (.registrationReply k false (BitVec.ofNat 16 (bits (s.cb p.core (barSt p.bar)) 47 32))))
  | _ => .next s

/-- BARRIER_WITHDRAWAL (R308): NCH falls; the parent may then be complete (R310). -/
def execBarrierWithdrawal (s : State) : Out :=
  match s.ev with
  | some (.barrierWithdrawal p k) =>
    .next (if p.modn ≠ s.modn then
        (if s.reachable (coreRet k.core) p.modn then s.leave (.barrierWithdrawal p k) else s)
      else if (s.core p.core).children.any fun x => x.bar == p.bar && x.who == some k then
        (s.dropChild p.core p.bar fun x => x.who == some k).testCompletion p.core p.bar 3
      else s)
  | _ => .next s

/-- REGISTRATION_REPLY (R308): POFF, or CERR and no parent. -/
def execRegistrationReply (s : State) : Out :=
  match s.ev with
  | some (.registrationReply k refused phase) =>
    .next (if k.modn ≠ s.modn then s.leave (.registrationReply k refused phase)
      else
        let g := s.cb k.core (barCfg k.bar)
        if refused then s.setCb k.core (barCfg k.bar) (setBit (setBit g 63 false) 25 true)
        else
          let own : BitVec 16 := BitVec.ofNat 16 (bits (s.cb k.core (barSt k.bar)) 47 32)
          s.setCb k.core (barCfg k.bar) (setBits g 15 0 (phase - own).toNat))
  | _ => .next s

/-- BARRIER_CONFIG_WRITE (R308). -/
def execBarrierConfigWrite (s : State) : Out :=
  match s.ev with
  | some (.barrierConfigWrite core bar v) => .next (s.barrierConfig core bar v)
  | _ => .next s

end Sys2Proof.Machine
end

