-- ==== Sys2Proof/Machine/Launcher.lean ====
section
/-! DEFINITION. The launcher of a partition (R263 to R268): it takes records from the mailbox, places gangs, charges and releases them. -/
namespace Sys2Proof.Machine

/-- The launcher's context: the firmware context in slot 62 of tile (0, 0) of the root reticle (R263). -/
def launcherOf (r : Nat) : Who := { core := coreId r 0, slot := 62 }
/-- The launcher of a reticle's partition is there. -/
def State.hasLauncher (s : State) (r : Nat) : Bool :=
  s.pval r && s.rootRet r == r && ((s.ctx? (launcherOf r)).map fun c => c.kind == .firmware).getD false

/-- Address of the record that the launcher reads next (R263). -/
def State.nextRecord (s : State) (r : Nat) : Nat := s.mbxRecord r (bits (s.rcb r 0x0510) 15 8)

/-- The home of a word admits the launcher's accesses to it, where it performs now (R263, R328). -/
def State.launcherMay (s : State) (r l : Nat) : Bool :=
  let a := s.nowAt l
  [AccKind.read, AccKind.write].all fun k => s.admits (s.placeOf a) (s.launcherTag r) k a

/-- A record is full in the mailbox and the pending list has room (R264, R265). DESIGN CHOICE (log 60): one that its home's table closes to the
launcher is not looked at. -/
def State.recordWaits (s : State) (r : Nat) : Bool :=
  let n := bits (s.rcb r 0x0508) 8 0
  s.hasLauncher r && n != 0 && decide ((s.reticle r).launch.length < 8) && s.full (s.nowAt (s.nextRecord r))
    && (List.range 16).all fun i => s.launcherMay r (s.nextRecord r + 8 * i)

/-- Write STATUS of a record (R264). -/
def State.setStatus (s : State) (r a n : Nat) : State := s.launcherWrites r (a + 8) n

/-! Checking a record (R265). -/

/-- A virtual address of a record's space translates with the rights of mode S: its physical address. -/
def State.recordXlate (s : State) (r asid : Nat) (va : Word) (k : AccKind) : Option Nat :=
  let l := launcherOf r
  let wk : Walk :=
    { core := l.core, slot := l.slot, gen := s.gen l, part := s.pid r, asid := asid, va := va, mode := .s, install := false }
  if !canonical va then none
  else match (s.walk wk).2 with
    | .ok e => if e.permits .s k then some (e.pa + vaBits va % 2 ^ e.size) else none
    | .error _ => none

/-- The physical pages of `n` bytes from a virtual address on, if all translate with RD. -/
def State.recordPages (s : State) (r asid : Nat) (va : Word) (n : Nat) : Option (List Nat) :=
  let first := va.toNat / 2 ^ 16
  let count := if n = 0 then 0 else (va.toNat + n - 1) / 2 ^ 16 - first + 1
  (List.range count).mapM fun i => s.recordXlate r asid (BitVec.ofNat 64 ((first + i) * 2 ^ 16)) .read

/-- The reserved fields of a record are zero and its fields in range (R264, R265). -/
def recordFields (l : List Word) : Bool :=
  let w (i : Nat) : Word := l.getD i 0
  let alloc := bits (w 6) 15 8
  let cpt := bits (w 8) 55 48
  let tpr := bits (w 8) 39 32
  let toff := bits (w 12) 53 32
  let tlen := bits (w 12) 21 0
  bits (w 0) 31 24 == 0 && bits (w 0) 15 4 == 0 && bits (w 0) 3 0 == 1
    && ([2, 3, 4, 5, 11].all fun i => canonical (w i)) && bits (w 2) 1 0 == 0
    && bits (w 6) 47 44 == 0 && bits (w 6) 31 16 == 0 && bits (w 6) 7 3 == 0
    && decide (8 ≤ alloc) && decide (alloc ≤ 128) && alloc % 8 == 0
    && bits (w 7) 63 49 == 0 && bits (w 7) 48 0 != 0
    && bits (w 8) 63 56 == 0 && bits (w 8) 47 40 == 0 && bits (w 8) 31 4 == 0
    && decide (1 ≤ cpt) && decide (cpt ≤ 62) && decide (1 ≤ tpr) && decide (tpr ≤ 192)
    && bits (w 12) 63 54 == 0 && bits (w 12) 31 22 == 0 && (tlen == 0 || inSram toff (toff + tlen))
    && ([13, 14, 15].all fun i => w i == 0)

/-- A tile's kind is in KMASK (R264). -/
def kindIn (kmask t : Nat) : Bool :=
  let i : Nat := match tileKind t with
    | .d => 0 | .a => 1 | .v => 2 | .s => 3
  kmask / 2 ^ i % 2 == 1

/-- Live tiles of a reticle of a kind in KMASK, in ascending number. -/
def State.kindTiles (s : State) (q kmask : Nat) : List Nat := upTo 192 fun t => s.tileLive q t && kindIn kmask t

/-- A record that could ever be placed (R265). -/
def State.couldFit (s : State) (r : Nat) (k : LaunchRec) : Bool :=
  ((List.range 49).all fun q => k.rmask / 2 ^ q % 2 == 0
      || (s.retLive q && s.samePart r q && decide (k.tpr ≤ (s.kindTiles q k.kmask).length)))
    && decide (k.cpt * k.alloc ≤ Config.sharedEntries)

/-- Check a record: accepted, or refused with a STATUS (R265). -/
def State.checkRecord (s : State) (r i : Nat) (l : List Word) : Except Nat LaunchRec :=
  let a := s.mbxRecord r i
  let w (i : Nat) : Word := l.getD i 0
  let asid := bits (w 6) 43 32
  let root : Option Nat :=
    if w 5 = 0 then some 0
    else if bits (w 5) 2 0 ≠ 0 then none
    else (s.recordXlate r asid (w 5) .atomic).bind fun pa =>
      if s.isLocalPa pa && (s.placeOf (lpaOf pa)).isDram then some (lpaOf pa) else none
  let tlen := bits (w 12) 21 0
  if !recordFields l then .error 2
  else match root, s.recordPages r asid (w 11) tlen with
    | some root, some pages =>
      let k : LaunchRec :=
        { index := i, pa := a, seq := bits (w 0) 63 32, prio := bits (w 0) 23 16, entry := w 2, root := root,
          wlim := bits (w 6) 63 48, asid := asid, alloc := bits (w 6) 15 8, ecls := bits (w 6) 2 0, rmask := bits (w 7) 48 0,
          cpt := bits (w 8) 55 48, tpr := bits (w 8) 39 32, kmask := bits (w 8) 3 0, arg0 := w 9, arg1 := w 10, timg := w 11,
          toff := bits (w 12) 53 32, tlen := tlen, pages := pages }
      if s.couldFit r k then .ok k else .error 3
    | _, _ => .error 2

/-- Order of the pending list: higher priority first, then the earlier sequence number (R265). -/
def recBefore (a b : LaunchRec) : Bool := if a.prio ≠ b.prio then decide (b.prio < a.prio) else decide (a.seq < b.seq)

/-- The launcher takes the next record: empties its word 0, reads and checks it, and refuses it or lists it (R264, R265). DESIGN CHOICE (log 60): a
record with an untrusted word is refused as a malformed one. -/
def State.takeRecord (s : State) (r : Nat) : State :=
  let i := bits (s.rcb r 0x0510) 15 8
  let n := bits (s.rcb r 0x0508) 8 0
  let a := s.mbxRecord r i
  let s := s.launcherEmpties r a
  let s := s.setRcb r 0x0510 (setBits (s.rcb r 0x0510) 15 8 ((i + 1) % n))
  let s := (s.unitAdmitsAll (s.launcherSrc r) (s.launcherTag r) .read ((List.range 16).map fun j => a + 8 * j)).1
  let x := s.unitReadAll a (s.blame (s.launcherSrc r) .f) 16
  match x.2 with
  | none => x.1.setStatus r a 2
  | some l => match x.1.checkRecord r i l with
    | .error st => x.1.setStatus r a st
    | .ok k => (x.1.modRet r fun y => { y with launch := insertBy recBefore k y.launch }).push (.gangPlace r)

/-! Placing a gang (R266, R268). -/

/-- Slots and entries for `n` contexts of `alloc` registers on a core, one after another (R31); none while its ring holds a packet (R50). -/
def Core.placeMany (k : Core) (c alloc : Nat) : Nat → Option (List (Nat × Nat))
  | 0 => some []
  | n + 1 =>
    if k.ringCount ≠ 0 then none
    else (k.place c alloc).bind fun x =>
      let k' := { k with slots := mput x.1 (Ctx.fresh .resident .u 0 0 x.2 alloc 0) k.slots }
      (k'.placeMany c alloc n).map fun l => x :: l

/-- The tiles of a reticle that take a record's share, with the slots: the lowest-numbered ones that can. -/
def State.shareOf (s : State) (k : LaunchRec) (q : Nat) : Option (List (Nat × List (Nat × Nat))) :=
  let l := (s.kindTiles q k.kmask).filterMap fun t =>
    ((s.core (coreId q t)).placeMany (coreId q t) k.alloc k.cpt).map fun x => (coreId q t, x)
  if l.length < k.tpr then none else some (l.take k.tpr)

/-- Reticles of a record. -/
def LaunchRec.rets (k : LaunchRec) : List Nat := upTo 49 fun q => k.rmask / 2 ^ q % 2 == 1
/-- Members of a record's gang. -/
def LaunchRec.size (k : LaunchRec) : Nat := k.rets.length * k.tpr * k.cpt

/-- A record could be placed entirely in the slots that are free (R268). -/
def State.fitsNow (s : State) (k : LaunchRec) : Bool := k.rets.all fun q => (s.shareOf k q).isSome

/-- A member of a gang (R42, R266). -/
def State.putMember (s : State) (r : Nat) (k : LaunchRec) (w : Who) (base index : Nat) : State :=
  let c := { Ctx.fresh .resident .u (s.pid r) k.asid base k.alloc k.entry with
    run := .placed, ecls := BitVec.ofNat 3 k.ecls, wdog := BitVec.ofNat 64 (k.wlim * 2 ^ 48) }
  let s := s.setCtx w c
  let s := s.setReg w c 1 (BitVec.ofNat 64 index)
  let s := s.setReg w c 2 (BitVec.ofNat 64 k.size)
  (s.setReg w c 3 k.arg0).setReg w c 4 k.arg1

/-- Physical address of byte `i` of a record's image. -/
def LaunchRec.byteAt (k : LaunchRec) (i : Nat) : Nat :=
  let a := k.timg.toNat % 2 ^ 16 + i
  k.pages.getD (a / 2 ^ 16) 0 + a % 2 ^ 16

/-- The read of byte `i` of a record's image: under the tag of the record's partition in mode S (R266, R324). -/
def State.imageRead (s : State) (r : Nat) (k : LaunchRec) (i : Nat) : Access :=
  { id := s.ids, src := s.launcherSrc r, tag := { part := s.pid r, mode := .s }, op := .load 0 false
    va := k.timg + BitVec.ofNat 64 i, pa := k.byteAt i, data := 0, cmp := 0, dst := .image r, attempt := 0 }
/-- The write of a byte of an image to a tile. -/
def State.imageWrite (s : State) (r : Nat) (k : LaunchRec) (c i : Nat) (v : Word) : Access :=
  { s.imageRead r k i with op := .store 0, pa := s.paOf (tileAddr c (k.toff + i)), data := v }

/-- The write of the next byte of an image must wait on its tile's scoreboard (R217), or its read has not been answered. -/
def State.imageWaits (s : State) (r : Nat) : Bool :=
  match (s.reticle r).gang with
  | none => false
  | some g => match g.tiles with
    | [] => false
    | c :: _ => g.asked.isSome || (decide (g.next < g.rcd.tlen) && s.mustWait c (s.imageWrite r g.rcd c g.next 0) (s.core c).blocked)

/-- Ask for the next byte of an image (R188, R266). -/
def State.imageAsk (s : State) (r : Nat) (g : Gang) : State :=
  let a := s.imageRead r g.rcd g.next
  (({ s with ids := s.ids + 1 } : State).modRet r fun x => { x with gang := some { g with asked := some a.id } }).send a

/-- A byte of the image reaches a tile. -/
def State.imagePut (s : State) (r : Nat) (g : Gang) (c : Nat) (v : Word) : State :=
  (s.storeBytes (tileAddr c (g.rcd.toff + g.next)) 1 (v.toNat % 256)).modRet r fun x =>
    { x with gang := some { g with next := g.next + 1, got := none } }

/-- A member that is rolled back: generation, strip and a free slot in one step (R268); a ring's head takes it (R50). Since nothing has
retired, the launcher does not try again for it (R266). -/
def State.unplace (s : State) (w : Who) (c : Ctx) : State :=
  let s := (s.bumpGen w).refuseHeld w
  let s := s.modCore w.core fun k => { k with slots := mdel w.slot k.slots, file := stripEntries c.base c.lim k.file }
  s.drainRing w.core (s.core w.core).ringCount

/-- Roll back a gang (R268): its members go, and a charge that one stands for is withdrawn. -/
def State.rollBack (s : State) (r : Nat) : State :=
  match (s.reticle r).gang with
  | none => s
  | some g =>
    let s := g.members.foldl (fun s m =>
      let w : Who := { core := m.1, slot := m.2 }
      match s.ctx? w with
      | some c => if c.run = .placed then (s.uncharge c.dref false (some (s.launcherSrc r, c.tag))).unplace w c else s
      | none => s) s
    s.modRet r fun k => { k with gang := none }

/-- A record leaves the pending list. -/
def State.dropRecord (s : State) (r : Nat) (k : LaunchRec) : State :=
  s.modRet r fun x => { x with launch := x.launch.filter fun y => y.pa != k.pa }

/-- Place a record's share in one reticle: its members, then its image on each tile, which is copied next (R266). -/
def State.placeShare (s : State) (r q : Nat) (g : Gang) (l : List (Nat × List (Nat × Nat))) : State :=
  let k := g.rcd
  let all := (l.map fun x => x.2.map fun y => (x.1, y.1, y.2)).flatten
  let first := g.members.length
  let s := (all.zip (List.range all.length)).foldl (fun s x =>
    s.putMember r k { core := x.1.1, slot := x.1.2.1 } x.1.2.2 (first + x.2)) s
  let g : Gang := { g with
    members := g.members ++ all.map (fun x => (x.1, x.2.1))
    nextRet := q + 1
    tiles := l.map (·.1) }
  (s.modRet r fun x => { x with gang := some g }).push (.gangPlace r)

/-- One step of the copy of an image: the next byte is asked for, or has come (R266). A read that fails rolls the gang back with STATUS 2. -/
def State.imageStep (s : State) (r : Nat) (g : Gang) (c : Nat) (rest : List Nat) : State :=
  if g.rcd.tlen ≤ g.next then (s.modRet r fun x => { x with gang := some { g with tiles := rest, next := 0 } }).push (.gangPlace r)
  else match g.got with
    | some (some v) => (s.imagePut r g c v).push (.gangPlace r)
    | some none => (((s.rollBack r).setStatus r g.rcd.pa 2).dropRecord r g.rcd).push (.gangPlace r)
    | none => (s.imageAsk r g).push (.gangPlace r)

/-- A placed gang is charged to its root word, each member at its own core (R267, R274). -/
def State.chargeGang (s : State) (r : Nat) (g : Gang) : State :=
  let n := if g.rcd.root = 0 then 0 else g.members.length
  let s := s.modRet r fun x => { x with gang := some { g with placed := true, charges := n } }
  if n = 0 then s.push (.gangRelease r)
  else g.members.foldl (fun s m =>
    let d := BitVec.ofNat 64 (2 ^ 63 + coreRet m.1 * 2 ^ 57 + coreTile m.1 * 2 ^ 49 + g.rcd.root / 8)
    let s := s.modCtx { core := m.1, slot := m.2 } fun c => { c with dref := d }
    let w : DrainWait :=
      { core := m.1, src := s.launcherSrc r, tag := { part := s.pid r, mode := .s }, id := 0, use := .gang r, value := 0
        va := BitVec.ofNat 64 g.rcd.root }
    s.push (.drainUp (.core m.1) (.core m.1) g.rcd.root w)) s

/-- A record of higher priority than the gang being placed that cannot itself be placed in the slots left free (R268): from the pending
list, or the next of the mailbox, which is taken for it. -/
def State.outranked (s : State) (r : Nat) (g : Gang) : Bool × State :=
  let waits := s.recordWaits r
    && decide (g.rcd.prio < bits (BitVec.ofNat 64 (memRead s.mem (s.nowAt (s.nextRecord r)) 8)) 23 16)
  let s := if waits then s.takeRecord r else s
  match (s.reticle r).launch.find? fun k => decide (g.rcd.prio < k.prio) with
  | none => (false, s)
  | some k => (!s.fitsNow k, s)

/-- One boundary of a placement (R266 to R268): begin with the head of the list, roll back for a higher record, place the next reticle's
share, or charge a gang that is whole. -/
def State.placeGang (s : State) (r : Nat) : State :=
  match (s.reticle r).gang with
  | none => (match (s.reticle r).launch with
    | [] => s
    | k :: _ =>
      let g : Gang := { rcd := k, members := [], nextRet := 0, placed := false, charges := 0, failed := false }
      (s.modRet r fun x => { x with gang := some g }).push (.gangPlace r))
  | some g =>
    if g.placed then s
    else match g.tiles with
    | c :: rest => s.imageStep r g c rest
    | [] =>
      let o := s.outranked r g
      if o.1 then (o.2.rollBack r).push (.gangPlace r)
      else
        let s := o.2
        match g.rcd.rets.find? fun q => decide (g.nextRet ≤ q) with
        | none => s.chargeGang r g
        | some q => match s.shareOf g.rcd q with
          | none => s.rollBack r
          | some l => s.placeShare r q g l

/-! The events. -/

/-- LAUNCH_RECORD (R265). -/
def execLaunchRecord (s : State) : Out :=
  match s.ev with
  | some (.launchRecord r) => .next (if s.recordWaits r then s.takeRecord r else s)
  | _ => .next s

/-- GANG_PLACE (R266). -/
def execGangPlace (s : State) : Out :=
  match s.ev with
  | some (.gangPlace r) => .next (if s.hasLauncher r then s.placeGang r else s)
  | _ => .next s

/-- GANG_RELEASE (R267): every charge is answered; a refused one rolls the gang back with STATUS 4. -/
def execGangRelease (s : State) : Out :=
  match s.ev with
  | some (.gangRelease r) =>
    .next (match (s.reticle r).gang with
      | none => s
      | some g =>
        if !g.placed ∨ g.charges ≠ 0 then s
        else if g.failed then (((s.rollBack r).setStatus r g.rcd.pa 4).dropRecord r g.rcd).push (.gangPlace r)
        else
          let s := (s.setStatus r g.rcd.pa 1).dropRecord r g.rcd
          s.pushAll (g.rcd.rets.map Ev.releaseReceived))
  | _ => .next s

/-- RELEASE_RECEIVED (R267): the members of a reticle are Ready from the next cc. -/
def execReleaseReceived (s : State) : Out :=
  match s.ev with
  | some (.releaseReceived q) =>
    let r := s.rootRet q
    .next (match (s.reticle r).gang with
      | none => s
      | some g =>
        let here := g.members.filter fun m => coreRet m.1 == q
        let s := here.foldl (fun s m => s.modCtx { core := m.1, slot := m.2 } fun c =>
          if c.run = .placed then { c with run := .ready, spacing := s.now m.1 + 1 } else c) s
        let rest := g.members.filter fun m => coreRet m.1 != q
        if rest.isEmpty then (s.modRet r fun k => { k with gang := none }).push (.gangPlace r)
        else s.modRet r fun k => { k with gang := some { g with members := rest } })
  | _ => .next s

end Sys2Proof.Machine
end

