-- ==== Sys2Proof/Machine/Repair.lean ====
section
/-! DEFINITION. Meanings of the events that repair and scrub: skim copies (R205, R399, R400), patrol scrub (R368), mesh links that fail
(R370). -/
namespace Sys2Proof.Machine

/-! Skim copies. -/

/-- The words of a 64-byte line. -/
def lineWords (a : Nat) : List Nat := (List.range 8).map fun i => a / 64 * 64 + 8 * i

/-- A line that a skim copy reads is uncorrectable. -/
def State.lineCorrupt (s : State) (a : Nat) : Bool := (lineWords a).any s.hard

/-- Write a word as zero with P set (R400). -/
def State.poisonWord (s : State) (a : Nat) : State :=
  { s with mem := memWrite s.mem a 8 0, poison := sadd a s.poison, corrupt := sdel a s.corrupt }

/-- An uncorrectable source line of a skim copy (R400): P is set on its words, and one entry is logged with the mask of the words. -/
def State.skimUe (s : State) (c a : Nat) : State :=
  let ws := lineWords a
  let mask := sumOf ((List.range 8).map fun i => if s.hard (ws.getD i 0) then 2 ^ i else 0)
  let s : State :=
    { s with poison := ws.foldl (fun l w => sadd w l) s.poison, corrupt := ws.foldl (fun l w => sdel w l) s.corrupt }
  s.report (coreRet c) 3 { kind := 5, who := none } (coreTile c) (BitVec.ofNat 64 (s.paOf (a / 64 * 64))) 1 (causeCode .uedram) mask

/-- Copy a word with its FE and P bits (R204, R400). -/
def State.copyWord (s : State) (sa da : Nat) : State :=
  let s := ((s.useDram (s.placeOf sa)).useDram (s.placeOf da)).amend (s.placeOf sa) sa { kind := 5, who := none } 0
  let s : State :=
    { s with
      mem := memWrite s.mem da 8 (memRead s.mem sa 8)
      poison := sset da (s.poisoned sa) s.poison
      corrupt := sdel da s.corrupt }
  s.setFull da (s.full sa)

/-- Accesses on the wait list of a word that now performs at the copy go there (R205). -/
def State.moveWaits (s : State) (c a : Nat) : State :=
  let l := (s.core c).waits.filter fun x => waitWord x == a
  (s.modCore c fun k => { k with waits := k.waits.filter fun x => waitWord x != a }).pushAll (l.map Ev.waitListPark)

/-- One step of a tier migration: the next word, or what is left of a line that is uncorrectable (R205, R400). DESIGN CHOICE (log 48): the pages are
those that GO took, whatever SKSRC and SKDST hold since. -/
def State.skimStep (s : State) (c src dst : Nat) : State :=
  let n := bits (s.cb c 0x0018) 16 0
  let bad := s.lineCorrupt (src + n)
  let next := if bad then (n / 64 + 1) * 64 else n + 8
  let offs := (List.range ((next - n) / 8)).map fun i => n + 8 * i
  let s := if bad then offs.foldl (fun s o => (s.poisonWord (dst + o)).setFull (dst + o) (s.full (src + o))) (s.skimUe c (src + n))
    else s.copyWord (src + n) (dst + n)
  let s := s.setCb c 0x0018 (BitVec.ofNat 64 next)
  let s := if 2 ^ 16 ≤ next then s.setCb c 0x0020 (setBits (s.cb c 0x0020) 1 0 3) else s.push (.skimCopyStep c)
  offs.foldl (fun s o => s.moveWaits c (src + o)) s

/-- SKIM_COPY_STEP (R205). -/
def execSkimCopyStep (s : State) : Out :=
  match s.ev with
  | some (.skimCopyStep c) =>
    .next (match (s.core c).skim with
      | some (src, dst) => if bit (s.cb c 0x0020) 1 then s else s.skimStep c src dst
      | none => s)
  | _ => .next s

/-- One step of bank sparing: the next line, or the end (R399). -/
def State.spareStep (s : State) (c : Nat) : State :=
  let n := bits (s.cb c 0x0038) 31 0
  let total := Config.bankLines c
  let ch := bits (s.core c).spare 16 16
  let s :=
    if total ≤ n then s
    else
      let a := Config.bankAddr c (s.core c).spare n
      let s := if s.lineCorrupt a then (lineWords a).foldl State.poisonWord (s.skimUe c a)
        else (lineWords a).foldl (fun s w => s.amend (s.placeOf w) w { kind := 5, who := none } 0) s
      s.setCb c 0x0038 (BitVec.ofNat 64 (n + 1))
  if total ≤ n + 1 then
    (s.setCb c 0x0020 (setBits (s.cb c 0x0020) 1 0 2)).setCb c 0x0040 (setBit (s.cb c 0x0040) ch true)
  else s.push (.spareCopyStep c)

/-- SPARE_COPY_STEP (R399). -/
def execSpareCopyStep (s : State) : Out :=
  match s.ev with
  | some (.spareCopyStep c) =>
    .next (if s.skimBusy c ∧ (s.core c).skim = none then s.spareStep c else s)
  | _ => .next s

/-! Patrol scrub (R368). -/

/-- Place, as a number of words, of the word that every bank's scrub reads at a cc: a word of a bank each 64 cc, in ascending address. DESIGN
CHOICE (log 63): all banks, and all channels, read together, the first word at cc 0. -/
def State.scrubAt (s : State) (c : Nat) : Nat := 8 * (s.now c / 64 % 2 ^ 15)

/-- What a scrub does with a word (R368): a correctable one is rewritten, an uncorrectable one poisoned, and either reported with no source. -/
def State.scrubWord (s : State) (p : Place) (a : Nat) : State :=
  if s.hard a then s.findUe p a { kind := 5, who := none }
  else s.amend p a { kind := 5, who := none } (causeCode .eccscrub)

/-- Banks of 256 KiB of a core (R12, R18). -/
def scrubBanks (c : Nat) : Nat := if isTile c then 12 else 1

/-- Address of the word of a bank that its scrub reads now. -/
def State.bankWord (s : State) (c b : Nat) : Nat :=
  if isTile c then tileAddr c (2 ^ 18 * b + s.scrubAt c) else ringBase c + s.scrubAt c

/-- SRAM_SCRUB_READ (R368): a word of a bank. -/
def execSramScrubRead (s : State) : Out :=
  match s.ev with
  | some (.sramScrubRead c b) =>
    let a := s.bankWord c b
    .next (if b < scrubBanks c ∧ s.corrupt.contains a then s.scrubWord (.sram c (2 ^ 18 * b + s.scrubAt c)) a else s)
  | _ => .next s

/-- LPA of line `n` of channel `ch` of a channel core, in ascending address (R193); none beyond its last line. -/
def State.channelLine (s : State) (c ch n : Nat) : Option Nat :=
  let r := coreRet c
  let hbm := decide (coreTile c < 208)
  let ord := (edgeOrdinals.findIdx? fun x => x == r).getD 0
  let base := if hbm then ord * 2 ^ 36 else lpBase + ord * 2 ^ 38
  let chans := if hbm then 32 else 8
  let edge := (if hbm then bits (s.rcb r 0x0108) 6 0 else bits (s.rcb r 0x0108) 41 32) * 2 ^ 29
  let k := 2 * (coreTile c - (if hbm then 192 else 208)) + ch
  let fine := edge / chans / 64
  let o := if n < fine then n / 4 * (256 * chans) + k * 256 + n % 4 * 64
    else edge + (n - fine) / 1024 * (65536 * chans) + k * 65536 + (n - fine) % 1024 * 64
  if o < (if hbm then hbmPop else 2 ^ 38) then some (base + o) else none

/-- Lines of a channel. -/
def channelLines (c : Nat) : Nat := if coreTile c < 208 then hbmPop / 32 / 64 else 2 ^ 38 / 8 / 64

/-- The first line word of a channel's line, at its scrub now, whose check fails. -/
def State.lineFault (s : State) (c ch : Nat) : Option Nat :=
  match s.channelLine c ch (s.now c / 1024 % channelLines c) with
  | none => none
  | some a => ((lineWords a).find? s.hard).orElse fun _ => (lineWords a).find? fun w => s.corrupt.contains w

/-- DRAM_SCRUB_READ (R368): a line of a channel. -/
def execDramScrubRead (s : State) : Out :=
  match s.ev with
  | some (.dramScrubRead c ch) =>
    .next (if !isChannelCore c ∨ 2 ≤ ch then s
      else match s.lineFault c ch with
        | none => s
        | some w => s.scrubWord (s.placeOf w) w)
  | _ => .next s

/-- Scrub reads of a core that are due in this cc and find an error (R368). -/
def State.scrubEvents (s : State) (c : Nat) : List Ev :=
  if s.corrupt.isEmpty then []
  else
    (if s.now c % 64 = 0 then ((List.range (scrubBanks c)).filter fun b => s.corrupt.contains (s.bankWord c b)).map (Ev.sramScrubRead c)
     else [])
    ++ (if isChannelCore c ∧ s.now c % 1024 = 0 then ((List.range 2).filter fun ch => (s.lineFault c ch).isSome).map (Ev.dramScrubRead c)
        else [])

/-! Mesh links (R17, R370). -/

/-- The words of the topology table that fix the routes: live passes and failed routers (R17, R387). -/
def State.routeMap (s : State) : List Word :=
  ((List.range 49).map fun r => [0, 4, 5, 6].map fun i => s.topoEntry r i).flatten

/-- A packet between two cores crosses a link that has failed. -/
def State.crosses (s : State) (a b : Nat) : Bool :=
  a != b && s.cores.any (fun p => !p.2.failedLinks.isEmpty)
    && (Config.hops s.routeMap a b).any fun h => (s.core h.1).failedLinks.contains h.2

/-- A way between two cores runs through running or draining basins only: a pass carries traffic once both its ends have resumed (R395). -/
def State.wayUp (s : State) (a b : Nat) : Bool :=
  a == b || !(s.rets.any fun p => p.2.low == .retained)
    || (Config.hops s.routeMap a b).all fun h => (s.reticle (coreRet h.1)).low != .retained

/-- A number for a level of the drainage tree. -/
def nodeCode : DrainNode → Nat
  | .core c => 4 * c
  | .cluster r k => 4 * (16 * r + k) + 1
  | .reticle r => 4 * r + 2
  | .root => 3

/-- Where a level of a drainage tree is. -/
def State.siteAt (s : State) (root : Nat) : DrainNode → Nat
  | .core c => c
  | .root => s.homeOf (s.paOf root)
  | n => Config.nodeSite (nodeCode n)

/-- From where to where a request goes. -/
def State.requestEnds (s : State) (a : Access) : Option (Nat × Nat) :=
  let at_ := match a.dst with
    | .via c => c
    | _ => a.src.core
  if s.isLocalPa a.pa then some (at_, s.homeOf a.pa) else none

/-- From where to where an answer goes. One that already reports a failed link is the requester's own. -/
def State.answerEnds (s : State) (r : Reply) : Option (Nat × Nat) :=
  if r.status = .failed .uelink ∨ !s.isLocalPa r.acc.pa ∨ r.acc.src.modn ≠ s.modn then none else some (s.homeOf r.acc.pa, r.acc.src.core)

/-- From where to where a barrier's message goes, where both ends are of this module. -/
def State.barEnds (s : State) (a b : BarId) : Option (Nat × Nat) :=
  if a.modn = s.modn ∧ b.modn = s.modn then some (a.core, b.core) else none

/-- From where to where a message crosses the mesh. A cancel and its answer are taken to arrive (log 63). -/
def State.ends (s : State) (e : Ev) : Option (Nat × Nat) :=
  match e with
  | .loadRequest a => s.requestEnds a
  | .activeMessage a => s.requestEnds a
  | .remoteUpdateMigrant a => s.requestEnds a
  | .conditionalAttempt a => s.requestEnds a
  | .waitListPark a => s.requestEnds a
  | .combineJoin _ _ a => s.requestEnds a
  | .loadReply r => s.answerEnds r
  | .performedNotice r => s.answerEnds r
  | .combineReply _ _ r => s.answerEnds r
  | .copySourceReply _ _ r => s.answerEnds r
  | .copyWritePerformed _ _ r => s.answerEnds r
  | .migrantArrival c _ src => some (src, c)
  | .neighbourWrite n => some (n.src.core, n.core)
  | .nwrAck n _ => some (n.core, n.src.core)
  | .hcallRequest q => some (q.src.core, fwCore q.src.core)
  | .hcallReply core _ _ _ _ => some (fwCore core, core)
  | .tlbRemoval c q => some (q.core, c)
  | .icacheInvalidation c q => some (q.core, c)
  | .stampQuery q => some (s.homeOf q.reply.acc.pa, coreId (bits q.stamp 63 58) (bits q.stamp 57 50))
  | .stampSatisfied q => some (coreId (bits q.stamp 63 58) (bits q.stamp 57 50), s.homeOf q.reply.acc.pa)
  | .drainUp p n root w => some (if p = n then w.src.core else s.siteAt root n, s.siteAt root p)
  | .drainAck n root _ _ => some (s.siteAt root (drainParent n), s.siteAt root n)
  | .drainDown p n root _ _ _ cause => some (if p = n then (cause.map fun x => x.1.core).getD (s.siteAt root n) else s.siteAt root n, s.siteAt root p)
  | .barrierArrival p k => s.barEnds k p
  | .barrierAbortRequest p k _ => s.barEnds k p
  | .barrierRegistration p k => s.barEnds k p
  | .barrierWithdrawal p k => s.barEnds k p
  | .barrierVerdict k _ => (parentOf (s.cb k.core (barCfg k.bar))).bind fun p => s.barEnds p k
  | .registrationReply k _ _ => (parentOf (s.cb k.core (barCfg k.bar))).bind fun p => s.barEnds p k
  | _ => none

/-- A drainage message cannot pass (R370): FAIL is set in its tree's root, and a +1 that waited for it is refused. -/
def State.failTree (s : State) (e : Ev) (root : Nat) : State :=
  let s := s.push (.drainDown .root .root root false false true none)
  match e with
  | .drainUp _ n r w => s.push (.drainAck n r (some .drainerr) w)
  | .drainAck n r f w => s.push (.drainAck n r f w)
  | _ => s

/-- A request other than an access is returned to its context, which takes UELINK late (R370). -/
def State.linkLate (s : State) (w : Who) (va : Word) : State := s.modCtx w fun c => c.lateTrap .uelink va

/-- A neighbour write, or its acknowledgement, is lost: with the tval that a refusal of it has (R222; DEDUCED, log 63). -/
def State.loseNwr (s : State) (n : NWrite) : State :=
  match s.srcWho n.src with
  | none => s
  | some w =>
    let s := s.modCtx w fun c => { c with nwrOut := c.nwrOut.filter fun d => d != n.dir }
    s.settle n.src n.id 0 (.failed .uelink) (BitVec.ofNat 64 (n.reg * 2 ^ 8 + n.dir))

/-- An HCALL, or its answer, is lost: its registers are present again, unchanged. It has no address: a free value (log 63). -/
def State.loseHcall (s : State) (w : Who) (gen : BitVec 16) : State :=
  match (s.ctx? w).bind fun c => c.hcall.bind c.op? with
  | none => s
  | some o =>
    if s.gen w ≠ gen then s
    else
      let s := (s.landNothing w o).landNothing w { o with dst := some 2 }
      let v := Config.freeWord s.picks
      ({ s with picks := s.picks + 1 } : State).modCtx w fun c => { ((c.done o.id).lateTrap .uelink v) with hcall := none }

/-- What becomes of a packet that would cross a failed link (R370). -/
def State.returned (s : State) (e : Ev) : State :=
  let back (a : Access) : State := if a.src.modn = s.modn then s.lost a .uelink else s.answerOut a (.failed .uelink) 0
  match e with
  | .loadRequest a => back a
  | .activeMessage a => back a
  | .remoteUpdateMigrant a => back a
  | .conditionalAttempt a => back a
  | .waitListPark a => back a
  | .combineJoin _ _ a => back a
  | .loadReply r => back r.acc
  | .performedNotice r => back r.acc
  | .combineReply rt k r => s.push (.combineReply rt k { r with status := .failed .uelink, value := 0 })
  | .copySourceReply c ch r => s.push (.copySourceReply c ch { r with status := .failed .uelink, value := 0 })
  | .copyWritePerformed c ch r => s.push (.copyWritePerformed c ch { r with status := .failed .uelink, value := 0 })
  | .migrantArrival _ p src => s.killPacket src p 0
  | .neighbourWrite n => s.loseNwr n
  | .nwrAck n _ => s.loseNwr n
  | .hcallRequest q => s.loseHcall { core := q.src.core, slot := q.src.slot } q.src.gen
  | .hcallReply core slot gen _ _ => s.loseHcall { core := core, slot := slot } gen
  | .tlbRemoval _ q => (s.linkLate { core := q.core, slot := q.slot } q.va).push (.tlbiAck q)
  | .icacheInvalidation _ q => (s.linkLate { core := q.core, slot := q.slot } q.va).push (.icinvAck q)
  | .stampQuery q => s.answer (s.homeOf q.reply.acc.pa) q.reply.acc 0 (.failed .uelink)
  | .stampSatisfied q => s.answer (s.homeOf q.reply.acc.pa) q.reply.acc 0 (.failed .uelink)
  | .drainUp _ _ root _ => s.failTree e root
  | .drainAck _ root _ _ => s.failTree e root
  | .drainDown _ _ root _ _ _ _ => s.failTree e root
  | .barrierArrival _ k => s.orphan k.core k.bar
  | .barrierAbortRequest _ k _ => s.orphan k.core k.bar
  | .barrierRegistration _ k => s.orphan k.core k.bar
  | .barrierWithdrawal _ k => s.orphan k.core k.bar
  | .barrierVerdict k _ => s.orphan k.core k.bar
  | .registrationReply k _ _ => s.orphan k.core k.bar
  | _ => s

/-- No basin in retention stands in a message's way (R395). -/
def State.pathUp (s : State) (e : Ev) : Bool := (s.ends e).all fun p => s.wayUp p.1 p.2

/-- A message that arrives would have had to cross a failed link. -/
def State.cutBy (s : State) (e : Ev) : Bool := (s.ends e).any fun p => s.crosses p.1 p.2

/-- MESH_FLIT_RETRY (R370): a retry, or after the eighth failure the link's end, and the pass's where it is one (R288). Packets that would cross it
meet it as they arrive. -/
def execMeshFlitRetry (s : State) : Out :=
  match s.ev with
  | some (.meshFlitRetry r t dir tries) =>
    .next (if tries < 8 then s.report r 6 { kind := 6, who := none } t 0 0 0 dir
      else
        let c := coreId r t
        let s := s.modCore c fun k => { k with failedLinks := sadd dir k.failedLinks }
        let s := s.report r 7 { kind := 6, who := none } t 0 0 (causeCode .uelink) dir
        match s.tileBeside c dir with
        | some u => if coreRet u = r then s else s.losePass r dir
        | none => s)
  | _ => .next s

end Sys2Proof.Machine
end

