-- ==== Sys2Proof/Machine/Watershed.lean ====
section
/-! DEFINITION. Watershed (R379 to R389): power-up, tests, training, election, gather, placement, the comparison of islands, and the
publication of the topology table. A reticle is numbered by where it stands; it does not know that number before it is placed. -/
namespace Sys2Proof.Machine

/-- A reticle's part in Watershed. -/
def State.shedOf (s : State) (r : Nat) : Shed := (s.reticle r).shed
/-- Change it. -/
def State.modShed (s : State) (r : Nat) (f : Shed → Shed) : State := s.modRet r fun k => { k with shed := f k.shed }

/-! Phase 1 and 2 (R379, R380). -/

/-- A Watershed begins: every context and all contents of memory are gone, every clock starts at zero, no table is published. What waits
outside the module stays. -/
def State.beginShed (s : State) (epoch : Nat) : State :=
  let r : State :=
    { State.reset with
      inputs := s.inputs, hostLog := s.hostLog, ev := s.ev, cur := s.cur, ir := s.ir, ids := s.ids, picks := s.picks
      power := { State.reset.power with epoch := epoch } }
  (List.range 49).foldl (fun x q => x.modShed q fun h => { h with phase := 1, draws := (s.shedOf q).draws + 1 }) r

/-- POWER_UP (R379): the first since power was lost, or one that follows a partition reset or a power-fail during Watershed (R365, R385). -/
def execPowerUp (s : State) : Out :=
  match s.ev with
  | some .powerUp => .next (s.beginShed (if s.power.good then s.power.epoch + 1 else 1))
  | _ => .next s

/-- Tiles of a 16 by 12 grid beside a tile. -/
def gridBeside (t : Nat) : List Nat :=
  (if t / 16 = 0 then [] else [t - 16]) ++ (if t / 16 = 11 then [] else [t + 16])
    ++ (if t % 16 = 0 then [] else [t - 1]) ++ (if t % 16 = 15 then [] else [t + 1])

/-- Tiles reached from a set through routers that passed, in `n` rounds. -/
def reachTiles (bad : List Nat) : Nat → List Nat → List Nat
  | 0, l => l
  | n + 1, l =>
    let m := upTo 192 fun t => l.contains t || (!bad.contains t && (gridBeside t).any fun u => l.contains u)
    if m.length = l.length then l else reachTiles bad n m

/-- Failed tiles of a reticle (R380): failed themselves, with a failed router, or cut off from tile (0, 0). -/
def tilesFailed (failTiles failRouters : List Nat) : List Nat :=
  let seen := reachTiles failRouters 192 [0]
  upTo 192 fun t => failTiles.contains t || failRouters.contains t || !seen.contains t

/-- A reticle is dark for a reason (R385). -/
def State.darken (s : State) (r why : Nat) : State := s.modShed r fun h => { h with phase := 0, dark := why }

/-- Keep a reticle's failed maps in the words of its report: those of a topology entry (R387). -/
def mapWord (l : List Nat) (i : Nat) : Word := BitVec.ofNat 64 (bitmapOf l i)
where
  /-- Bits of the numbers of a list that lie in word `i`. -/
  bitmapOf (l : List Nat) (i : Nat) : Nat := sumOf ((l.eraseDups.filter fun t => t / 64 == i).map fun t => 2 ^ (t % 64))

/-- A report of a reticle on itself (R382). -/
def State.ownReport (s : State) (r : Nat) : Report :=
  let h := s.shedOf r
  match h.reports.find? fun x => x.ret == r with
  | some x => { x with key := h.key, sides := h.trained, seen := h.sideKeys, hostSides := h.hostSides, devices := h.devices }
  | none =>
    { ret := r, key := h.key, sides := h.trained, seen := h.sideKeys, strips := h.strips, hostSides := h.hostSides,
      devices := h.devices, failTiles := [], failRouters := [] }

/-- BIST_COMPLETE (R380): a reticle whose tile (0, 0) failed is dark; any other goes on to train its passes. -/
def execBistComplete (s : State) : Out :=
  match s.ev with
  | some (.bistComplete r ft fr strips) =>
    .next (if (s.shedOf r).phase ≠ 1 then s
      else if ft.contains 0 || fr.contains 0 then s.darken r 1
      else
        let own : Report :=
          { ret := r, key := 0, sides := [], seen := [], strips := strips, hostSides := [], devices := 0,
            failTiles := tilesFailed ft fr, failRouters := fr.filter fun t => decide (t < 192) }
        s.modShed r fun h => { h with phase := 2, strips := strips, reports := [own] })
  | _ => .next s

/-! Election (R381). -/

/-- A key: a fresh nonce above IDH. -/
def keyOf (r n : Nat) : Nat := (Config.nonce (49 * n + r)).toNat * 2 ^ 64 + (Config.idHash r).toNat

/-- Send a key on a reticle's live passes. -/
def State.flood (s : State) (r key : Nat) (but : Option Nat) : State :=
  s.pushAll ((s.shedOf r).trained.filterMap fun d =>
    if but = some d then none else (neighbourRet r d).map fun q => Ev.electionKey q (opposite d) key)

/-- A reticle enters the election with a fresh key. -/
def State.enterElection (s : State) (r : Nat) : State :=
  let k := keyOf r (s.shedOf r).draws
  (s.modShed r fun h => { h with
    phase := 3, key := k, best := k, parent := none, children := [], draws := h.draws + 1
    reports := h.reports.filter fun x => x.ret == r }).flood r k none

/-- PASS_TRAINING_END (R379, R380): the sides that trained, the host ports with a link partner, the devices that trained. -/
def execPassTrainingEnd (s : State) : Out :=
  match s.ev with
  | some (.passTrainingEnd r sides hosts dev) =>
    .next (if (s.shedOf r).phase ≠ 2 then s
      else
        let l := [0, 1, 2, 3].filter fun d => sides.contains d && (neighbourRet r d).isSome
        (s.modShed r fun h => { h with trained := l, hostSides := hosts, devices := dev }).enterElection r)
  | _ => .next s

/-- The key that names the reticle across a side: the first that came by it, and after it one with the same IDH, which that reticle draws as it
goes back to the election (R381, R382). -/
def nameSide (l : List (Nat × Nat)) (side key : Nat) : List (Nat × Nat) :=
  match l.find? fun p => p.1 == side with
  | none => l ++ [(side, key)]
  | some p => if p.2 % 2 ^ 64 = key % 2 ^ 64 then l.map fun q => if q.1 = side then (side, key) else q else l

/-- ELECTION_KEY (R381): the first key on a side names the reticle across it; a larger key than any before is kept and sent on, and the side it
came by is the parent. Where it comes after the election settled there, that has not been the end of it (DEDUCED, log 64). -/
def execElectionKey (s : State) : Out :=
  match s.ev with
  | some (.electionKey r side key) =>
    let h := s.shedOf r
    .next (if h.phase = 1 ∨ h.phase = 2 then s.push (.electionKey r side key)
      else if h.phase = 0 ∨ !h.trained.contains side then s
      else
        let s := s.modShed r fun h => { h with sideKeys := nameSide h.sideKeys side key }
        if h.best < key then
          let keep (h : Shed) : Shed := { h with best := key, parent := some side }
          let again (h : Shed) : Shed :=
            if h.phase = 4 then { h with phase := 3, children := [], reports := h.reports.filter fun x => x.ret == r } else h
          (s.modShed r fun h => again (keep h)).flood r key (some side)
        else s)
  | _ => .next s

/-- A key is on its way. -/
def isKey : Ev → Bool
  | .electionKey _ _ _ => true
  | _ => false

/-- Reticles whose parent a reticle is. -/
def State.floodChildren (s : State) (r : Nat) : List Nat :=
  (s.shedOf r).trained.filterMap fun d => (neighbourRet r d).filter fun q =>
    (s.shedOf q).parent == some (opposite d) && (s.shedOf q).trained.contains (opposite d)

/-! Gather (R382). -/

/-- Every child has reported: a reticle sends all it has to its parent; a leader waits for its service line. -/
def State.gathered (s : State) (r : Nat) : State :=
  let h := s.shedOf r
  if !h.children.isEmpty then s
  else match h.parent.bind (neighbourRet r) with
    | none => s
    | some q => s.push (.gatherReport q (s.ownReport r :: h.reports.filter fun x => x.ret != r))

/-- ELECTION_SETTLED (R379, R381): the largest key has not changed for long; no key is still on its way. -/
def execElectionSettled (s : State) : Out :=
  match s.ev with
  | some (.electionSettled r) =>
    .next (if (s.shedOf r).phase ≠ 3 ∨ s.pending.any isKey then s
      else (s.modShed r fun h => { h with phase := 4, children := s.floodChildren r }).gathered r)
  | _ => .next s

/-- GATHER_REPORT (R382): the first report is the sender's own. -/
def execGatherReport (s : State) : Out :=
  match s.ev with
  | some (.gatherReport p l) =>
    let from_ := (l.head?.map (·.ret)).getD 49
    .next (if (s.shedOf p).phase = 3 then s.push (.gatherReport p l)
      else if (s.shedOf p).phase ≠ 4 ∨ !(s.shedOf p).children.contains from_ then s
      else (s.modShed p fun h => { h with
        children := h.children.filter fun x => x != from_
        reports := h.reports ++ l }).gathered p)
  | _ => .next s

/-- GATHER_TIMEOUT (R379, R382): a silent child is given up. -/
def execGatherTimeout (s : State) : Out :=
  match s.ev with
  | some (.gatherTimeout p child) =>
    .next (if (s.shedOf p).phase = 4 ∧ (s.shedOf p).children.contains child then
        (s.modShed p fun h => { h with children := h.children.filter fun x => x != child }).gathered p
      else s)
  | _ => .next s

/-- A reticle goes back to the election with a fresh nonce; after the third restart it stays dark (R381). A summary that it posted is its no
more. -/
def State.restart (s : State) (r : Nat) : State :=
  let h := s.shedOf r
  if h.phase ≠ 4 ∧ h.phase ≠ 5 then s
  else
    let s : State := { s with power := { s.power with lines := s.power.lines.filter fun m => m.ret != r } }
    if 3 ≤ h.restarts then s.darken r 2
    else (s.modShed r fun h => { h with restarts := h.restarts + 1 }).enterElection r

/-! Placement (R383). -/

/-- A reticle of the island at a relative position. -/
structure Pos where
  x : Int
  y : Int
  rep : Report
  deriving DecidableEq, Repr, Inhabited

/-- A step to a side. -/
def sideStep (d : Nat) : Int × Int :=
  match d with
  | 0 => (0, -1)
  | 1 => (1, 0)
  | 2 => (0, 1)
  | _ => (-1, 0)

/-- Two reports agree on a pass: each has seen the other's key on opposite sides (R380). -/
def passAgreed (a b : Report) (d : Nat) : Bool := a.seen.contains (d, b.key) && b.seen.contains (opposite d, a.key)

/-- Walk live passes outward, giving positions (R383 step 1). -/
def walkIsland (all : List Report) : Nat → List Pos → List Pos
  | 0, l => l
  | n + 1, l =>
    let new := (l.map fun p => [0, 1, 2, 3].filterMap fun d =>
      (all.find? fun q => passAgreed p.rep q d && !(l.any fun x => x.rep.ret == q.ret)).map fun q =>
        { x := p.x + (sideStep d).1, y := p.y + (sideStep d).2, rep := q : Pos }).flatten
    match new with
    | [] => l
    | q :: _ => walkIsland all n (l ++ [q])

/-- A reticle has a host port on one of some sides (R383 step 2): one whose partner is there, or one that passed its test on a side whose strip
answers. -/
def Report.hasHost (r : Report) (sides : List Nat) : Bool :=
  sides.any fun d => r.hostSides.contains d || (bit r.devices 38 && r.strips.contains d)

/-- A reticle breaks one of its anchors under a translation (R383 steps 2 and 3). -/
def violates (tx ty : Int) (p : Pos) : Bool :=
  let x := p.x + tx
  let y := p.y + ty
  let r := p.rep
  (r.strips.contains 0 && y != 0) || (r.strips.contains 2 && y != 6) || (r.strips.contains 3 && x != 0)
    || (r.strips.contains 1 && x != 6)
    || (Report.hasHost r [0, 2] && x != 3) || (Report.hasHost r [1, 3] && y != 3)

/-- Translations that put every reticle inside the grid. -/
def candidates (l : List Pos) : List (Int × Int) :=
  let ts : List Int := (List.range 13).map fun (i : Nat) => (i : Int) - 6
  ((ts.map fun tx => ts.map fun ty => (tx, ty)).flatten).filter fun t =>
    l.all fun p => decide (0 ≤ p.x + t.1) && decide (p.x + t.1 ≤ 6) && decide (0 ≤ p.y + t.2) && decide (p.y + t.2 ≤ 6)

/-- The candidate with the fewest violators, unless two tie (R383 step 4). -/
def bestCandidate (l : List Pos) : Option (Int × Int) :=
  let cs := (candidates l).map fun t => ((l.filter (violates t.1 t.2)).length, t)
  match sortBy (fun (a b : Nat × Int × Int) => decide (a.1 < b.1)) cs with
  | [] => none
  | [a] => some a.2
  | a :: b :: _ => if a.1 = b.1 then none else some a.2

/-- The number of a placed reticle. -/
def posNumber (t : Int × Int) (p : Pos) : Nat := (7 * (p.y + t.2) + (p.x + t.1)).toNat

/-- The part of a set of placed reticles that is connected to a start over live passes. -/
def connected (l : List Pos) : Nat → List Pos → List Pos
  | 0, k => k
  | n + 1, k =>
    match l.find? fun q => !k.contains q && k.any fun p => [0, 1, 2, 3].any fun d => passAgreed p.rep q.rep d with
    | none => k
    | some q => connected l n (k ++ [q])

/-- Lowest host window index among the live host ports of placed reticles, 4 for none (R183, R384). -/
def hostIndex (t : Int × Int) (k : List Pos) : Nat :=
  ((List.range 4).find? fun i => k.any fun p => posNumber t p == hostRets.getD i 0 && !p.rep.hostSides.isEmpty).getD 4

/-- Greatest key of some reticles. -/
def keyMax (k : List Pos) : Nat := k.foldl (fun m p => Nat.max m p.rep.key) 0

/-- One summary is better than another (R384 step 2). -/
def better (a b : Nat × Nat × Nat) : Bool :=
  if a.1 ≠ b.1 then decide (b.1 < a.1) else if a.2.1 ≠ b.2.1 then decide (a.2.1 < b.2.1) else decide (b.2.2 < a.2.2)

/-- The best of some connected sets by the order of R384. -/
def bestSet (t : Int × Int) (l : List (List Pos)) : List Pos :=
  l.foldl (fun b k => if better (k.length, hostIndex t k, keyMax k) (b.length, hostIndex t b, keyMax b) then k else b) []

/-- An island as its leader places it (R383): none where it is ambiguous; else the translation, K, the violators and the others. -/
structure Island where
  shift : Int × Int
  kept : List Pos
  violators : List Pos
  others : List Pos
  deriving DecidableEq, Repr, Inhabited

/-- The positions of a leader's island. -/
def State.islandPos (s : State) (leader : Nat) : List Pos :=
  let h := s.shedOf leader
  let own := s.ownReport leader
  walkIsland (own :: h.reports.filter fun x => x.ret != leader) 49 [{ x := 0, y := 0, rep := own }]

/-- Place an island. -/
def State.place (s : State) (leader : Nat) : Option Island :=
  let l := s.islandPos leader
  let spots := l.map fun p => (p.x, p.y)
  if spots.eraseDups.length ≠ spots.length then none
  else match bestCandidate l with
    | none => none
    | some t =>
      let good := l.filter fun p => !violates t.1 t.2 p
      let k := bestSet t (good.map fun p => connected good 49 [p])
      some { shift := t, kept := k, violators := l.filter (violates t.1 t.2), others := good.filter fun p => !k.contains p }

/-- A pass is dead until the next Watershed (R380): neither end goes on it again. -/
def State.deadSide (s : State) (r d : Nat) : State :=
  let cut (s : State) (q side : Nat) : State := s.modShed q fun h => { h with trained := h.trained.filter fun x => x != side }
  match neighbourRet r d with
  | none => cut s r d
  | some q => cut (cut s r d) q (opposite d)

/-- The report check (R380): a pass whose ends have both reported, but not each other, is dead. -/
def State.checkPasses (s : State) (leader : Nat) : State :=
  let h := s.shedOf leader
  let l := s.ownReport leader :: h.reports.filter fun x => x.ret != leader
  l.foldl (fun s a => a.sides.foldl (fun s d =>
    match (neighbourRet a.ret d).bind fun q => l.find? fun b => b.ret == q with
    | some b => if passAgreed a b d then s else s.deadSide a.ret d
    | none => s) s) s

/-- Darken reticles of an island. -/
def State.darkenAll (s : State) (l : List Pos) (why : Nat) : State := l.foldl (fun s p => s.darken p.rep.ret why) s

/-- Two reports of a gather carry one key (R381). -/
def State.sameKeys (s : State) (leader : Nat) : List Nat :=
  let l := s.ownReport leader :: (s.shedOf leader).reports.filter fun x => x.ret != leader
  (l.filter fun a => l.any fun b => a.ret != b.ret && a.key == b.key).map (·.ret)

/-- ISLAND_PLACEMENT (R383, R384): the leader places its island and posts its summary on a service line that answers. -/
def execIslandPlacement (s : State) : Out :=
  match s.ev with
  | some (.islandPlacement leader line) =>
    let h := s.shedOf leader
    .next (if h.phase ≠ 4 ∨ !h.children.isEmpty ∨ h.parent.isSome then s
      else
      let s := s.checkPasses leader
      if !(s.sameKeys leader).isEmpty then (s.sameKeys leader).foldl State.restart s
      else match s.place leader with
        | none => s.darkenAll (s.islandPos leader) 4
        | some i =>
          let s' := (s.darkenAll i.violators 3).darkenAll i.others 6
          if !line ∨ i.kept.isEmpty then s'.darkenAll i.kept 7
          else
            let m : Summary := { ret := leader, size := i.kept.length, host := hostIndex i.shift i.kept, key := h.key }
            let s' := i.kept.foldl (fun s p => s.modShed p.rep.ret fun h => { h with phase := 5 }) s'
            { s' with power := { s'.power with lines := s'.power.lines ++ [m] } })
  | _ => .next s

/-- SUMMARY_COMPARE (R384): the leader of the best summary claims; the first claim is accepted, and its island is published. Any other island
stays dark. -/
def execSummaryCompare (s : State) : Out :=
  match s.ev with
  | some (.summaryCompare leader) =>
    let key (m : Summary) : Nat × Nat × Nat := (m.size, m.host, m.key)
    .next (match s.power.lines.find? fun m => m.ret == leader with
      | none => s
      | some m =>
        if (s.shedOf leader).dark ≠ 0 ∨ s.power.claimed = some leader then s
        else
          let kept := ((s.place leader).map Island.kept).getD []
          if s.power.claimed.isSome || s.power.lines.any fun n => better (key n) (key m) then s.darkenAll kept 5
          else
            let s := kept.foldl (fun s p => s.modShed p.rep.ret fun h => if h.phase = 5 then { h with phase := 6 } else h) s
            { s with power := { s.power with claimed := some leader } })
  | _ => .next s

/-! Publication (R386, R387, R389). -/

/-- The firmware context that starts in slot 62 of a tile (0, 0) (R389). Where it starts and with how many registers the manual does not
say. Log 1. -/
def firmwareCtx (r : Nat) : Ctx := Ctx.fresh .firmware .f 0 0 0 128 (BitVec.ofNat 64 (tileAddr (coreId r 0) 0))

/-- The entry of a live reticle (R387): its live passes go to reticles that live too. -/
def topoEntryOf (r : Nat) (x : Report) (live : List Nat) (sides : List Nat) : List Word :=
  let pass := sumOf ((List.range 4).map fun d =>
    if sides.contains d && ((neighbourRet r d).any fun q => live.contains q) then 2 ^ (62 - d) else 0)
  [BitVec.ofNat 64 (2 ^ 63 + pass) ||| (x.devices &&& (maskBits 47 36)) ||| BitVec.ofNat 64 x.failTiles.length]
  ++ (List.range 3).map (mapWord x.failTiles) ++ (List.range 3).map (mapWord x.failRouters) ++ [Config.idHash x.ret]

/-- Write words of the topology table. -/
def putTopo (t : Map Word) (off : Nat) (l : List Word) : Map Word :=
  (l.zip (List.range l.length)).foldl (fun t p => mset 0 (off + 8 * p.2) p.1 t) t

/-- The topology table (R386, R387) from the placed reticles that have their firmware. -/
def State.topology (s : State) (leader : Nat) (i : Island) : Map Word :=
  let kept := i.kept.filter fun p => (s.shedOf p.rep.ret).phase == 7
  let live := kept.map (posNumber i.shift)
  let head : Word :=
    BitVec.ofNat 64 (2 ^ 63 + Config.moduleNumber % 256 * 2 ^ 48 + s.power.epoch % 2 ^ 16 * 2 ^ 32
      + ((i.kept.find? fun p => p.rep.ret == leader).map (posNumber i.shift)).getD 0 * 2 ^ 24 + live.length * 2 ^ 18
      + (s.shedOf leader).restarts % 4 * 2 ^ 16 + s.power.lines.length % 256 * 2 ^ 8)
  let t := kept.foldl (fun t p =>
    let r := posNumber i.shift p
    let sides := [0, 1, 2, 3].filter fun d => i.kept.any fun q => passAgreed p.rep q.rep d
    putTopo t (0x2040 + 64 * r) (topoEntryOf r p.rep live sides)) (putTopo [] 0x2000 [head])
  (upTo 49 fun r => !live.contains r).foldl (fun t r =>
    let placed := (i.violators ++ i.others ++ i.kept).find? fun p => posNumber i.shift p == r
    let why := (s.shedOf ((placed.map fun (p : Pos) => p.rep.ret).getD r)).dark
    putTopo t (0x2040 + 64 * r) [BitVec.ofNat 64 ((if why = 0 then 2 else why) * 2 ^ 55)]) t

/-- Log that firmware did not authenticate (R343, R389). -/
def State.logFirmauth (s : State) (r : Nat) : State :=
  let e : LogEntry :=
    { cls := 63, kind := 5, act := 1, ret := r, tile := 0, slot := 0, gen := 0, addr := 0, ak := 0,
      code := causeCode .firmauth, detail := 0 }
  (s.logEntry r e).1

/-- Once every reticle of the claimed island has its coordinates, the table is written and firmware starts on each (R386, R389). -/
def State.publish (s : State) (leader : Nat) : State :=
  match s.place leader with
  | none => s
  | some i =>
    if i.kept.any fun p => (s.shedOf p.rep.ret).phase == 6 then s
    else
      let live := (i.kept.filter fun p => (s.shedOf p.rep.ret).phase == 7).map (posNumber i.shift)
      if live.isEmpty then s
      else
        let s : State := { s with topo := s.topology leader i }
        live.foldl (fun s r => s.setCtx { core := coreId r 0, slot := 62 } (firmwareCtx r)) s

/-- ELECTION_RESTART (R381): a reticle of the claimed island that receives no coordinates goes back too, and is not waited for. -/
def execElectionRestart (s : State) : Out :=
  match s.ev with
  | some (.electionRestart r) =>
    .next (if (s.shedOf r).phase ≠ 6 then s.restart r
      else match s.power.claimed with
        | none => s
        | some leader =>
          if leader = r then s else ((s.modShed r fun h => { h with phase := 5 }).restart r).publish leader)
  | _ => .next s

/-- COORDINATES (R379, R389): a reticle of the claimed island is placed and loads firmware, from slot A (image 0) or B (1); with neither
(2), or with no line to read them by, it is dark. -/
def execCoordinates (s : State) : Out :=
  match s.ev with
  | some (.coordinates r image) =>
    .next (match s.power.claimed with
      | none => s
      | some leader =>
        if (s.shedOf r).phase ≠ 6 then s
        else
          let n := (((s.place leader).bind fun i => (i.kept.find? fun p => p.rep.ret == r).map (posNumber i.shift))).getD r
          let s := match image with
            | 0 => s.modShed r fun h => { h with phase := 7 }
            | 1 => (s.logFirmauth n).modShed r fun h => { h with phase := 7 }
            | 2 => ((s.logFirmauth n).logFirmauth n).darken r 8
            | _ => s.darken r 7
          s.publish leader)
  | _ => .next s

end Sys2Proof.Machine
end

