-- ==== Sys2Proof/Machine/Lowland.lean ====
section
/-! DEFINITION. Meanings of the events of power, Lowland and the test access port (R26, R288, R343, R391 to R398). -/
namespace Sys2Proof.Machine

/-- Change every context of a reticle. -/
def State.modCtxs (s : State) (r : Nat) (f : Ctx → Ctx) : State :=
  (s.coresOf r).foldl (fun s c => s.modCore c fun k => { k with slots := k.slots.map fun p => (p.1, f p.2) }) s

/-! Entering (R391, R392). -/

/-- POWER_FAIL (R391, R397): an exit under way is abandoned where no context has issued; before the table is published there is no Lowland
(R385). -/
def execPowerFail (s : State) : Out :=
  match s.ev with
  | some .powerFail =>
    let s : State :=
      { s with
        power := { s.power with good := false }
        pending := s.pending.filter fun e => match e with
          | .passRetrainDone _ => false
          | _ => true }
    .next (if s.published then s.enterLowland 1 else s)
  | _ => .next s

/-- LOWLAND_GO (R391, R398). -/
def execLowlandGo (s : State) : Out :=
  match s.ev with
  | some (.lowlandGo r m v) => .next (s.lowlandGo r m v)
  | _ => .next s

/-- A basin stops (R392 step 1): spacing, and misses of the translation buffer, are dropped. -/
def State.stopBasin (s : State) (r : Nat) : State :=
  let s : State :=
    { s with pending := s.pending.filter fun e => match e with
        | .walkComplete k => coreRet k.core != r
        | _ => true }
  let now := (s.reticle r).cc
  let s := s.modCtxs r fun c => { c.unheld with walking := false, spacing := Nat.min c.spacing now, stall := c.stall, gather := c.gather }
  let w := s.rcb r 0x0F08
  let cause := if s.power.lowCause ≠ 0 then s.power.lowCause else if s.power.good then 2 else 1
  (s.setRcb r 0x0F08 (setBits w 1 0 cause)).modRet r fun k => { k with low := .draining, drained := 0 }

/-- LOWLAND_SIGNAL (R392, R397): the basin stops and drains; one that has left Lowland and in which no context has issued since goes back to
retention. -/
def execLowlandSignal (s : State) : Out :=
  match s.ev with
  | some (.lowlandSignal r) =>
    let k := s.reticle r
    .next (if k.low ≠ .running then s
      else if bits (s.rcb r 0x0F08) 63 32 ≠ 0 ∧ k.resumed then s.modRet r fun k => { k with low := .retained }
      else s.stopBasin r)
  | _ => .next s

/-- A tile loses its tokens: WANT stays, notices go (R288). -/
def State.darkTile (s : State) (c : Nat) : State :=
  let t := s.tok c
  if t.hold = 0 ∧ t.pend = 0 ∧ t.ncnt = 0 then s else s.setTok c { t with hold := 0, pend := 0, ncnt := 0 }

/-- Raise LNKF by `n` (R398). -/
def State.addLnkf (s : State) (r n : Nat) : State :=
  let w := s.rcb r 0x0F18
  s.setRcb r 0x0F18 (setBits w 15 0 (Nat.min 65535 (bits w 15 0 + n)))

/-- Requests of a basin to other modules that have no answer are abandoned (R394). -/
def State.abandon (s : State) (r : Nat) : State :=
  let l := s.outbox.filter fun a => !s.isLocalPa a.pa && a.src.modn == s.modn && coreRet a.src.core == r
  let s := (l.filter fun a => a.attempt != 255).foldl (fun s a => s.lost a .linkdown) s
  let s : State := { s with outbox := s.outbox.filter fun a => !l.contains a }
  s.addLnkf r (l.filter fun a => a.attempt != 255).length

/-- The basin goes into retention (R392 steps 4 and 5, R393): the entry is logged, tokens and loans go, translation buffers and instruction
caches are dropped. -/
def State.retain (s : State) (r : Nat) : State :=
  let n := (s.reticle r).drained
  let e : LogEntry :=
    { cls := 63, kind := 5, act := 1, ret := r, tile := 0, slot := 0, gen := 0, addr := 0, ak := 0, code := causeCode .lowland,
      detail := n }
  let s := (s.logEntry r e).1
  let s := s.setRcb r 0x0F10 (BitVec.ofNat 64 (n % 2 ^ 21))
  let s := s.abandon r
  let s := (s.coresOf r).foldl (fun s c => (s.darkTile c).modCore c fun k => { k with tlb := [], icache := [] }) s
  let s := s.modRet r fun k => { k with
    low := .retained, loanIn := [], loanOut := [], offers := [], recalled := [], gains := [], worked := [] }
  if s.power.lowCause = 0 then s.push (.passRetrainDone r) else s

/-- LOWLAND_RETAIN (R392). -/
def execLowlandRetain (s : State) : Out :=
  match s.ev with
  | some (.lowlandRetain r) => .next (if (s.reticle r).low = .draining then s.retain r else s)
  | _ => .next s

/-! Leaving (R395). -/

/-- POWER_GOOD (R395, R385): a power-fail Lowland ends; a Watershed that lost power starts again. -/
def execPowerGood (s : State) : Out :=
  match s.ev with
  | some .powerGood =>
    let s : State := { s with power := { s.power with good := true } }
    .next (if s.power.lowCause = 1 then s.leaveLowland
      else if !s.published ∧ (List.range 49).any (fun r => (s.shedOf r).phase ≠ 0) then s.push .powerUp
      else s)
  | _ => .next s
/-- WAKE (R395, R398). -/
def execWake (s : State) : Out :=
  match s.ev with
  | some (.wake _) => .next s.wakeUp
  | _ => .next s
/-- SHELF_WAKE (R395). -/
def execShelfWake (s : State) : Out :=
  match s.ev with
  | some .shelfWake => .next s.wakeUp
  | _ => .next s

/-- A context after Lowland (R395): it issues from the next cc on; RESUME is pending where it is enabled. -/
def Ctx.afterLowland (c : Ctx) (now n : Nat) : Ctx :=
  { c with
    spacing := Nat.max c.spacing (now + 1)
    pend := if c.mode == .u && bit c.trapen 9 then { c.pend with resume := some (BitVec.ofNat 64 n) } else c.pend }

/-- PASS_RETRAIN_DONE (R395): LLCNT rises and the basin runs again. -/
def execPassRetrainDone (s : State) : Out :=
  match s.ev with
  | some (.passRetrainDone r) =>
    .next (if (s.reticle r).low ≠ .retained then s
      else
        let n := (bits (s.rcb r 0x0F08) 63 32 + 1) % 2 ^ 32
        let now := (s.reticle r).cc
        let s := s.setRcb r 0x0F08 (setBits (s.rcb r 0x0F08) 63 32 n)
        let s := s.modRet r fun k => { k with low := .running, resumed := true }
        s.modCtxs r fun c => c.afterLowland now n)
  | _ => .next s

/-- RETENTION_LOSS (R26, R397): the module's contents are lost; the next power-up runs a Watershed. Where nothing is in retention the supply is not
used. -/
def execRetentionLoss (s : State) : Out :=
  match s.ev with
  | some .retentionLoss =>
    .next (if s.rets.any fun p => p.2.low == .retained then
        { State.reset with
          inputs := s.inputs, hostLog := s.hostLog, ev := s.ev, cur := s.cur, ir := s.ir, ids := s.ids, picks := s.picks
          power := { State.reset.power with good := false } }
      else s)
  | _ => .next s

/-! The test access port (R26, R343, R397). -/

/-- DEBUG_FREEZE (R26): every clock stops. -/
def execDebugFreeze (s : State) : Out :=
  match s.ev with
  | some .debugFreeze => .next { s with power := { s.power with frozen := true } }
  | _ => .next s
/-- DEBUG_THAW (R397). -/
def execDebugThaw (s : State) : Out :=
  match s.ev with
  | some .debugThaw => .next { s with power := { s.power with frozen := false } }
  | _ => .next s
/-- DEBUG_REQUEST (R343): DEBUG is pending with the request value. -/
def execDebugRequest (s : State) : Out :=
  match s.ev with
  | some (.debugRequest core slot v) =>
    .next (s.modCtx { core := core, slot := slot } fun c => { c with pend := { c.pend with dbg := some v } })
  | _ => .next s

end Sys2Proof.Machine
end

