-- ==== Sys2Proof/Machine/Links.lean ====
section
/-! DEFINITION. Meanings of the events of host ports, links between modules and merge entries (R333, R402, R403, R405, R407 to R411). -/
namespace Sys2Proof.Machine

/-! Host ports (R402, R403). -/

/-- The host's link at a port is up (R407). -/
def State.hostUp (s : State) (port : Nat) : Bool := bit (s.cb (hostCore port) 0x0A00) 63

/-- Aligned pieces of `n` bytes from an address on, each within a word: address and log of size. `fuel` bounds their number. -/
def pieces : Nat → Nat → Nat → List (Nat × Nat)
  | 0, _, _ => []
  | fuel + 1, a, n =>
    if n = 0 then []
    else
      let z := if a % 8 = 0 ∧ 8 ≤ n then 3 else if a % 4 = 0 ∧ 4 ≤ n then 2 else if a % 2 = 0 ∧ 2 ≤ n then 1 else 0
      (a, z) :: pieces fuel (a + 2 ^ z) (n - 2 ^ z)

/-- An address lies in the mailbox of a reticle's partition (R263), where a host's writes set FE full (R264). -/
def State.inMailbox (s : State) (r lpa : Nat) : Bool :=
  let q := s.rootRet r
  let n := bits (s.rcb q 0x0508) 8 0
  s.pval r && decide (s.mbxRecord q 0 ≤ lpa) && decide (lpa < s.mbxRecord q n)

/-- One access of a host request: tagged with the PID of the port's reticle in mode S (R334). Its answer goes to the host: a read of an
untrusted word as poisoned, a refusal as Completer Abort (R402). Where no word is, the home that would refuse it is the link core. -/
def State.hostAccess (s : State) (port : Nat) (write : Bool) (lpa z v : Nat) : State :=
  let c := hostCore port
  let id := s.ids
  let a : Access :=
    { id := id, src := { modn := s.modn, core := c, slot := 64, gen := 0 }, tag := { part := s.pid (coreRet c), mode := .s }
      op := if !write then .load z false else if s.inMailbox (coreRet c) lpa then .copyWrite z true else .store z, va := BitVec.ofNat 64 lpa, pa := s.paOf lpa, data := BitVec.ofNat 64 v
      cmp := 0, dst := .nobody, attempt := 0 }
  let s : State := { s with ids := id + 1 }
  let p := s.placeOf lpa
  if p = .hole then (s.logRefusal (.core c) a.tag a.op.kind lpa a.src).answerOut a (.failed .acctbl) 0
  else if !s.placeLive p then s.answerOut a (.failed .darktile) 0
  else s.send a

/-- The basin of a link core is in Lowland and accepts nothing from outside (R392). -/
def State.asleep (s : State) (c : Nat) : Bool := (s.reticle (coreRet c)).low != .running

/-- A word of BAR0 (R386, R401): the link core's own copy of the topology table; every other offset reads zero. -/
def State.bar0Word (s : State) (off : Nat) : Word := if 0x2000 ≤ off ∧ off < 0x2C80 then s.topoWord (off / 8 * 8) else 0

/-- A host's access to BAR0 (R386, R398, R401): a read of the words it covers, answered by the link core, or a write, which acts on WAKE only. -/
def State.bar0Access (s : State) (write : Bool) (off size v : Nat) : State :=
  if write then
    (if off ≤ 0x0F20 ∧ 0x0F20 < off + size ∧ (v / 2 ^ (8 * (0x0F20 - off))) % 2 = 1 then s.wakeUp else s)
  else
    let s' : State := { s with ids := s.ids + 1 }
    { s' with hostLog := s'.hostLog ++ ((List.range ((off + size + 7) / 8 - off / 8)).map fun i =>
        (s.ids, Status.ok, s.bar0Word (off / 8 * 8 + 8 * i))) }

/-- HOST_REQUEST (R401, R402): up to 4 KiB at offset `off` of BAR0 or BAR2, while the link is up; an AtomicOp is answered as unsupported, with no
cause. -/
def execHostRequest (s : State) : Out :=
  match s.ev with
  | some (.hostRequest port true write off size v) =>
    .next (if 4 ≤ port ∨ !s.hostUp port ∨ 4096 < size ∨ 2 ^ 16 < off + size then s else s.bar0Access write off size v)
  | some (.hostRequest port false write off size v) =>
    .next (if 4 ≤ port ∨ !s.hostUp port ∨ s.asleep (hostCore port) ∨ 4096 < size ∨ 2 ^ 36 < off + size then s
      else
        let base := bits (s.cb (hostCore port) 0x0A10) 51 40 * 2 ^ 36 + off
        (pieces size base size).foldl (fun s p => s.hostAccess port write p.1 p.2 (v / 2 ^ (8 * (p.1 - base)))) s)
  | some (.hostAtomic port) =>
    .next (if 4 ≤ port ∨ !s.hostUp port then s
      else { s with ids := s.ids + 1, hostLog := s.hostLog ++ [(s.ids, .failed .none, 0)] })
  | _ => .next s

/-- A link goes down (R403, R407): UP clears and LDN rises. -/
def State.dropLink (s : State) (c : Nat) : State :=
  let w := s.cb c 0x0A00
  s.setCb c 0x0A00 (satInc (setBit w 63 false) 31 16)

/-- HOST_LINK_DOWN (R403): host-window accesses that have no answer give HOSTDOWN. -/
def execHostLinkDown (s : State) : Out :=
  match s.ev with
  | some (.hostLinkDown port) =>
    .next (if 4 ≤ port ∨ !s.hostUp port then s
      else
        let c := hostCore port
        let s := s.dropLink c
        let s := s.setCb c 0x0A10 (setBits (setBits (s.cb c 0x0A10) 12 8 0) 1 0 0)
        (s.outbox.filter fun a => s.hostPort? a.pa == some port).foldl (fun s a => s.lost a .hostdown) s)
  | _ => .next s

/-- HOST_LINK_UP (R403): the link is in service with the lanes and the rate that trained (R401). -/
def execHostLinkUp (s : State) : Out :=
  match s.ev with
  | some (.hostLinkUp port lanes rate) =>
    .next (if port < 4 ∧ (lanes = 16 ∨ lanes = 8 ∨ lanes = 4) ∧ 1 ≤ rate ∧ rate ≤ 3 then
        let c := hostCore port
        let s := s.setCb c 0x0A00 (setBit (s.cb c 0x0A00) 63 true)
        s.setCb c 0x0A10 (setBits (setBits (s.cb c 0x0A10) 12 8 lanes) 1 0 rate)
      else s)
  | _ => .next s

/-! Links between modules (R405, R407). -/

/-- A link core of a port to another module. -/
def isJenoon (c : Nat) : Bool := isLinkCore c && !isHostLink c

/-- Routes whose primary is a link that went down fail over where they have an alternate (R407 step 3). -/
def State.failOver (s : State) (c : Nat) : State :=
  (List.range 49).foldl (fun s r => (List.range 64).foldl (fun s m =>
    let off := 0x3000 + 8 * m
    let e := s.rcb r off
    if bit e 63 && bit e 62 && !bit e 61 && coreId (bits e 53 48) (bits e 47 40) == c then s.setRcb r off (setBit e 61 true)
    else s) s) s

/-- Barriers of this module that wait for a parent in a module no longer reached (R412, R440). -/
def State.strandedBars (s : State) : List (Nat × Nat) :=
  (s.cores.map fun k => (upTo 48 fun b => bit (s.cb k.1 (barSt b)) 62 &&
    match parentOf (s.cb k.1 (barCfg b)) with
    | some p => p.modn != s.modn && !s.reachable (coreRet k.1) p.modn
    | none => false).map fun b => (k.1, b)).flatten

/-- A link to another module goes down (R405, R407): requests that it has not seen acknowledged are reported, the routes over it fail over,
and barriers cut off abort. -/
def State.linkDown (s : State) (c : Nat) : State :=
  if !bit (s.cb c 0x0A00) 63 then s
  else
    let l := (s.core c).replay
    let s := (s.dropLink c).modCore c fun k => { k with replay := [] }
    let s := l.foldl (fun s a => s.lost a .linkdown) s
    let s := s.failOver c
    s.strandedBars.foldl (fun s x => s.orphan x.1 x.2) s

/-- LINK_FLIT (R405, R407): a good flit acknowledges requests; one whose CRC fails is replayed, and after eight replays the link is down. On a host
port a bad flit is a PCIe replay, which is counted. -/
def execLinkFlit (s : State) : Out :=
  match s.ev with
  | some (.linkFlit c good tries acked) =>
    .next (if !isLinkCore c ∨ !bit (s.cb c 0x0A00) 63 then s
      else if isHostLink c then (if good then s else s.setCb c 0x0A00 (satInc (s.cb c 0x0A00) 15 0))
      else if good then s.modCore c fun k => { k with
        replay := k.replay.filter fun a => !acked.contains a.id
        awaited := k.awaited ++ k.replay.filter fun a => acked.contains a.id }
      else if tries < 8 then s.setCb c 0x0A00 (satInc (s.cb c 0x0A00) 15 0)
      else s.linkDown c)
  | _ => .next s

/-- ACK_TIMEOUT (R405): LTO cc have passed with flits outstanding. -/
def execAckTimeout (s : State) : Out :=
  match s.ev with
  | some (.ackTimeout c) => .next (if isJenoon c ∧ !(s.core c).replay.isEmpty then s.linkDown c else s)
  | _ => .next s

/-- PHY_LOCK_LOSS (R405). -/
def execPhyLockLoss (s : State) : Out :=
  match s.ev with
  | some (.phyLockLoss c) => .next (if isJenoon c then s.linkDown c else s)
  | _ => .next s

/-- JENOON_LINK_UP (R405): the link is in service, its peer's number in PMOD. -/
def execJenoonLinkUp (s : State) : Out :=
  match s.ev with
  | some (.jenoonLinkUp c peer) =>
    .next (if isJenoon c ∧ peer < 64 then s.setCb c 0x0A00 (setBits (setBit (s.cb c 0x0A00) 63 true) 55 48 peer) else s)
  | _ => .next s

/-! Requests from other modules (R333). -/

/-- The import table's tag for a request: that of the first entry that matches its module and its partition (R333). -/
def State.importTag (s : State) (c m : Nat) (t : Tag) : Option Tag :=
  ((List.range 64).find? fun i =>
    let e := s.cb c (0x9000 + 8 * i)
    bit e 63 && bits e 55 48 == m && (bit e 62 || bits e 61 56 == t.part)).map fun i =>
      { part := s.pid (coreRet c), mode := if bits (s.cb c (0x9000 + 8 * i)) 1 0 = 0 ∨ t.mode = .u then .u else .s }

/-- The merge entry whose armed or held range a word lies in (R409). -/
def State.mergeOver (s : State) (l : Nat) : Option (Nat × Nat) :=
  (s.mergesOn 0 4).find? fun q => decide ((s.mergeRange q.1 q.2).1 ≤ l) && decide (l < (s.mergeRange q.1 q.2).2)

/-- A request that its link core has tagged goes on to its home, a reduction to the core that holds the range's entry (R333, R409). -/
def State.passOn (s : State) (a : Access) : State :=
  let l := lpaOf a.pa
  match a.op, s.mergeOver l with
  | .red _, some q => s.push (.mergeAbsorb q.1 q.2 a)
  | _, _ =>
    if !s.placeLive (s.placeOf l) then s.answerOut a (.failed .darktile) 0 else s.push a.event

/-- A request is refused at a link core: logged there, and reported to its requester (R333). -/
def State.importRefused (s : State) (c : Nat) (a : Access) : State :=
  (s.logRefusal (.core c) a.tag a.op.kind (lpaOf a.pa) a.src).answerOut a (.failed .acctbl) 0

/-- IMPORTED_REQUEST (R333). -/
def execImportedRequest (s : State) : Out :=
  match s.ev with
  | some (.importedRequest c a0) =>
    let a : Access := { a0 with dst := .via c }
    .next (if !isJenoon c ∨ !bit (s.cb c 0x0A00) 63 ∨ s.asleep c ∨ a.src.modn = s.modn ∨ !s.isLocalPa a.pa then s
      else match s.importTag c a.src.modn a.tag with
        | none => s.importRefused c a
        | some t => if s.placeOf (lpaOf a.pa) = .hole then s.importRefused c { a with tag := t } else s.passOn { a with tag := t })
  | _ => .next s

/-! Merge entries (R408 to R411). -/

/-- The identity of a reduction (R408). -/
def redIdentity (op : Nat) : Word :=
  match op with
  | 1 => 0xFFFFFFFFFFFFFFFF
  | 4 => 0x7FFFFFFFFFFFFFFF
  | 5 => 0x8000000000000000
  | 6 => 0xFFFFFFFFFFFFFFFF
  | _ => 0

/-- MERGE_ARM (R408). -/
def execMergeArm (s : State) : Out :=
  match s.ev with
  | some (.mergeArm c e v) => .next (if isLinkCore c ∧ e < 4 ∧ bit v 63 then s.mergeArm c e v else s)
  | _ => .next s

/-- MERGE_DISARM (R408). -/
def execMergeDisarm (s : State) : Out :=
  match s.ev with
  | some (.mergeDisarm c e) => .next (if isLinkCore c ∧ e < 4 then s.mergeDisarm c e else s)
  | _ => .next s

/-- A reduction is absorbed into an armed entry (R409). -/
def State.absorb (s : State) (c e : Nat) (a : Access) : State :=
  let w := s.cb c (mergeOff e)
  let i := (lpaOf a.pa - (s.mergeRange c e).1) / 8
  let b := (mget (s.core c).merges e).getD { touched := [], committing := 0 }
  let op := bits w 58 56
  let v := amoNew op ((mget b.touched i).getD (redIdentity op)) a.data 0
  (s.modCore c fun k => { k with merges := mput e { b with touched := mput i v b.touched } k.merges }).answerOut a .ok 0

/-- MERGE_ABSORB (R409): absorbed, or refused with TASKERR; one that finds the range withdrawn performs at its home. -/
def execMergeAbsorb (s : State) : Out :=
  match s.ev with
  | some (.mergeAbsorb c e a) =>
    let w := s.cb c (mergeOff e)
    let l := lpaOf a.pa
    .next (if !(bit w 63 || bit w 61) ∨ l < (s.mergeRange c e).1 ∨ (s.mergeRange c e).2 ≤ l then s.passOn a
      else if bit w 63 && !bit w 62 && a.op == .red (bits w 58 56) && decide (a.src.modn < 64)
          && bit (s.cb c (mergeOff e + 0x10)) a.src.modn && !bit (s.cb c (mergeOff e + 0x18)) a.src.modn then s.absorb c e a
      else s.answerOut a (.failed .taskerr) 0)
  | _ => .next s

/-- MERGE_CLOSE (R410). -/
def execMergeClose (s : State) : Out :=
  match s.ev with
  | some (.mergeClose c e m) => .next (if isLinkCore c ∧ e < 4 then s.mergeClose c e m else s)
  | _ => .next s

/-- Every commit of a barrier's locked entries has its notices (R410). -/
def State.commitsDone (s : State) (c b : Nat) : Bool :=
  (s.lockedAt c b).all fun e => ((mget (s.core c).merges e).map (·.committing)).getD 0 == 1

/-- MERGE_COMMIT_DONE (R410): with every entry of the barrier done, the completion verdict is applied. -/
def execMergeCommitDone (s : State) : Out :=
  match s.ev with
  | some (.mergeCommitDone c e) =>
    let b := bits (s.cb c (mergeOff e)) 53 48
    .next (if (s.lockedAt c b).contains e ∧ s.commitsDone c b then s.verdict c b false else s)
  | _ => .next s

end Sys2Proof.Machine
end

