-- ==== Sys2Proof/Machine/Pairs.lean ====
section
/-! DEFINITION. Meanings of the RDN instructions (R319 to R321): forming, dissolving and checking a redundant pair. -/
namespace Sys2Proof.Machine

/-- The topcoat that a context gets (R320): a copy of its registers and control registers in another slot, with nothing of its own
outstanding; the undercoat alone carries the drainage charge, the borrowed sets and the pending traps (R373). -/
def topOf (u : Ctx) (slot base : Nat) : Ctx :=
  { u with
    base := base, role := .top slot, dref := 0, ovix := none, out := [], cond := none, resend := none, pend := Pend.none
    nwrOut := [], sets := [], flush := [], lvq := [], walking := false, walkFault := none, walkHit := none, busy := none
    stall := none, cancelling := none, hcall := none }

/-- Make the topcoat of a context in a slot and a run of entries. -/
def State.addTop (s : State) (w : Who) (sl base : Nat) : State :=
  match s.ctx? w with
  | none => s
  | some u =>
    let t : Who := { core := w.core, slot := sl }
    let x := topOf u w.slot base
    let s := s.setCtx t x
    let s := (List.range u.lim).foldl (fun s r => s.setEntry t x r (s.regEntry w u r)) s
    s.modCtx w fun c => { c with role := .under sl, lvq := [] }

/-- RDNON (R320): it parks as WAITC with all limits zero does; the status tells whether the pair was formed. -/
def execRdnon (d : Reg) (s : State) : Out :=
  onCtx s fun w c => needRegs s w c [] (some d) (waitLimits s w c 0 0 0 0
    (let k := s.core w.core
     let status (v : Word) : Out := .next ((s.setReg w c d.toNat v).finish w 1 8)
     if c.partner.isSome then status 1
     else if s.holdings w { c with grp := 0 } != 0 then status 2
     else match (if k.ringCount = 0 then k.place w.core c.lim else none) with
       | none => status onesW
       | some (sl, base) => .next (((s.setReg w c d.toNat 0).finish w 1 8).addTop w sl base)))

/-- RDNOFF (R321): on agreement the topcoat's slot is stripped and freed. Outside a pair it has no effect. -/
def execRdnoff (s : State) : Out :=
  onCtx s fun w c => together s w c
    (match c.partner with
     | none => .next (s.finish w 1 8)
     | some p =>
       let s := s.vacate { core := w.core, slot := p }
       .next ((s.modCtx w fun c => { c with role := .single }).finish w 1 8))

/-- RDNCHK (R321): 0 in both members on agreement, 1 outside a pair. -/
def execRdnchk (d : Reg) (s : State) : Out :=
  onCtx s fun w c => needRegs s w c [] (some d) (together s w c
    (match s.runningTop w c with
     | none => .next ((s.setReg w c d.toNat (if c.partner.isSome then 0 else 1)).finish w 1 8)
     | some (t, _) =>
       .next (((s.setReg w c d.toNat 0).finish w 1 8).followTop w t.slot c.retired (some d))))

end Sys2Proof.Machine
end

