-- ==== Sys2Proof/Machine/Rows.lean ====
section
/-! DEFINITION. Meanings of the events that are a write or a read of one register of a control block (R4, R52, R194, R204, R263, R285, R323,
R330, R338, R362, R390, R398, R399, R406, R407). An admitted access performs the same operations (R184). -/
namespace Sys2Proof.Machine

/-- INTERLEAVE_WRITE (R194). -/
def execInterleaveWrite (s : State) : Out :=
  match s.ev with
  | some (.interleaveWrite r v) => .next (s.interleave r v)
  | _ => .next s
/-- POOL_WRITE (R52). -/
def execPoolWrite (s : State) : Out :=
  match s.ev with
  | some (.poolWrite r off v) => .next (if off = 0x0400 ∨ off = 0x0408 then s.poolWrite r off v else s)
  | _ => .next s
/-- MAILBOX_WRITE (R263). -/
def execMailboxWrite (s : State) : Out :=
  match s.ev with
  | some (.mailboxWrite r off v) => .next (if off = 0x0500 ∨ off = 0x0508 then s.mailbox r off v else s)
  | _ => .next s
/-- BUDGET_WRITE (R285). -/
def execBudgetWrite (s : State) : Out :=
  match s.ev with
  | some (.budgetWrite r v) => .next (s.budget r v)
  | _ => .next s
/-- PARTITION_WRITE (R323). -/
def execPartitionWrite (s : State) : Out :=
  match s.ev with
  | some (.partitionWrite r v) => .next (s.partition r v)
  | _ => .next s

/-- An address lies in a tile's SRAM of a reticle. -/
def inTileSram (r a : Nat) : Bool :=
  let o := a - (retBase + 2 ^ 30 * r)
  decide (retBase + 2 ^ 30 * r ≤ a) && decide (o < 192 * 2 ^ 22) && decide (o % 2 ^ 22 < Config.sramBytes)

/-- The end of a reassignment scrub (R323 steps 3 and 4): every word of tile SRAM is zero, full and not poisoned; the values take effect, and
the contexts that stand on the reticle, its message and firmware contexts, are of its partition from then on (R322). -/
def State.scrubbed (s : State) (r : Nat) : State :=
  let out : List Nat → List Nat := fun l => l.filter fun a => !inTileSram r a
  let s : State :=
    { s with
      mem := s.mem.filter fun p => !inTileSram r p.1
      empties := out s.empties, poison := out s.poison, corrupt := out s.corrupt }
  let v := s.rcb r scrubOff
  let own (c : Ctx) : Ctx := { c with part := bits v 5 0 }
  let move (k : Core) : Core := { k with slots := k.slots.map fun (p : Nat × Ctx) => (p.1, own p.2) }
  let s : State := { s with cores := s.cores.map fun (p : Nat × Core) => if coreRet p.1 = r then (p.1, move p.2) else p }
  s.setRcb r 0x0700 (setBits (setBits (setBit (s.rcb r 0x0700) 62 false) 63 63 (bits v 63 63)) 5 0 (bits v 5 0))

/-- PARTITION_SCRUB_DONE (R323). -/
def execPartitionScrubDone (s : State) : Out :=
  match s.ev with
  | some (.partitionScrubDone r) => .next (if bit (s.rcb r 0x0700) 62 then s.scrubbed r else s)
  | _ => .next s
/-- HOSTIRQ_POST (R338). -/
def execHostirqPost (s : State) : Out :=
  match s.ev with
  | some (.hostirqPost core v) => .next (s.hostirq core v)
  | _ => .next s
/-- TIER_MIGRATION_GO (R204). -/
def execTierMigrationGo (s : State) : Out :=
  match s.ev with
  | some (.tierMigrationGo core) => .next (s.tierGo core)
  | _ => .next s
/-- BANK_SPARING_GO (R399). -/
def execBankSparingGo (s : State) : Out :=
  match s.ev with
  | some (.bankSparingGo core m) => .next (s.spareGo core m)
  | _ => .next s
/-- SKIM_RETIRE (R204). -/
def execSkimRetire (s : State) : Out :=
  match s.ev with
  | some (.skimRetire core) => .next (s.skimRetire core)
  | _ => .next s
/-- ATTEST_GO (R390). -/
def execAttestGo (s : State) : Out :=
  match s.ev with
  | some (.attestGo r) => .next (s.attest r)
  | _ => .next s

/-- The words a quote is signed over besides the reticle's own (R390): the challenge and the topology table. -/
def State.quoted (s : State) (r : Nat) : List Word :=
  ((List.range 6).map fun i => s.rcb r (0x0D00 + 8 * i)) ++ ((List.range 400).map fun i => s.topoWord (0x2000 + 8 * i))

/-- ATTEST_DONE (R390): the signature is written and BUSY clears. -/
def execAttestDone (s : State) : Out :=
  match s.ev with
  | some (.attestDone r) =>
    .next (if bit (s.rcb r 0x0D30) 1 then
        let l := s.quoted r
        ((List.range 12).foldl (fun s i => s.setRcb r (0x0D40 + 8 * i) (Config.signature r l i)) s).setRcb r 0x0D30 0
      else s)
  | _ => .next s
/-- ROUTE_TABLE_WRITE (R406). -/
def execRouteTableWrite (s : State) : Out :=
  match s.ev with
  | some (.routeTableWrite r m v) => .next (if m < 64 then s.routeWrite r m v else s)
  | _ => .next s
/-- REGISTER_WRITE (R4): a write to a register of no row of its own. -/
def execRegisterWrite (s : State) : Out :=
  match s.ev with
  | some (.registerWrite b off v) => .next (s.writeBlk b off v .s s.modn)
  | _ => .next s

/-! Reads that clear (R4). -/

/-- A read of a word of a control block performs at its home: the access names that word. -/
def readRow (s : State) (b : Block) (offs : List Nat) (a : Access) : Out :=
  let p := s.placeOf (lpaOf a.pa)
  let word := ctlOff p
  .next (if p.isCtl ∧ blockOf p = b ∧ offs.contains word then s.arrive a else s)

/-- HOTPG_READ (R204). -/
def execHotpgRead (s : State) : Out :=
  match s.ev with
  | some (.hotpgRead core a) => readRow s (.core core) [0x0028] a
  | _ => .next s
/-- REFUSAL_LOG_READ (R330). -/
def execRefusalLogRead (s : State) : Out :=
  match s.ev with
  | some (.refusalLogRead b off a) => readRow s b (if off = 0x8800 ∨ off = 0x8808 then [off] else []) a
  | _ => .next s
/-- BROKER_COUNT_READ (R292). -/
def execBrokerCountRead (s : State) : Out :=
  match s.ev with
  | some (.brokerCountRead r a) => readRow s (.ret r) [0x0638] a
  | _ => .next s
/-- ERROR_LOG_COUNT_READ (R362). -/
def execErrorLogCountRead (s : State) : Out :=
  match s.ev with
  | some (.errorLogCountRead r a) => readRow s (.ret r) [0x0C10] a
  | _ => .next s
/-- LNKF_READ (R398). -/
def execLnkfRead (s : State) : Out :=
  match s.ev with
  | some (.lnkfRead r a) => readRow s (.ret r) [0x0F18] a
  | _ => .next s
/-- LINK_COUNT_READ (R407). -/
def execLinkCountRead (s : State) : Out :=
  match s.ev with
  | some (.linkCountRead core a) => readRow s (.core core) [0x0A00] a
  | _ => .next s

end Sys2Proof.Machine
end

