-- ==== Sys2Proof/Machine/System.lean ====
section
/-! DEFINITION. Meanings of system calls and returns (R344 to R346), of the privileged instructions that act at once (R352 to R356), and of
the HCALL messages. -/
namespace Sys2Proof.Machine

/-- A privileged instruction (R73): below its least mode it traps PRIV. -/
def privileged (s : State) (least : Mode) (k : Who → Ctx → Out) : Out :=
  onCtx s fun w c => if modeCode c.mode < modeCode least then trapNow s w c .priv s.irWord else k w c

/-! System calls and returns. -/

/-- TRAP (R345): BRKPT with its code. -/
def execTrap (k : BitVec 10) (s : State) : Out :=
  onCtx s fun w c => trapNow s w c .brkpt (k.setWidth 64)

/-- The firmware context that answers a core's HCALLs is there (R345). -/
def State.hasFirmware (s : State) (r : Nat) : Bool :=
  ((s.ctx? { core := coreId r 0, slot := 62 }).map fun c => c.kind == .firmware).getD false

/-- An HCALL is sent (R345): both result registers are owed, the call is counted in ctr.LD. -/
def State.sendHcall (s : State) (w : Who) (c : Ctx) (k : BitVec 10) : State :=
  let id := s.ids
  let q : HReq :=
    { code := k.toNat, part := c.part, asid := c.asid, src := s.src w, args := [1, 2, 3, 4].map fun r => s.reg w c r }
  let o : OutOp := { id := id, cls := .ld, dst := some 1, home := none, both := (s.runningTop w c).isSome }
  let s := (({ s with ids := id + 1 } : State).owe w c 1).owe w c 2
  ((s.modCtx w fun c => { (c.add o) with hcall := some id }).push (.hcallRequest q)).finish w 1 8

/-- HCALL (R345): in U it traps; in S it parks as a release does, then asks the firmware context of its reticle; in F, or without one, it
completes at once. -/
def execHcall (k : BitVec 10) (s : State) : Out :=
  onCtx s fun w c =>
    if c.mode = .u then trapNow s w c .hcall (k.setWidth 64)
    else needRegs s w c [1, 2, 3, 4] none
      (if c.mode = .f ∨ !s.hasFirmware (coreRet w.core) then
         .next (((s.setReg w c 1 onesW).setReg w c 2 0).finish w 1 8)
       else asRelease s w c (outwardTo s w c [1, 2, 3, 4] [1, 2] fun s w c =>
         if Config.hcallQueue ≤ s.hcalls (fwCore w.core) then .next (s.park w .firmwareQueue)
         else .next (s.sendHcall w c k)))

/-- HCALL_REQUEST (R345): the request enters the firmware context's queue. -/
def execHcallRequest (s : State) : Out :=
  match s.ev with
  | some (.hcallRequest q) => .next (s.modCore (fwCore q.src.core) fun k => { k with hcq := k.hcq ++ [q] })
  | _ => .next s

/-- HCALL_REPLY (R345, R352): x1 and x2 of the caller; one of another generation, or that waits for none, is discarded. -/
def execHcallReply (s : State) : Out :=
  match s.ev with
  | some (.hcallReply core slot gen v1 v2) =>
    let w : Who := { core := core, slot := slot }
    .next (match s.ctx? w with
      | none => s
      | some c =>
        match c.hcall.bind c.op? with
        | none => s
        | some o =>
          if s.gen w ≠ gen then s
          else
            let s := s.landValue w o v1
            let s := s.landValue w { o with dst := some 2 } v2
            s.modCtx w fun c => { (c.done o.id) with hcall := none })
  | _ => .next s

/-- ERET (R346): PRIV in U, ILLOP outside a handler. -/
def execEret (s : State) : Out :=
  privileged s .s fun w c => if c.inh then .next (s.eret w) else trapNow s w c .illop s.irWord

/-! Handles (R305, R348). -/

/-- What a handle in a register names. -/
inductive Target
  | bad
  | stale
  | ctx (w : Who) (c : Ctx)
  deriving DecidableEq, Repr, Inhabited

/-- A context meets the conditions of a handle for an issuer (R348): resident, of its partition, of no higher privilege. -/
def okTarget (c x : Ctx) : Bool := x.kind == .resident && x.part == c.part && decide (modeCode x.prv ≤ modeCode c.prv)

/-- A handle, as CTXSV and FREEZE take it (R348): a pair is named by either member, and counts as one. -/
def State.target (s : State) (w : Who) (c : Ctx) (h : Word) : Target :=
  let t : Who := { core := w.core, slot := bits h 5 0 }
  if bits h 63 32 ≠ 0 ∨ bits h 15 6 ≠ 0 then .bad
  else if (s.gen t).toNat ≠ bits h 31 16 then .stale
  else match s.ctx? t with
    | none => .bad
    | some x =>
      if t = w ∨ c.partner = some t.slot ∨ !okTarget c x then .bad
      else match x.role with
        | .top p => (match s.ctx? { core := w.core, slot := p } with
          | some u => .ctx { core := w.core, slot := p } u
          | none => .bad)
        | _ => .ctx t x

/-! PRD and PWR (R352). -/

/-- Pending traps of a context, as PTRAP and save-area word 0x0078 lay them out (R347). -/
def Ctx.pendWord (c : Ctx) : Word :=
  let p := c.pend
  let one (b : Bool) (n : Nat) : Nat := if b then 2 ^ n else 0
  BitVec.ofNat 64 (one p.late.isSome 63 + one p.eng.isSome 62
    + ((p.eng.map fun x => causeCode x.1).getD 0) * 2 ^ 56 + ((p.late.map fun x => causeCode x.1).getD 0) * 2 ^ 50
    + one p.watchdog.isSome 0 + one p.severity.isSome 1 + one p.step.isSome 2 + one p.resume.isSome 3 + one p.droop.isSome 4
    + one p.tokrevoke.isSome 5)

/-- What a selector names (R352). -/
inductive PReg
  | tsv (n : Nat)
  | dref
  | ptrap
  | hcq
  | hca (n : Nat)
  | hcsnd
  | hcv (n : Nat)
  deriving DecidableEq, Repr, Inhabited

/-- The privileged register of a NUM with OTH = 0. -/
def pregOf (n : Nat) : Option PReg :=
  if n < 4 then some (.tsv n)
  else if n = 0x010 then some .dref
  else if n = 0x018 then some .ptrap
  else if n = 0x200 then some .hcq
  else if 0x201 ≤ n ∧ n ≤ 0x204 then some (.hca (n - 0x201))
  else if n = 0x208 then some .hcsnd
  else if n = 0x209 ∨ n = 0x20A then some (.hcv (n - 0x209))
  else none

/-- A register that only F may read or write (R352). -/
def PReg.firmware : PReg → Bool
  | .tsv _ => false
  | .dref => false
  | .ptrap => false
  | _ => true

/-- Descriptor of an HCALL request (R352). -/
def hcallWord (q : HReq) : Word :=
  BitVec.ofNat 64 (2 ^ 63 + coreRet q.src.core * 2 ^ 48 + coreTile q.src.core * 2 ^ 40 + q.src.slot * 2 ^ 32
    + q.src.gen.toNat * 2 ^ 16 + q.code)

/-- Read a privileged register of the issuer: the value and the state after. -/
def State.readPreg (s : State) (w : Who) (c : Ctx) : PReg → Word × State
  | .tsv n => (((c.tsv[n]?).map (·.1)).getD 0, s)
  | .dref => (c.dref, s)
  | .ptrap => (c.pendWord, s)
  | .hcq =>
    (match (s.core w.core).hcq with
     | [] => (0, s)
     | q :: r => (hcallWord q, s.modCore w.core fun k => { k with hcq := r, hcPop := q.args }))
  | .hca n => ((s.core w.core).hcPop.getD n 0, s)
  | .hcsnd => (0, s)
  | .hcv _ => (0, s)

/-- Writable bits of a drainage reference (R274). -/
def drefMask : Word := maskBits 63 49 ||| maskBits 44 0

/-- Write a privileged register of the issuer. -/
def State.writePreg (s : State) (w : Who) (c : Ctx) (p : PReg) (v : Word) : State :=
  match p with
  | .tsv n => s.modCtx w fun c => { c with tsv := c.tsv.set n (v, true) }
  | .dref => if c.mode = .f then s.modCtx w fun c => { c with dref := maskIn drefMask 0 v } else s
  | .hcv n => s.modCore w.core fun k => { k with hcStage := ([0, 1].map fun i => if i = n then v else k.hcStage.getD i 0) }
  | .hcsnd =>
    let st := (s.core w.core).hcStage
    if bit v 63 then
      s.push (.hcallReply (coreId (bits v 53 48) (bits v 47 40)) (bits v 37 32) (BitVec.ofNat 16 (bits v 31 16)) (st.getD 0 0) (st.getD 1 0))
    else s
  | _ => s

/-- The frozen context that a selector with OTH = 1 names (R352, R377). -/
def State.otherOf (s : State) (w : Who) (c : Ctx) (sel : Word) : Option (Who × Ctx) :=
  let t : Who := { core := w.core, slot := bits sel 21 16 }
  (s.ctx? t).bind fun x => if t ≠ w ∧ okTarget c x ∧ x.run = .frozen then some (t, x) else none

/-- A selector's bits that must be zero are zero. -/
def selectorOk (sel : Word) : Bool := bits sel 63 24 == 0 && bit sel 22 == false && bits sel 15 12 == 0

/-- PRD (R352). -/
def execPrd (d a : Reg) (s : State) : Out :=
  privileged s .s fun w c => needRegs s w c [a] (some d) (outward s w c [a] (some d) fun s w c =>
    (let sel := s.reg w c a.toNat
     let n := bits sel 11 0
     let done (v : Word) (s : State) : Out := .next ((s.setReg w c d.toNat v).finish w 1 8)
     if !selectorOk sel then trapNow s w c .illop sel
     else if bit sel 23 then
       match s.otherOf w c sel with
       | none => trapNow s w c .taskerr s.irWord
       | some (t, x) =>
         if n < x.lim then
           (if (s.regEntry t x n).bad then badEntry s w c n (x.entry n) else done (s.reg t x n) s)
         else if 0x080 ≤ n ∧ n ≤ 0x090 then done (s.ctlReg t x (n - 0x080)) s
         else if n = 0x0A0 then done x.pc s
         else trapNow s w c .illop sel
     else match pregOf n with
       | none => trapNow s w c .illop sel
       | some p =>
         if p.firmware && c.mode != .f then trapNow s w c .priv sel
         else match p with
           | .tsv i =>
             if ((c.tsv[i]?).map (·.2)).getD true then done (((c.tsv[i]?).map (·.1)).getD 0) s else .next (s.park w (.tsv i))
           | p =>
             let r := s.readPreg w c p
             done r.1 r.2))

/-- PWR (R352). -/
def execPwr (a b : Reg) (s : State) : Out :=
  privileged s .s fun w c => needRegs s w c [a, b] none (outward s w c [a, b] none fun s w c =>
    (let sel := s.reg w c a.toNat
     let v := s.reg w c b.toNat
     let n := bits sel 11 0
     if !selectorOk sel then trapNow s w c .illop sel
     else if bit sel 23 then
       match s.otherOf w c sel with
       | none => trapNow s w c .taskerr s.irWord
       | some (t, x) =>
         if n < x.lim then .next ((s.setReg t x n v).finish w 1 8)
         else if 0x080 ≤ n ∧ n ≤ 0x090 then .next ((s.modCtx t fun x => x.writeCtl c.mode (n - 0x080) v).finish w 1 8)
         else if n = 0x0A0 then .next ((s.modCtx t fun x => { x.unheld with pc := maskIn (maskBits 63 2) 0 v, heldTrap := none }).finish w 1 8)
         else trapNow s w c .illop sel
     else match pregOf n with
       | none => trapNow s w c .illop sel
       | some p =>
         if p.firmware && c.mode != .f then trapNow s w c .priv sel
         else .next ((s.writePreg w c p v).finish w 1 8)))

/-! TLBI, STRIP, FREEZE, SEVSET (R353 to R356). -/

/-- TLBI (R353): sent to every core's buffer; a completing park until each has acknowledged. -/
def execTlbi (a b : Reg) (s : State) : Out :=
  privileged s .s fun w c => needRegs s w c [a, b] none (lockstep s w c [a, b] none fun s w c =>
    (let v := s.reg w c b.toNat
     let q : TlbiReq :=
       { core := w.core, slot := w.slot, gen := s.gen w, part := c.part, asid := bits v 11 0, va := s.reg w c a.toNat,
         scope := bits v 17 16 }
     let cs := s.cores.map (·.1)
     .next ((s.park w (.tlbi cs.length)).pushAll (cs.map fun k => Ev.tlbRemoval k q))))

/-- Strip registers of a context: zero, with fresh check bits, present (R32, R354). -/
def State.stripRegs (s : State) (w : Who) (c : Ctx) (first n : Nat) : State :=
  s.modCore w.core fun k => { k with file := stripEntries (c.base + first) n k.file }

/-- STRIP (R354). -/
def execStrip (a : Reg) (s : State) : Out :=
  privileged s .s fun w c => needRegs s w c [a] none
    (let v := s.reg w c a.toNat
     let first := bits v 6 0
     let n := bits v 14 8
     let rs := (List.range n).map (first + ·)
     if bits v 63 15 ≠ 0 ∨ bit v 7 ∨ first = 0 ∨ c.lim < first + n then trapNow s w c .regrange v
     else if rs.any fun r => (s.regEntry w c r).pres != .present then .next (s.park w (.regs rs))
     else outward s w c [a] none fun s w c =>
       (let s' := s.stripRegs w c first n
        let s' := match s.runningTop w c with
          | some (t, x) => s'.stripRegs t x first n
          | none => s'
        .next (s'.finish w 1 (8 + (n + 7) / 8))))

/-- Freeze a context that is not frozen: an access of it that waits is cancelled first (R227, R355), as it may already be for a trap. -/
def State.beginFreeze (s : State) (t : Who) (x : Ctx) : State :=
  let s := match s.runningTop t x with
    | some (q, _) => s.freezeNow q
    | none => s
  if x.cond.isSome then
    (match x.cancelling with
      | none => (s.modCtx t fun x => { x with cancelling := some .freeze }).push (.cancel t.core t.slot .freeze)
      | some .trap => s.modCtx t fun x => { x with cancelling := some .freeze }
      | some _ => s)
  else s.freezeNow t

/-- Thaw one member: it goes on in its completing park, or is Ready and executes its parked instruction again (R355). -/
def State.thawOne (s : State) (t : Who) : State :=
  match s.ctx? t with
  | none => s
  | some x =>
    if x.run ≠ .frozen ∨ x.busy = some Park.partner then s
    else
      (s.setCtx t { x with
        run := (match x.busy with
          | some p => .parked p
          | none => .ready)
        busy := none
        spacing := Nat.max x.spacing (s.now t.core + 1) }).resume t

/-- FREEZE (R355): a pair is frozen and thawed as one. -/
def execFreeze (a b : Reg) (s : State) : Out :=
  privileged s .s fun w c => needRegs s w c [a, b] none (outward s w c [a, b] none fun s w c =>
    (match s.target w c (s.reg w c a.toNat) with
     | .bad => trapNow s w c .taskerr s.irWord
     | .stale => .next (s.finish w 1 8)
     | .ctx t x =>
       if bit (s.reg w c b.toNat) 0 then
         .next ((if x.run = .frozen ∨ x.run = .saving then s else s.beginFreeze t x).finish w 1 8)
       else
         let s := match x.partner with
           | some p => s.thawOne { core := t.core, slot := p }
           | none => s
         .next ((s.thawOne t).finish w 1 8)))

/-- SEVSET (R356): one action of the severity matrix of the issuer's reticle. -/
def execSevset (a b : Reg) (s : State) : Out :=
  privileged s .f fun w c => needRegs s w c [a, b] none (outward s w c [a, b] none fun s w c =>
    (let v := s.reg w c a.toNat
     let x := s.reg w c b.toNat
     let cls := bits v 13 8
     let kind := bits v 3 0
     let off := 0x0A00 + 8 * cls
     let r := coreRet w.core
     if bits v 63 14 ≠ 0 ∨ bits v 7 4 ≠ 0 ∨ 13 < cls ∨ 7 < kind then trapNow s w c .illop v
     else if 4 < x.toNat then trapNow s w c .illop x
     else .next ((s.setRcb r off (setBits (s.rcb r off) (4 * kind + 3) (4 * kind) x.toNat)).finish w 1 8)))

end Sys2Proof.Machine
end

