-- ==== Sys2Proof/Machine/Tasks.lean ====
section
/-! DEFINITION. Meanings of the TASK instructions (R313 to R317): spawning, early-push queues, direct counts of the drainage tree. -/
namespace Sys2Proof.Machine

/-- An instruction completes its issue, and its failure is a late access trap (R222, R313). -/
def lateNow (s : State) (w : Who) (cz : Cause) (va : Word) : Out :=
  .next ((s.finish w 1 8).modCtx w fun c => c.lateTrap cz va)

/-- Ask for the words that an instruction reads at issue, as plain loads of its context, while ctr.LD has room (R206, R350). -/
def State.askWords (w : Who) : Nat → State → State
  | 0, s => s
  | n + 1, s =>
    match s.ctx? w with
    | none => s
    | some c => match c.gather with
      | none => s
      | some g => match g.left with
        | [] => s
        | (i, va, pa) :: rest =>
          if 15 ≤ c.count .ld ∨ g.bad.isSome then s
          else
            let id := s.ids
            let a : Access := { s.request w c (.load 3 false) va pa 0 0 none id with dst := .gather i, granted := false }
            let s := ({ s with ids := id + 1 } : State).count w a.op id pa none
            let s := s.modCtx w fun c => { c with gather := some { g with left := rest, asked := g.asked ++ [id] } }
            State.askWords w n (s.send a)

/-- A failure of a read at issue: at the instruction where the word's home is the issuing core, late elsewhere (R221, R222). -/
def readFailed (s : State) (w : Who) (c : Ctx) (pa : Nat) (cz : Cause) (va : Word) : Out :=
  if s.isLocalPa pa && s.homeOf pa == w.core then trapNow s w c cz va else lateNow s w cz va

/-- Read words at issue: the instruction stalls until all of them have come, and then runs with them (R269, R350). -/
def gathered (s : State) (w : Who) (c : Ctx) (l : List (Word × Nat)) (go : State → List Word → Out) : Out :=
  let g0 : Gather := { left := (List.range l.length).zip l, asked := [], got := [], bad := none }
  let s := s.modCtx w fun c => { c with gather := c.gather.orElse fun _ => some g0 }
  let s := State.askWords w l.length s
  match (s.ctx? w).bind (·.gather) with
  | none => .next s
  | some g =>
    if !g.asked.isEmpty || (g.bad.isNone && !g.left.isEmpty) then .next (s.stallOn w .words)
    else match g.bad with
      | some (cz, va, pa) => readFailed (s.modCtx w fun c => { c with gather := none }) w c pa cz va
      | none => go s ((List.range l.length).map fun i => (mget g.got i).getD 0)

/-! SPAWN (R269, R314). -/

/-- A work packet breaks the rules of its layout (R269). -/
def packetBad (l : List Word) : Bool :=
  let w (i : Nat) : Word := l.getD i 0
  bits (w 0) 60 55 != 0 || bits (w 0) 1 0 != 0 || bits (w 1) 57 55 != 0 || bits (w 2) 57 55 != 0

/-- The migrant packet that a work packet makes (R49, R269). -/
def spawnPacket (c : Ctx) (l : List Word) : List Word :=
  let w (i : Nat) : Word := l.getD i 0
  let arg (i : Nat) : Word := sextN 32 (if i % 2 = 0 then bits (w (4 + i / 2)) 31 0 else bits (w (4 + i / 2)) 63 32)
  [sextN 55 (bits (w 0) 54 0),
   BitVec.ofNat 64 (c.part * 2 ^ 48 + c.asid * 2 ^ 36 + bits (w 0) 63 61 * 2 ^ 32 + 1),
   w 1, w 2, 0, c.dref, maskIn (maskBits 63 48) 0 c.wdog, BitVec.ofNat 64 (0xFFFFFFFFFF * 2 ^ 24)]
  ++ (List.range 8).map arg ++ List.replicate 16 0

/-- A spawn whose packet and anchor are good: charged first where the spawner is charged, else sent at once (R269, R274). -/
def State.spawn (s : State) (w : Who) (c : Ctx) (d : Reg) (va : Word) (p : List Word) (home : Nat) : State :=
  if bit c.dref 63 then
    let id := s.ids
    let o : OutOp := { id := id, cls := .ld, dst := some d.toNat, home := none, both := (s.runningTop w c).isSome }
    let wt : DrainWait :=
      { core := drefCore c.dref, src := s.src w, tag := c.tag, id := id, use := .packet p home, value := 0, va := va }
    let n : DrainNode := .core (drefCore c.dref)
    let s := ({ s with ids := id + 1 } : State).owe w c d.toNat
    ((s.modCtx w fun x => x.add o).push (.drainUp n n (drefRoot c.dref) wt)).finish w 1 8
  else
    let r := s.sendSpawn w.core p home
    (r.1.setReg w c d.toNat r.2).finish w 1 8

/-- SPAWN (R314): it parks as a release does; its packet is read at issue, its anchor translated and checked. -/
def execSpawn (d a : Reg) (s : State) : Out :=
  onCtx s fun w c => needRegs s w c [a] (some d) (afterCond s w c (roomIn s w c .ld (asRelease s w c (lockstep s w c [a] (some d) fun s w c =>
    (let va := s.reg w c a.toNat
     if va.toNat % 64 ≠ 0 then trapNow s w c .align va
     else reached s w c va .read fun pa =>
       gathered s w c ((List.range 8).map fun i => (va + BitVec.ofNat 64 (8 * i), pa + 8 * i)) fun s l =>
         if packetBad l then lateNow s w .taskerr va
         else
           let anchor := l.getD 3 0
           xlated s w c anchor .read fun ah =>
             if !s.isLocalPa ah then lateNow s w .taskerr va
             else match s.reachTrap w c ah with
               | some cz => trapNow s w c cz anchor
               | none =>
                 if !s.samePart (coreRet w.core) (coreRet (s.homeOf ah)) then trapNow s w c .partviol anchor
                 else .next (s.spawn w c d va (spawnPacket c l) (s.homeOf ah)))))))

/-! Queues and the root word (R315, R317). -/

/-- An access of a TASK instruction: by request and reply, also for a migrant (R313). -/
def taskAccess (s : State) (d : Reg) (a : Reg) (srcs : List Reg) (op : MemOp) (k : AccKind) (align : Nat) (data cmp : State → Who → Ctx → Word) : Out :=
  onCtx s fun w c => needRegs s w c srcs (some d) (afterCond s w c (roomIn s w c .ld (outward s w c srcs (some d) fun s w c =>
    (let va := s.reg w c a.toNat
     if va.toNat % align ≠ 0 then trapNow s w c .align va
     else checked s w c op k va false fun s pa =>
       let id := s.ids
       let r := s.request w c op va pa (data s w c) (cmp s w c) (some d) id
       .next ((({ s with ids := id + 1 } : State).launch w op pa (some d) r).finish w 1 8)))))

/-- The stamp of a push (R270). -/
def State.stampOf (s : State) (w : Who) (c : Ctx) : Word :=
  BitVec.ofNat 64 (coreRet w.core * 2 ^ 58 + coreTile w.core * 2 ^ 50 + w.slot * 2 ^ 44 + (s.gen w).toNat * 2 ^ 28
    + c.issuedW % 2 ^ 28)

/-- QPUSH (R270, R315). -/
def execQpush (d a b : Reg) (s : State) : Out :=
  taskAccess s d a [a, b] .qpush .atomic 64 (fun s w c => s.reg w c b.toNat) (fun s w c => s.stampOf w c)
/-- QPOP (R270, R315). -/
def execQpop (d a : Reg) (s : State) : Out := taskAccess s d a [a] .qpop .atomic 64 (fun _ _ _ => 0) (fun _ _ _ => 0)
/-- DRWAIT (R275, R317). -/
def execDrwait (d a : Reg) (s : State) : Out := taskAccess s d a [a] .drwait .read 8 (fun _ _ _ => 0) (fun _ _ _ => 0)

/-! Direct counts (R274, R316). -/

/-- The frame of DRINC and DRDEC: not by a migrant; the root word aligned, reached with RD and W, in populated DRAM of this module. -/
def rootFrame (s : State) (a b : Reg) (body : State → Who → Ctx → Word → Nat → Nat → Out) : Out :=
  onCtx s fun w c => needRegs s w c [a, b] none
    (if c.kind = .migrant then trapNow s w c .taskerr s.irWord
     else outward s w c [a, b] none fun s w c =>
       (let va := s.reg w c a.toNat
        if va.toNat % 8 ≠ 0 then trapNow s w c .align va
        else reached s w c va .atomic fun pa =>
          if !s.isLocalPa pa || !(s.placeOf (lpaOf pa)).isDram then trapNow s w c .drainerr va
          else body s w c va (lpaOf pa) (s.reg w c b.toNat).toNat))

/-- DRINC (R316): local unless the counter leaves zero, which waits for the parent. -/
def execDrinc (a b : Reg) (s : State) : Out :=
  rootFrame s a b fun s w c va root n =>
    let k := s.drainCount (.core w.core) root
    if n = 0 then .next (s.finish w 1 8)
    else if 2 ^ 32 ≤ k + n then trapNow s w c .drainerr va
    else if k ≠ 0 ∧ s.drainWaits (.core w.core) root = [] then .next ((s.setDrain (.core w.core) root (k + n)).finish w 1 8)
    else roomIn s w c .st
      (let id := s.ids
       let o : OutOp := { id := id, cls := .st, dst := none, home := none, both := false }
       let wt : DrainWait := { core := w.core, src := s.src w, tag := c.tag, id := id, use := .amount n, value := 0, va := va }
       let s := ({ s with ids := id + 1 } : State).modCtx w fun x => x.add o
       .next ((s.drainRaise (.core w.core) (.core w.core) root wt).finish w 1 8))

/-- DRDEC (R316). -/
def execDrdec (a b : Reg) (s : State) : Out :=
  rootFrame s a b fun s w c va root n =>
    asRelease s w c
      (let k := s.drainCount (.core w.core) root
       if k < n then trapNow s w c .drainerr va
       else if n = 0 then .next (s.finish w 1 8)
       else
         let s := s.setDrain (.core w.core) root (k - n)
         let s := if k = n then
             s.push (.drainDown (drainParent (.core w.core)) (.core w.core) root true false false (some (s.src w, c.tag)))
           else s
         .next (s.finish w 1 8))

end Sys2Proof.Machine
end

