-- ==== Sys2Proof/Machine/Saving.lean ====
section
/-! DEFINITION. Pre-emption (R347 to R351): the save area, CTXSV with the event that writes it, and CTXLD. -/
namespace Sys2Proof.Machine

/-! The save area (R347): 768 words. -/

/-- Words of a save area. -/
def areaWords : Nat := 768

/-- Code of an access to be sent again, its register and its data (R347). -/
def resendWords (c : Ctx) : List Word :=
  match c.resend with
  | none => [0, 0, 0]
  | some a =>
    let code := match a.op with
      | .ldfe => 0
      | .ldff => 1
      | .stef => 2
      | .qpop => 3
      | _ => 4
    let rd := match a.dst with
      | .reg r => r
      | _ => 0
    [BitVec.ofNat 64 (2 ^ 63 + code * 2 ^ 60 + rd * 2 ^ 32), a.va, if a.op = .stef then a.data else 0]

/-- The four words of a stream register (R178). -/
def Stream.words (x : Stream) : List Word :=
  [x.va, BitVec.ofNat 64 (x.len * 2 ^ 32 + x.pos), BitVec.ofNat 64 (x.cnt * 2 ^ 32),
   BitVec.ofNat 64 ((if x.isOpen then 2 ^ 63 else 0) + (if x.rs then 2 ^ 62 else 0) + x.fmt * 2 ^ 56 + x.slot * 2 ^ 50
     + x.gen.toNat * 2 ^ 32)]

/-- Bits set where a predicate holds. -/
def bitmap (n : Nat) (p : Nat → Bool) : Nat := sumOf ((List.range n).map fun i => if p i then 2 ^ i else 0)

/-- 128 words of registers: the entries from a base on, zero from a limit on. -/
def State.areaRegs (s : State) (core base lim : Nat) : List Word :=
  (List.range 128).map fun i => if i < lim then ((mget (s.core core).file (base + i)).getD RegEntry.stripped).val else 0

/-- The words that a save of a context writes, under a save key (R347). -/
def State.areaOf (s : State) (w : Who) (c : Ctx) (key : Nat) : List Word :=
  let u := s.core w.core
  let own := u.cbu.owner == some (w.slot, s.gen w) && u.cbu.savedBy.isNone
  let pres (n : Nat) : Bool := n == 0 || (decide (n < c.lim) && (s.regEntry w c n).pres == .present)
  [BitVec.ofNat 64 (2 ^ 56 + modeCode c.mode * 2 ^ 54 + modeCode c.prv * 2 ^ 52 + (if c.partner.isSome then 2 ^ 51 else 0)
     + (if own then 2 ^ 50 else 0) + c.lim * 2 ^ 40 + c.asid * 2 ^ 28 + c.part * 2 ^ 22),
   c.pc,
   BitVec.ofNat 64 (c.ecls.toNat * 2 ^ 40 + c.prec.toNat * 2 ^ 32 + (c.pw ||| 1).toNat),
   c.fmta, c.fmtb, c.repst, c.wdog, c.thrc, c.trapen, setBits c.cause 5 0 (causeCode .preempt), c.epc, c.tval, c.grp,
   c.dref, 0, c.pendWord,
   (c.pend.late.map (·.2)).getD 0, (c.pend.eng.map (·.2)).getD 0, (c.pend.droop.orElse fun _ => c.pend.tokrevoke).getD 0,
   c.pend.severity.getD 0]
  ++ ((List.range 4).map fun i => ((c.tsv[i]?).map (·.1)).getD 0)
  ++ [BitVec.ofNat 64 (bitmap 4 (fun i => ((c.tsv[i]?).map (·.2)).getD true) * 2 ^ 8 + bitmap 8 (fun i => s.owns w i)),
      BitVec.ofNat 64 (sumOf ((List.range 4).map fun i => ((c.sets[i]?).map (·.2.2)).getD 0 * 2 ^ (8 * i))),
      BitVec.ofNat 64 (key * 2 ^ 32 + coreRet w.core * 2 ^ 16 + coreTile w.core * 2 ^ 8)]
  ++ resendWords c ++ [0, 0]
  ++ ((List.range 8).map fun i => if s.owns w i then (s.stream w.core i).words else [0, 0, 0, 0]).flatten
  ++ s.areaRegs w.core c.base c.lim
  ++ [BitVec.ofNat 64 (bitmap 64 pres), BitVec.ofNat 64 (bitmap 64 fun i => pres (64 + i))]
  ++ List.replicate 62 0
  ++ ((List.range 4).map fun i => match c.sets[i]? with
      | some (_, base, n) => s.areaRegs w.core base n
      | none => List.replicate 128 0).flatten

/-- The listed bits of words 0 to 31 of a save area (R347), with the reserved fields of each register left out. -/
def areaMasks : List Word :=
  [maskBits 63 50 ||| maskBits 47 22, maskBits 63 0, maskBits 42 32 ||| maskBits 21 0,
   maskBits 63 58 ||| maskBits 54 0, maskBits 63 58 ||| maskBits 54 0, maskBits 63 38 ||| maskBits 31 0,
   maskBits 63 48 ||| maskBits 39 0, maskBits 39 0,
   maskBits 21 16 ||| maskBits 11 8 ||| 1, maskBits 15 15 ||| maskBits 13 12 ||| maskBits 10 8 ||| maskBits 5 0,
   maskBits 63 2, maskBits 63 0, maskBits 47 0, drefMask, 0, maskBits 63 50 ||| maskBits 5 0,
   maskBits 63 0, maskBits 63 0, maskBits 63 0, maskBits 63 0, maskBits 63 0, maskBits 63 0, maskBits 63 0, maskBits 63 0,
   maskBits 11 0, maskBits 31 0, maskBits 63 32 ||| maskBits 21 16 ||| maskBits 15 8,
   maskBits 63 60 ||| maskBits 38 32, maskBits 63 0, maskBits 63 0, 0, 0]

/-- An allotment's size is legal (R29, R234). -/
def sizeOk (n : Nat) : Bool := decide (8 ≤ n) && decide (n ≤ 128) && n % 8 == 0

/-- The contents of an area trap TASKERR (R350). -/
def areaBad (c : Ctx) (l : List Word) : Bool :=
  let w (i : Nat) : Word := l.getD i 0
  let nb (i : Nat) : Nat := bits (w 25) (8 * i + 7) (8 * i)
  bits (w 0) 63 56 != 1
    || (areaMasks.zip l).any (fun p => p.2 &&& ~~~p.1 != 0)
    || (List.range 62).any (fun i => w (194 + i) != 0)
    || (List.range 8).any (fun i => bit (w 24) i
        && (bits (w (34 + 4 * i)) 31 0 != 0 || bits (w (35 + 4 * i)) 49 48 != 0 || bits (w (35 + 4 * i)) 31 0 != 0))
    || !sizeOk (bits (w 0) 47 40)
    || [0, 1, 2, 3].any (fun i => nb i != 0 && !sizeOk (nb i))
    || decide (4 < bits (w 27) 62 60)
    || decide (1 < bits (w 0) 53 52) || decide (1 < bits (w 0) 55 54)
    || decide (modeCode c.mode < bits (w 0) 53 52) || decide (modeCode c.mode < bits (w 0) 55 54)
    || bits (w 0) 27 22 != c.part

/-! Reaching the area (R349, R350). -/

/-- Translate both ends of an area, which spans at most two pages, and answer the physical address of each of its 96 lines. -/
def areaLines (s : State) (w : Who) (c : Ctx) (va : Word) (k : AccKind) (go : List Nat → Out) : Out :=
  reached s w c va k fun pa =>
    let second := maskIn (maskBits 63 16) 0 (va + 6143)
    let line (pb : Nat) (i : Nat) : Nat :=
      let off := va.toNat % 2 ^ 16 + 64 * i
      if off < 2 ^ 16 then pa + 64 * i else pb + (off - 2 ^ 16)
    if va.toNat % 2 ^ 16 + 6144 ≤ 2 ^ 16 then go ((List.range 96).map (line pa))
    else reached s w c second k fun pb => go ((List.range 96).map (line pb))

/-- Physical address of word `i` of an area. -/
def areaAt (pas : List Nat) (i : Nat) : Nat := pas.getD (i / 8) 0 + 8 * (i % 8)

/-! CTXSV (R349). -/

/-- The target stops issuing: its park ends, unless it completes by itself; an access of it that waits is cancelled first (R36, R227). -/
def State.beginSave (s : State) (t : Who) (x : Ctx) (id : Nat) : State :=
  if x.run = .saving ∨ x.cancelling.isSome then s
  else if x.cond.isSome then
    (s.modCtx t fun x => { x with cancelling := some (.save id) }).push (.cancel t.core t.slot (.save id))
  else s.stopForSave t

/-- A save is the first of its target: a second one waits for it to finish (R351). -/
def State.ownsSave (s : State) (q : SaveReq) : Bool :=
  !s.pending.any fun e => match e with
    | .saveAreaWrite p => p.core == q.core && p.target == q.target && p.tgen == q.tgen && decide (p.id < q.id)
    | _ => false

/-- A target may be stopped (R349, R377). DEDUCED (log 59): a pair whose undercoat is in a handler is stopped once that has returned, since a
save takes a pair at equal retire counts. -/
def State.stoppable (s : State) (t : Who) (x : Ctx) : Bool :=
  match x.role with
  | .under p => !(x.inh && ((s.ctx? { core := t.core, slot := p }).map fun y => y.busy == some Park.partner).getD false)
  | _ => true

/-- CTXSV (R349): the result comes when every write of the area has performed. -/
def execCtxsv (d a b : Reg) (s : State) : Out :=
  privileged s .s fun w c => needRegs s w c [a, b] (some d) (afterCond s w c (roomIn s w c .ld (outward s w c [a, b] (some d) fun s w c =>
    (let va := s.reg w c a.toNat
     let t := s.target w c (s.reg w c b.toNat)
     if t = .bad then trapNow s w c .taskerr s.irWord
     else if va.toNat % 64 ≠ 0 then trapNow s w c .align va
     else areaLines s w c va .write fun pas =>
       match t with
       | .ctx t x =>
         let id := s.ids
         let o : OutOp := { id := id, cls := .ld, dst := some d.toNat, home := none, both := (s.runningTop w c).isSome }
         let q : SaveReq :=
           { id := id, core := w.core, issuer := w.slot, igen := s.gen w, target := t.slot, tgen := s.gen t, va := va,
             pas := pas, tag := c.tag, left := [], asked := [], bad := false, sent := false }
         let s := ({ s with ids := id + 1 } : State).owe w c d.toNat
         let s := ((s.modCtx w fun c => c.add o).finish w 1 8).push (.saveAreaWrite q)
         .next (if s.ownsSave q && s.stoppable t x then s.beginSave t x id else s)
       | _ => .next ((s.setReg w c d.toNat 1).finish w 1 8)))))

/-- Source of a save's writes: the issuer (R349). -/
def saveSrc (q : SaveReq) (modn : Nat) : Src := { modn := modn, core := q.core, slot := q.issuer, gen := q.igen }

/-- The result of a save reaches its issuer. -/
def State.saveResult (s : State) (q : SaveReq) (v : Word) : State := s.settle (saveSrc q s.modn) q.id v .ok 0

/-- The issuer of a save, while it is there. -/
def State.saver? (s : State) (q : SaveReq) : Option Ctx :=
  let w : Who := { core := q.core, slot := q.issuer }
  if s.gen w = q.igen then s.ctx? w else none

/-- Replace a save under way. -/
def State.putSave (s : State) (q : SaveReq) : State :=
  { s with pending := s.pending.map fun (e : Ev) => match e with
      | .saveAreaWrite p => if p.id = q.id then .saveAreaWrite q else e
      | _ => e }
/-- A save under way, by its number. -/
def State.save? (s : State) (id : Nat) : Option SaveReq :=
  s.pending.findSome? fun e => match e with
    | .saveAreaWrite q => if q.id = id then some q else none
    | _ => none

/-- Send the writes of an area as plain stores of the issuer, while its ctr.ST has room (R206, R220, R349). -/
def State.sendSave (id : Nat) : Nat → State → State
  | 0, s => s
  | n + 1, s =>
    match s.save? id with
    | none => s
    | some q => match q.left, s.saver? q with
      | p :: rest, some c =>
        if 15 ≤ c.count .st then s
        else
          let w : Who := { core := q.core, slot := q.issuer }
          let k := s.ids
          let pa := areaAt q.pas p.1
          let a : Access :=
            { id := k, src := saveSrc q s.modn, tag := q.tag, op := .store 3, va := q.va + BitVec.ofNat 64 (8 * p.1), pa := pa, data := p.2,
              cmp := 0, dst := .save id, attempt := 0 }
          let s := ({ s with ids := k + 1 } : State).count w a.op k pa none
          State.sendSave id n ((s.putSave { q with left := rest, asked := q.asked ++ [k] }).send a)
      | _, _ => s

/-- The save is done (R349): memberships and the conflict-batching unit stay under the save key, streams and borrowed sets go, the slots
are freed. -/
def State.endSave (s : State) (t : Who) (x : Ctx) (key : Nat) : State :=
  let g := s.gen t
  let s := s.modCore t.core fun k => { k with
    sseq := key
    members := k.members.map fun m => if m.slot == t.slot && m.saved.isNone then { m with saved := some key } else m
    cbu := if k.cbu.owner = some (t.slot, g) ∧ k.cbu.savedBy = none then { k.cbu with savedBy := some key } else k.cbu }
  let s := ((s.releaseStreams t).releaseSets t).vacate t
  match x.partner with
  | none => s
  | some p => s.vacate { core := t.core, slot := p }

/-- Every write of the area has been answered: a failure lets the target go on, else it is gone. -/
def State.saveEnd (s : State) (q : SaveReq) (t : Who) (x : Ctx) : State :=
  if q.bad ∨ (s.saver? q).isNone then
    ((s.modCtx t fun x => { x with run := .ready, spacing := Nat.max x.spacing (s.now t.core + 1) }).resume t).saveResult q 3
  else
    let key := ((s.core t.core).sseq + 1) % 2 ^ 32
    (s.endSave t x key).saveResult q (BitVec.ofNat 64 (key * 2 ^ 32))

/-- A pair that is to be saved differs (R53, R349). -/
def State.pairDiffers (s : State) (t : Who) (x : Ctx) : Bool :=
  match x.role with
  | .under p => (match s.ctx? { core := t.core, slot := p } with
    | some y => !s.pairAgrees t { core := t.core, slot := p } x y
    | none => false)
  | _ => false

/-- The members of a pair stand at equal retire counts with the load-value queue empty; a single context always does (R349). -/
def State.pairEven (s : State) (t : Who) (x : Ctx) : Bool :=
  match x.role with
  | .under p => x.lvq.isEmpty && ((s.ctx? { core := t.core, slot := p }).map fun y => y.retired == x.retired).getD true
  | _ => true

/-- A target stands still, so that its state can be written (R45, R349). -/
def State.savable (s : State) (t : Who) (x : Ctx) : Bool := x.run == .saving && x.drained && x.busy.isNone && s.pairEven t x

/-- A save may go on: its target has gone, or stopped, or is to be stopped, or its writes have been answered or have room to be sent. DESIGN CHOICE
(log 59): one whose issuer has been killed ends as a failed one. -/
def State.saveReady (s : State) (q : SaveReq) : Bool :=
  let t : Who := { core := q.core, slot := q.target }
  match s.ctx? t with
  | none => true
  | some x =>
    if s.gen t ≠ q.tgen then true
    else if !s.ownsSave q then false
    else match s.saver? q with
      | none => true
      | some c =>
        if q.sent then (if q.left.isEmpty then q.asked.isEmpty else decide (c.count .st < 15))
        else if x.run = .saving then s.savable t x
        else x.cancelling.isNone && s.stoppable t x

/-- A register of the target is lost as it is saved (R367): the target takes UEREG where it stands, and the save has failed. -/
def State.spoiledSave (s : State) (q : SaveReq) (t : Who) (v : Word) : State :=
  if s.gen t ≠ q.tgen then s.saveResult q 1
  else
    let go (x : Ctx) : Ctx :=
      { x with run := .ready, spacing := Nat.max x.spacing (s.now t.core + 1),
               heldTrap := some { epc := x.pc, tval := v, kind := .sync, cause := .uereg } }
    ((s.modCtx t go).resume t).saveResult q 3

/-- SAVE_AREA_WRITE (R349). -/
def execSaveAreaWrite (s : State) : Out :=
  match s.ev with
  | some (.saveAreaWrite q) =>
    let t : Who := { core := q.core, slot := q.target }
    .next (match s.ctx? t with
      | none => s.saveResult q 1
      | some x =>
        if s.gen t ≠ q.tgen then s.saveResult q 1
        else if (s.saver? q).isNone then (if x.run = .saving then s.saveEnd q t x else s)
        else if q.sent then
          (if q.left.isEmpty && q.asked.isEmpty then s.saveEnd q t x
           else State.sendSave q.id areaWords (s.push (.saveAreaWrite q)))
        else if x.run ≠ .saving then (s.beginSave t x q.id).push (.saveAreaWrite q)
        else if !s.savable t x then s.push (.saveAreaWrite q)
        else if s.pairDiffers t x then
          let s := (s.modCtx t fun x => { x with run := .ready })
          (match s.ctx? t with
            | some x => (match mismatch s t x.pc 3 with
              | .next s => s.saveResult q 2
              | _ => s)
            | none => s)
        else
          let f := State.checkRegs t x ((List.range x.lim).drop 1) s
          match f.2 with
          | some v => f.1.spoiledSave q t v
          | none =>
            let s := f.1
            let words := s.areaOf t x (((s.core t.core).sseq + 1) % 2 ^ 32)
            let q : SaveReq := { q with sent := true, left := (List.range areaWords).zip words }
            State.sendSave q.id areaWords (s.push (.saveAreaWrite q)))
  | _ => .next s

/-! CTXLD (R350). -/

/-- Word `i` of an area. -/
def aw (l : List Word) (i : Nat) : Word := l.getD i 0

/-- The area names this core as the saving core. -/
def areaHere (core : Nat) (l : List Word) : Bool :=
  bits (aw l 26) 21 16 == coreRet core && bits (aw l 26) 15 8 == coreTile core

/-- Borrowed sets of an area that are in use. -/
def areaSets (l : List Word) : List (Nat × Nat) :=
  ((List.range 4).map fun i => (i, bits (aw l 25) (8 * i + 7) (8 * i))).filter fun p => p.2 != 0

/-- A late trap of CTXLD (R350) with its tval. -/
def State.areaTrap (s : State) (w : Who) (c : Ctx) (va : Word) (l : List Word) : Option (Cause × Word) :=
  if areaBad c l then some (.taskerr, va)
  else if aw l 12 != 0 && !areaHere w.core l then some (.grouperr, s.irWord)
  else if bit (aw l 0) 50 && !areaHere w.core l then some (.cberr, s.irWord)
  else if (List.range 8).any fun i => bit (aw l 24) i && (s.stream w.core i).isOpen then some (.streamerr, s.irWord)
  else none

/-- Write registers of an allotment from 128 words of an area, with their presence bits. -/
def State.loadEntries (s : State) (core base n : Nat) (ws : List Word) (pres : Nat → Bool) : State :=
  s.modCore core fun k => { k with file := (List.range n).foldl (fun f i =>
    let e : RegEntry :=
      { val := ws.getD i 0, pres := if pres i then .present else .armed, bad := false }
    mset RegEntry.stripped (base + i) e f) k.file }

/-- Pending traps of an area (R347). The tvals of STEPTRAP is not kept: it is free; that of RESUME is counted by the basin (R343). -/
def State.areaPend (s : State) (core : Nat) (l : List Word) : Pend :=
  let v := aw l 15
  let cz (n : Nat) : Cause := Cause.ofNat n
  { dbg := none
    late := if bit v 63 then some (cz (bits v 55 50), aw l 16) else none
    eng := if bit v 62 then some (cz (bits v 61 56), aw l 17) else none
    watchdog := if bit v 0 then some (aw l 6) else none
    severity := if bit v 1 then some (aw l 19) else none
    step := if bit v 2 then some (Config.freeWord s.picks) else none
    resume := if bit v 3 then some (BitVec.ofNat 64 (bits (s.rcb (coreRet core) 0x0F08) 63 32)) else none
    droop := if bit v 4 then some (aw l 18) else none
    tokrevoke := if bit v 5 then some (aw l 18) else none }

/-- The access to be sent again that an area records (R227, R347). -/
def State.areaResend (s : State) (src : Src) (c : Ctx) (l : List Word) : Option Access :=
  let v := aw l 27
  if !bit v 63 then none
  else
    let op : MemOp := match bits v 62 60 with
      | 0 => .ldfe
      | 1 => .ldff
      | 2 => .stef
      | 3 => .qpop
      | _ => .drwait
    some { id := s.ids, src := src, tag := c.tag, op := op, va := aw l 28, pa := 0, data := aw l 29, cmp := 0,
           dst := if op = .stef then .notice else .reg (bits v 38 32), attempt := 0 }

/-- The context an area describes (R350). One that had returned into a frame out of its bounds, and had not issued since, takes REPFNEST (R300, R351). -/
def areaCtx (l : List Word) (base : Nat) : Ctx :=
  let v := aw l 0
  { Ctx.fresh .resident (modeOf (bits v 53 52)) (bits v 27 22) (bits v 39 28) base (bits v 47 40) (maskIn (maskBits 63 2) 0 (aw l 1)) with
    mode := modeOf (bits v 55 54)
    pw := BitVec.ofNat 32 (bits (aw l 2) 31 0) ||| 1
    prec := BitVec.ofNat 8 (bits (aw l 2) 39 32)
    ecls := BitVec.ofNat 3 (bits (aw l 2) 42 40)
    fmta := aw l 3, fmtb := aw l 4, repst := aw l 5, wdog := aw l 6, thrc := aw l 7, trapen := aw l 8
    cause := aw l 9, epc := aw l 10, tval := aw l 11, grp := aw l 12, dref := aw l 13
    tsv := (List.range 4).map fun i => (aw l (20 + i), bit (aw l 24) (8 + i))
    frameBad := bit (aw l 5) 63 && bit (aw l 5) 62 && !bit (aw l 9) 15 && badFrame (aw l 5) }

/-- Borrow one of the sets of an area again (R234, R350). -/
def State.loadSet (t : Who) (l : List Word) (s : Option State) (p : Nat × Nat) : Option State :=
  match s with
  | none => none
  | some s =>
    match (s.core t.core).place t.core p.2 with
    | none => none
    | some (sl, base) =>
      let s := s.modCore t.core fun k => { k with withheld := k.withheld ++ [{ slot := sl, base := base, lim := p.2 }] }
      let s := s.loadEntries t.core base p.2 ((l.drop (256 + 128 * p.1)).take 128) fun _ => true
      some (s.modCtx t fun x => { x with sets := x.sets ++ [(sl, base, p.2)] })

/-- Streams of an area, under their new owner. -/
def State.loadStreams (s : State) (t : Who) (l : List Word) : State :=
  (upTo 8 fun i => bit (aw l 24) i).foldl (fun s i =>
    let w (j : Nat) : Word := aw l (32 + 4 * i + j)
    let x : Stream :=
      { va := w 0, len := bits (w 1) 63 32, pos := bits (w 1) 31 0, cnt := bits (w 2) 63 32, isOpen := bit (w 3) 63,
        rs := bit (w 3) 62, fmt := bits (w 3) 61 56, slot := t.slot, gen := s.gen t }
    s.setStream t.core i x) s

/-- Memberships and the conflict-batching unit that wait under a save key come back (R347, R350). -/
def State.reattach (s : State) (t : Who) (l : List Word) : State :=
  if !areaHere t.core l then s
  else
    let key := bits (aw l 26) 63 32
    let g := s.gen t
    s.modCore t.core fun k => { k with
      members := k.members.map fun m => if m.saved = some key then { m with slot := t.slot, saved := none } else m
      cbu := if bit (aw l 0) 50 ∧ k.cbu.savedBy = some key then { k.cbu with owner := some (t.slot, g), savedBy := none } else k.cbu }

/-- The context of an area is created in a slot and a run of entries; none where its borrowed sets cannot be had (R350). -/
def State.loadArea (s : State) (core sl base : Nat) (top : Option (Nat × Nat)) (l : List Word) : Option State :=
  let t : Who := { core := core, slot := sl }
  let c := areaCtx l base
  let pres (i : Nat) : Bool := bit (aw l (192 + i / 64)) (i % 64)
  let rs := s.areaResend (s.src t) c l
  let stef := decide (rs.map (·.op) = some .stef)
  let c := { c with
    pend := s.areaPend core l
    resend := rs
    issuedW := if stef then 1 else 0
    spacing := s.now core + 1 }
  let s : State := { s with ids := s.ids + 1, picks := s.picks + 1 }
  let s := (s.setCtx t c).loadEntries core base c.lim ((l.drop 64).take 128) fun i => i == 0 || pres i
  let s := match top with
    | some (tsl, tbase) => s.addTop t tsl tbase
    | none => s
  ((areaSets l).foldl (State.loadSet t l) (some s)).map fun s => (s.loadStreams t l).reattach t l

/-- The slots that the context of an area takes: one, or two for a pair (R350); none on a reticle with PVAL = 0, which runs no such context (R323; DEDUCED,
log 61). -/
def State.areaPlace (s : State) (core : Nat) (l : List Word) : Option (Nat × Nat × Option (Nat × Nat)) :=
  let n := bits (aw l 0) 47 40
  if (s.core core).ringCount ≠ 0 ∨ s.pval (coreRet core) = false then none
  else match (s.core core).place core n with
    | none => none
    | some (sl, base) =>
      if !bit (aw l 0) 51 then some (sl, base, none)
      else
        let k := s.core core
        match (Core.place { k with withheld := k.withheld ++ [{ slot := sl, base := base, lim := n }] } core n) with
        | none => none
        | some t => some (sl, base, some t)

/-- CTXLD (R350): the area is read as plain loads, and the context then created. -/
def execCtxld (d a : Reg) (s : State) : Out :=
  privileged s .s fun w c => needRegs s w c [a] (some d) (afterCond s w c (asRelease s w c (lockstep s w c [a] (some d) fun s w c =>
    (let va := s.reg w c a.toNat
     if va.toNat % 64 ≠ 0 then trapNow s w c .align va
     else areaLines s w c va .read fun pas =>
       gathered s w c ((List.range areaWords).map fun i => (va + BitVec.ofNat 64 (8 * i), areaAt pas i)) fun s l =>
         let done (v : Word) (s : State) : Out := .next ((s.setReg w c d.toNat v).finish w 1 8)
         match s.areaTrap w c va l with
         | some (cz, t) => lateNow s w cz t
         | none =>
           match s.areaPlace w.core l with
           | none => done onesW s
           | some (sl, base, top) =>
             match s.loadArea w.core sl base top l with
             | none => done (onesW - 1) s
             | some s' => done (s'.handle { core := w.core, slot := sl }) s'))))

end Sys2Proof.Machine
end

