-- ==== Sys2Proof/Machine/Dispatch.lean ====
section
/-! DEFINITION. One arm for each constructor of `Instr`: a direct call of its meaning. -/
namespace Sys2Proof.Machine

/-- What an instruction or an event does to a state. -/
def exec (i : Instr) (s : State) : Host.Outcome State Fault Refusal :=
  match i with
  | .add d a b => Sys2Proof.Machine.execAdd d a b s
  | .sub d a b => Sys2Proof.Machine.execSub d a b s
  | .and d a b => Sys2Proof.Machine.execAnd d a b s
  | .or d a b => Sys2Proof.Machine.execOr d a b s
  | .xor d a b => Sys2Proof.Machine.execXor d a b s
  | .andn d a b => Sys2Proof.Machine.execAndn d a b s
  | .shl d a b => Sys2Proof.Machine.execShl d a b s
  | .shr d a b => Sys2Proof.Machine.execShr d a b s
  | .sar d a b => Sys2Proof.Machine.execSar d a b s
  | .rol d a b => Sys2Proof.Machine.execRol d a b s
  | .min d a b => Sys2Proof.Machine.execMin d a b s
  | .max d a b => Sys2Proof.Machine.execMax d a b s
  | .minn d a b => Sys2Proof.Machine.execMinn d a b s
  | .maxn d a b => Sys2Proof.Machine.execMaxn d a b s
  | .adds d a b => Sys2Proof.Machine.execAdds d a b s
  | .subs d a b => Sys2Proof.Machine.execSubs d a b s
  | .mul d a b => Sys2Proof.Machine.execMul d a b s
  | .mulh d a b => Sys2Proof.Machine.execMulh d a b s
  | .mulhn d a b => Sys2Proof.Machine.execMulhn d a b s
  | .div d a b => Sys2Proof.Machine.execDiv d a b s
  | .divn d a b => Sys2Proof.Machine.execDivn d a b s
  | .rem d a b => Sys2Proof.Machine.execRem d a b s
  | .remn d a b => Sys2Proof.Machine.execRemn d a b s
  | .clz d a => Sys2Proof.Machine.execClz d a s
  | .ctz d a => Sys2Proof.Machine.execCtz d a s
  | .popc d a => Sys2Proof.Machine.execPopc d a s
  | .brev d a => Sys2Proof.Machine.execBrev d a s
  | .bswap d a => Sys2Proof.Machine.execBswap d a s
  | .bfx d a b => Sys2Proof.Machine.execBfx d a b s
  | .bfxn d a b => Sys2Proof.Machine.execBfxn d a b s
  | .bfi d a b => Sys2Proof.Machine.execBfi d a b s
  | .addi d a imm => Sys2Proof.Machine.execAddi d a imm s
  | .andi d a imm => Sys2Proof.Machine.execAndi d a imm s
  | .ori d a imm => Sys2Proof.Machine.execOri d a imm s
  | .xori d a imm => Sys2Proof.Machine.execXori d a imm s
  | .shli d a sh => Sys2Proof.Machine.execShli d a sh s
  | .shri d a sh => Sys2Proof.Machine.execShri d a sh s
  | .sari d a sh => Sys2Proof.Machine.execSari d a sh s
  | .roli d a sh => Sys2Proof.Machine.execRoli d a sh s
  | .cmp c p a b => Sys2Proof.Machine.execCmp c p a b s
  | .cmpi c p a imm => Sys2Proof.Machine.execCmpi c p a imm s
  | .lui d imm => Sys2Proof.Machine.execLui d imm s
  | .addpc d imm => Sys2Proof.Machine.execAddpc d imm s
  | .sel d a b sn p => Sys2Proof.Machine.execSel d a b sn p s
  | .plog d a b f => Sys2Proof.Machine.execPlog d a b f s
  | .crd d n => Sys2Proof.Machine.execCrd d n s
  | .cwr a n => Sys2Proof.Machine.execCwr a n s
  | .fadd d a b rm => Sys2Proof.Machine.execFadd d a b rm s
  | .fsub d a b rm => Sys2Proof.Machine.execFsub d a b rm s
  | .fmul d a b rm => Sys2Proof.Machine.execFmul d a b rm s
  | .ffma d a b rm => Sys2Proof.Machine.execFfma d a b rm s
  | .fmin d a b => Sys2Proof.Machine.execFmin d a b s
  | .fmax d a b => Sys2Proof.Machine.execFmax d a b s
  | .fsgn d a b => Sys2Proof.Machine.execFsgn d a b s
  | .fabs d a => Sys2Proof.Machine.execFabs d a s
  | .fneg d a => Sys2Proof.Machine.execFneg d a s
  | .fdiv d a b rm => Sys2Proof.Machine.execFdiv d a b rm s
  | .fsqrt d a rm => Sys2Proof.Machine.execFsqrt d a rm s
  | .frcp d a rm => Sys2Proof.Machine.execFrcp d a rm s
  | .frsq d a rm => Sys2Proof.Machine.execFrsq d a rm s
  | .fexp2 d a rm => Sys2Proof.Machine.execFexp2 d a rm s
  | .flog2 d a rm => Sys2Proof.Machine.execFlog2 d a rm s
  | .fclass d a => Sys2Proof.Machine.execFclass d a s
  | .fcmp c p a b => Sys2Proof.Machine.execFcmp c p a b s
  | .fcvt d a t f rm => Sys2Proof.Machine.execFcvt d a t f rm s
  | .br p sn o => Sys2Proof.Machine.execBr p sn o s
  | .call d imm => Sys2Proof.Machine.execCall d imm s
  | .jr d a imm => Sys2Proof.Machine.execJr d a imm s
  | .repfConstant n sn m c => Sys2Proof.Machine.execRepfConstant n sn m c s
  | .repfRegister n sn m a => Sys2Proof.Machine.execRepfRegister n sn m a s
  | .nop => Sys2Proof.Machine.execNop s
  | .yield => Sys2Proof.Machine.execYield s
  | .exit => Sys2Proof.Machine.execExit s
  | .tstart d a b => Sys2Proof.Machine.execTstart d a b s
  | .tstop a => Sys2Proof.Machine.execTstop a s
  | .ld d a sn e o => Sys2Proof.Machine.execLd d a sn e o s
  | .st d a sn o => Sys2Proof.Machine.execSt d a sn o s
  | .ldfe d a o => Sys2Proof.Machine.execLdfe d a o s
  | .ldff d a o => Sys2Proof.Machine.execLdff d a o s
  | .stef d a o => Sys2Proof.Machine.execStef d a o s
  | .stff d a o => Sys2Proof.Machine.execStff d a o s
  | .stfe d a o => Sys2Proof.Machine.execStfe d a o s
  | .feget d a o => Sys2Proof.Machine.execFeget d a o s
  | .feset d a o => Sys2Proof.Machine.execFeset d a o s
  | .amoF d a b o => Sys2Proof.Machine.execAmoF d a b o s
  | .amoCasF d a b => Sys2Proof.Machine.execAmoCasF d a b s
  | .amo a b o => Sys2Proof.Machine.execAmo a b o s
  | .red a b o => Sys2Proof.Machine.execRed a b o s
  | .fenceT => Sys2Proof.Machine.execFenceT s
  | .fenceW => Sys2Proof.Machine.execFenceW s
  | .fenceS => Sys2Proof.Machine.execFenceS s
  | .waitc m c sn l => Sys2Proof.Machine.execWaitc m c sn l s
  | .migrate a => Sys2Proof.Machine.execMigrate a s
  | .icinv a b => Sys2Proof.Machine.execIcinv a b s
  | .xmov d a b => Sys2Proof.Machine.execXmov d a b s
  | .borrow d a => Sys2Proof.Machine.execBorrow d a s
  | .retn a => Sys2Proof.Machine.execRetn a s
  | .nwr n a k => Sys2Proof.Machine.execNwr n a k s
  | .narm d => Sys2Proof.Machine.execNarm d s
  | .npres d a => Sys2Proof.Machine.execNpres d a s
  | .vadd d a b => Sys2Proof.Machine.execVadd d a b s
  | .vsub d a b => Sys2Proof.Machine.execVsub d a b s
  | .vmul d a b => Sys2Proof.Machine.execVmul d a b s
  | .vfma d a b => Sys2Proof.Machine.execVfma d a b s
  | .vmin d a b => Sys2Proof.Machine.execVmin d a b s
  | .vmax d a b => Sys2Proof.Machine.execVmax d a b s
  | .vand d a b => Sys2Proof.Machine.execVand d a b s
  | .vor d a b => Sys2Proof.Machine.execVor d a b s
  | .vxor d a b => Sys2Proof.Machine.execVxor d a b s
  | .vshl d a b => Sys2Proof.Machine.execVshl d a b s
  | .vcmp d a b => Sys2Proof.Machine.execVcmp d a b s
  | .vsel d a b => Sys2Proof.Machine.execVsel d a b s
  | .vcvt d a => Sys2Proof.Machine.execVcvt d a s
  | .vexp d a => Sys2Proof.Machine.execVexp d a s
  | .vrcp d a => Sys2Proof.Machine.execVrcp d a s
  | .vrsq d a => Sys2Proof.Machine.execVrsq d a s
  | .vabs d a => Sys2Proof.Machine.execVabs d a s
  | .vneg d a => Sys2Proof.Machine.execVneg d a s
  | .vmov d a => Sys2Proof.Machine.execVmov d a s
  | .vsoft d a => Sys2Proof.Machine.execVsoft d a s
  | .vfill d a => Sys2Proof.Machine.execVfill d a s
  | .vmask d a b => Sys2Proof.Machine.execVmask d a b s
  | .vsum d a => Sys2Proof.Machine.execVsum d a s
  | .vmaxr d a => Sys2Proof.Machine.execVmaxr d a s
  | .vminr d a => Sys2Proof.Machine.execVminr d a s
  | .vscan d a => Sys2Proof.Machine.execVscan d a s
  | .vgath d a b => Sys2Proof.Machine.execVgath d a b s
  | .vscat d a b => Sys2Proof.Machine.execVscat d a b s
  | .mxa d a b w => Sys2Proof.Machine.execMxa d a b w s
  | .mxag d a b w => Sys2Proof.Machine.execMxag d a b w s
  | .mxsp d a b w => Sys2Proof.Machine.execMxsp d a b w s
  | .ezero d => Sys2Proof.Machine.execEzero d s
  | .eacc d a => Sys2Proof.Machine.execEacc d a s
  | .edrn d a b => Sys2Proof.Machine.execEdrn d a b s
  | .eread d a b => Sys2Proof.Machine.execEread d a b s
  | .bppack d a b => Sys2Proof.Machine.execBppack d a b s
  | .bpunpk d a => Sys2Proof.Machine.execBpunpk d a s
  | .bscl d a b => Sys2Proof.Machine.execBscl d a b s
  | .ssopen sn a => Sys2Proof.Machine.execSsopen sn a s
  | .ssclose sn => Sys2Proof.Machine.execSsclose sn s
  | .ssnext d sn => Sys2Proof.Machine.execSsnext d sn s
  | .sspos d sn => Sys2Proof.Machine.execSspos d sn s
  | .sisect d sn t => Sys2Proof.Machine.execSisect d sn t s
  | .simerge d sn t => Sys2Proof.Machine.execSimerge d sn t s
  | .cbcfg a => Sys2Proof.Machine.execCbcfg a s
  | .cbpush d a => Sys2Proof.Machine.execCbpush d a s
  | .cbpop d a => Sys2Proof.Machine.execCbpop d a s
  | .cbflush => Sys2Proof.Machine.execCbflush s
  | .cbstat d => Sys2Proof.Machine.execCbstat d s
  | .cpy d a => Sys2Proof.Machine.execCpy d a s
  | .cpwp d a => Sys2Proof.Machine.execCpwp d a s
  | .cpcast d a b => Sys2Proof.Machine.execCpcast d a b s
  | .gjoin g => Sys2Proof.Machine.execGjoin g s
  | .gleave g => Sys2Proof.Machine.execGleave g s
  | .barr g => Sys2Proof.Machine.execBarr g s
  | .bwait g => Sys2Proof.Machine.execBwait g s
  | .barw g => Sys2Proof.Machine.execBarw g s
  | .bwaitt d g b => Sys2Proof.Machine.execBwaitt d g b s
  | .spawn d a => Sys2Proof.Machine.execSpawn d a s
  | .qpush d a b => Sys2Proof.Machine.execQpush d a b s
  | .qpop d a => Sys2Proof.Machine.execQpop d a s
  | .drinc a b => Sys2Proof.Machine.execDrinc a b s
  | .drdec a b => Sys2Proof.Machine.execDrdec a b s
  | .drwait d a => Sys2Proof.Machine.execDrwait d a s
  | .tkreq d a => Sys2Proof.Machine.execTkreq d a s
  | .tkrel a => Sys2Proof.Machine.execTkrel a s
  | .tklend d a b => Sys2Proof.Machine.execTklend d a b s
  | .tkqry d => Sys2Proof.Machine.execTkqry d s
  | .ecls a => Sys2Proof.Machine.execEcls a s
  | .rdnon d => Sys2Proof.Machine.execRdnon d s
  | .rdnoff => Sys2Proof.Machine.execRdnoff s
  | .rdnchk d => Sys2Proof.Machine.execRdnchk d s
  | .trap c => Sys2Proof.Machine.execTrap c s
  | .hcall c => Sys2Proof.Machine.execHcall c s
  | .eret => Sys2Proof.Machine.execEret s
  | .ctxsv d a b => Sys2Proof.Machine.execCtxsv d a b s
  | .ctxld d a => Sys2Proof.Machine.execCtxld d a s
  | .tlbi a b => Sys2Proof.Machine.execTlbi a b s
  | .prd d a => Sys2Proof.Machine.execPrd d a s
  | .pwr a b => Sys2Proof.Machine.execPwr a b s
  | .strip a => Sys2Proof.Machine.execStrip a s
  | .freeze a b => Sys2Proof.Machine.execFreeze a b s
  | .sevset a b => Sys2Proof.Machine.execSevset a b s
  | .ldi d imm => Sys2Proof.Machine.execLdi d imm s
  | .ldiN d imm => Sys2Proof.Machine.execLdiN d imm s
  | .issueSpacingEnd => Sys2Proof.Machine.execIssueSpacingEnd s
  | .contextWake => Sys2Proof.Machine.execContextWake s
  | .takeTrap => Sys2Proof.Machine.execTakeTrap s
  | .stripDone => Sys2Proof.Machine.execStripDone s
  | .migrantDeparture => Sys2Proof.Machine.execMigrantDeparture s
  | .migrantArrival => Sys2Proof.Machine.execMigrantArrival s
  | .overflowRefill => Sys2Proof.Machine.execOverflowRefill s
  | .loadRequest => Sys2Proof.Machine.execLoadRequest s
  | .activeMessage => Sys2Proof.Machine.execActiveMessage s
  | .remoteUpdateMigrant => Sys2Proof.Machine.execRemoteUpdateMigrant s
  | .conditionalAttempt => Sys2Proof.Machine.execConditionalAttempt s
  | .attemptResend => Sys2Proof.Machine.execAttemptResend s
  | .waitListPark => Sys2Proof.Machine.execWaitListPark s
  | .parkRequestRetry => Sys2Proof.Machine.execParkRequestRetry s
  | .waitListServe => Sys2Proof.Machine.execWaitListServe s
  | .cancel => Sys2Proof.Machine.execCancel s
  | .cancelAnswer => Sys2Proof.Machine.execCancelAnswer s
  | .loadReply => Sys2Proof.Machine.execLoadReply s
  | .performedNotice => Sys2Proof.Machine.execPerformedNotice s
  | .memoryTimeout => Sys2Proof.Machine.execMemoryTimeout s
  | .combineJoin => Sys2Proof.Machine.execCombineJoin s
  | .combineClose => Sys2Proof.Machine.execCombineClose s
  | .combineReply => Sys2Proof.Machine.execCombineReply s
  | .walkComplete => Sys2Proof.Machine.execWalkComplete s
  | .tlbRemoval => Sys2Proof.Machine.execTlbRemoval s
  | .tlbiAck => Sys2Proof.Machine.execTlbiAck s
  | .icacheInvalidation => Sys2Proof.Machine.execIcacheInvalidation s
  | .icinvAck => Sys2Proof.Machine.execIcinvAck s
  | .neighbourWrite => Sys2Proof.Machine.execNeighbourWrite s
  | .neighbourWriteLand => Sys2Proof.Machine.execNeighbourWriteLand s
  | .nwrAck => Sys2Proof.Machine.execNwrAck s
  | .hcallRequest => Sys2Proof.Machine.execHcallRequest s
  | .hcallReply => Sys2Proof.Machine.execHcallReply s
  | .saveAreaWrite => Sys2Proof.Machine.execSaveAreaWrite s
  | .engineCommandComplete => Sys2Proof.Machine.execEngineCommandComplete s
  | .denseSubstep => Sys2Proof.Machine.execDenseSubstep s
  | .copySourceReply => Sys2Proof.Machine.execCopySourceReply s
  | .copyWritePerformed => Sys2Proof.Machine.execCopyWritePerformed s
  | .stampQuery => Sys2Proof.Machine.execStampQuery s
  | .stampSatisfied => Sys2Proof.Machine.execStampSatisfied s
  | .drainUp => Sys2Proof.Machine.execDrainUp s
  | .drainAck => Sys2Proof.Machine.execDrainAck s
  | .drainDown => Sys2Proof.Machine.execDrainDown s
  | .counterEntryUe => Sys2Proof.Machine.execCounterEntryUe s
  | .launchRecord => Sys2Proof.Machine.execLaunchRecord s
  | .gangPlace => Sys2Proof.Machine.execGangPlace s
  | .gangRelease => Sys2Proof.Machine.execGangRelease s
  | .releaseReceived => Sys2Proof.Machine.execReleaseReceived s
  | .grantRound => Sys2Proof.Machine.execGrantRound s
  | .noticeExpiry => Sys2Proof.Machine.execNoticeExpiry s
  | .droopAlarm => Sys2Proof.Machine.execDroopAlarm s
  | .thermalReport => Sys2Proof.Machine.execThermalReport s
  | .loanOffer => Sys2Proof.Machine.execLoanOffer s
  | .loanRecall => Sys2Proof.Machine.execLoanRecall s
  | .loanReturn => Sys2Proof.Machine.execLoanReturn s
  | .watchdogExpiry => Sys2Proof.Machine.execWatchdogExpiry s
  | .barrierArrival => Sys2Proof.Machine.execBarrierArrival s
  | .barrierVerdict => Sys2Proof.Machine.execBarrierVerdict s
  | .bwaittTimeout => Sys2Proof.Machine.execBwaittTimeout s
  | .barrierAbortRequest => Sys2Proof.Machine.execBarrierAbortRequest s
  | .barrierRegistration => Sys2Proof.Machine.execBarrierRegistration s
  | .barrierWithdrawal => Sys2Proof.Machine.execBarrierWithdrawal s
  | .registrationReply => Sys2Proof.Machine.execRegistrationReply s
  | .barrierConfigWrite => Sys2Proof.Machine.execBarrierConfigWrite s
  | .interleaveWrite => Sys2Proof.Machine.execInterleaveWrite s
  | .poolWrite => Sys2Proof.Machine.execPoolWrite s
  | .mailboxWrite => Sys2Proof.Machine.execMailboxWrite s
  | .budgetWrite => Sys2Proof.Machine.execBudgetWrite s
  | .partitionWrite => Sys2Proof.Machine.execPartitionWrite s
  | .partitionScrubDone => Sys2Proof.Machine.execPartitionScrubDone s
  | .hostirqPost => Sys2Proof.Machine.execHostirqPost s
  | .tierMigrationGo => Sys2Proof.Machine.execTierMigrationGo s
  | .bankSparingGo => Sys2Proof.Machine.execBankSparingGo s
  | .skimRetire => Sys2Proof.Machine.execSkimRetire s
  | .skimCopyStep => Sys2Proof.Machine.execSkimCopyStep s
  | .spareCopyStep => Sys2Proof.Machine.execSpareCopyStep s
  | .hotpgRead => Sys2Proof.Machine.execHotpgRead s
  | .refusalLogRead => Sys2Proof.Machine.execRefusalLogRead s
  | .brokerCountRead => Sys2Proof.Machine.execBrokerCountRead s
  | .errorLogCountRead => Sys2Proof.Machine.execErrorLogCountRead s
  | .lnkfRead => Sys2Proof.Machine.execLnkfRead s
  | .linkCountRead => Sys2Proof.Machine.execLinkCountRead s
  | .attestGo => Sys2Proof.Machine.execAttestGo s
  | .attestDone => Sys2Proof.Machine.execAttestDone s
  | .registerWrite => Sys2Proof.Machine.execRegisterWrite s
  | .sramScrubRead => Sys2Proof.Machine.execSramScrubRead s
  | .dramScrubRead => Sys2Proof.Machine.execDramScrubRead s
  | .meshFlitRetry => Sys2Proof.Machine.execMeshFlitRetry s
  | .powerUp => Sys2Proof.Machine.execPowerUp s
  | .bistComplete => Sys2Proof.Machine.execBistComplete s
  | .passTrainingEnd => Sys2Proof.Machine.execPassTrainingEnd s
  | .electionKey => Sys2Proof.Machine.execElectionKey s
  | .electionSettled => Sys2Proof.Machine.execElectionSettled s
  | .electionRestart => Sys2Proof.Machine.execElectionRestart s
  | .gatherReport => Sys2Proof.Machine.execGatherReport s
  | .gatherTimeout => Sys2Proof.Machine.execGatherTimeout s
  | .islandPlacement => Sys2Proof.Machine.execIslandPlacement s
  | .summaryCompare => Sys2Proof.Machine.execSummaryCompare s
  | .coordinates => Sys2Proof.Machine.execCoordinates s
  | .powerFail => Sys2Proof.Machine.execPowerFail s
  | .lowlandGo => Sys2Proof.Machine.execLowlandGo s
  | .lowlandSignal => Sys2Proof.Machine.execLowlandSignal s
  | .lowlandRetain => Sys2Proof.Machine.execLowlandRetain s
  | .powerGood => Sys2Proof.Machine.execPowerGood s
  | .wake => Sys2Proof.Machine.execWake s
  | .shelfWake => Sys2Proof.Machine.execShelfWake s
  | .passRetrainDone => Sys2Proof.Machine.execPassRetrainDone s
  | .retentionLoss => Sys2Proof.Machine.execRetentionLoss s
  | .debugFreeze => Sys2Proof.Machine.execDebugFreeze s
  | .debugRequest => Sys2Proof.Machine.execDebugRequest s
  | .hostRequest => Sys2Proof.Machine.execHostRequest s
  | .hostLinkDown => Sys2Proof.Machine.execHostLinkDown s
  | .hostLinkUp => Sys2Proof.Machine.execHostLinkUp s
  | .linkFlit => Sys2Proof.Machine.execLinkFlit s
  | .ackTimeout => Sys2Proof.Machine.execAckTimeout s
  | .phyLockLoss => Sys2Proof.Machine.execPhyLockLoss s
  | .jenoonLinkUp => Sys2Proof.Machine.execJenoonLinkUp s
  | .importedRequest => Sys2Proof.Machine.execImportedRequest s
  | .mergeArm => Sys2Proof.Machine.execMergeArm s
  | .mergeDisarm => Sys2Proof.Machine.execMergeDisarm s
  | .mergeAbsorb => Sys2Proof.Machine.execMergeAbsorb s
  | .mergeClose => Sys2Proof.Machine.execMergeClose s
  | .mergeCommitDone => Sys2Proof.Machine.execMergeCommitDone s
  | .cbUnitFinished => Sys2Proof.Machine.execCbUnitFinished s
  | .pcieCompletion => Sys2Proof.Machine.execPcieCompletion s
  | .debugThaw => Sys2Proof.Machine.execDebugThaw s
  | .routeTableWrite => Sys2Proof.Machine.execRouteTableWrite s

end Sys2Proof.Machine
end

