-- ==== Sys2Proof/Machine/Turn.lean ====
section
/-! DEFINITION. What may happen next: the issue rotation (R250 to R253), messages in their order (R207, R210), events whose conditions
hold, inputs from outside; and an issue turn up to the decoded instruction (R58, R298 to R300, R341). -/
namespace Sys2Proof.Machine

/-! The issue rotation. -/

/-- Least spacing of an instruction (R129, R354). -/
def State.spacingOf (s : State) (w : Who) (c : Ctx) : Instr → Nat
  | .div _ _ _ => 24
  | .divn _ _ _ => 24
  | .rem _ _ _ => 24
  | .remn _ _ _ => 24
  | .fdiv _ _ _ _ => 16
  | .fsqrt _ _ _ => 16
  | .frcp _ _ _ => 16
  | .frsq _ _ _ => 16
  | .fexp2 _ _ _ => 16
  | .flog2 _ _ _ => 16
  | .strip a => 8 + (bits (s.reg w c a.toNat) 14 8 + 7) / 8
  | _ => 8

/-- Spacing of what a context would do at an issue turn: a trap takes 8 cc (R254). -/
def State.nextSpacing (s : State) (w : Who) (c : Ctx) : Nat :=
  if (s.due? w c).isSome then 8
  else match s.peek w c with
    | some i => s.spacingOf w c i
    | none => 8

/-- A stall holds the next instruction (R255): a walk, a fetch on its way, no energy, or what it met at an earlier turn. -/
def State.stalled (s : State) (w : Who) (c : Ctx) : Bool :=
  c.walking || c.fetching.isSome || (match c.stall with
    | none => false
    | some .veb => false
    | some .hold => decide (Config.holdPool ≤ (s.core w.core).holds.length)
    | some (.bytes t lo hi) => s.bytesWait t lo hi
    | some .words => (c.gather.map fun g => !g.asked.isEmpty).getD false
    | some .channel => (List.range 4).all fun i => ((mget (s.core w.core).chans i).map fun x => !x.finished).getD false)
  || s.heldByVeb w c

/-- A context is eligible, spacing apart (R251, R373): Ready, not being stopped by a save or a freeze, not stalled, not waiting to take a trap,
and a topcoat only behind its undercoat. The message context is while it has work. -/
def State.eligible (s : State) (w : Who) (c : Ctx) : Bool :=
  if c.kind == .message then !(s.core w.core).jobs.isEmpty
  else c.run == .ready && c.cancelling.isNone
    && (match c.role with
        | .top p => match s.ctx? { core := w.core, slot := p } with
          | some u => decide (c.retired < u.retired)
          | none => true
        | _ => true)
    && !((c.heldTrap.isSome || (s.due? w c).isSome) && s.trapWaits w c) && !s.stalled w c

/-- The slot issuing at cc `t`, among the eligible ones with their spacing and the spacing of what they would issue (R252). -/
def selectAt (l : List (Nat × Ctx × Nat)) (t : Nat) : Option Nat :=
  let p := t % 64
  let dist (sl : Nat) : Nat := (sl + 64 - p) % 64
  let ready := l.filter fun x => decide (x.2.1.spacing ≤ t)
  let can := ready.filter fun x =>
    x.1 == p || (decide (x.2.1.yielded ≤ t) && decide (x.2.2 ≤ dist x.1))
  (sortBy (fun (a b : Nat × Ctx × Nat) => decide (dist a.1 < dist b.1)) can).head?.map (·.1)

/-- A slot's turn in the present cc may come: its spacing has run, and in a basin that drains it is the message context's (R392). -/
def State.inRotation (s : State) (core sl : Nat) (c : Ctx) : Bool :=
  decide (c.spacing ≤ s.now core) && ((s.reticle (coreRet core)).low == .running || sl == 63)
    && s.eligible { core := core, slot := sl } c

/-- The slot from which a core issues in the present cc, if it has not issued in it (R252). -/
def State.coreIssue (s : State) (core : Nat) : Option Nat :=
  let k := s.core core
  if s.now core < k.cc then none
  else
    selectAt ((k.slots.filter fun p => s.inRotation core p.1 p.2).map fun p =>
      (p.1, p.2, s.nextSpacing { core := core, slot := p.1 } p.2)) (s.now core)

/-- Something that may happen next: an input, a message that arrives, an event whose condition holds, a home taking in an access that waits,
an issue, a cc of a basin's clock. -/
inductive Turn
  | input
  | pending (i : Nat)
  | standing (e : Ev)
  | home (core : Nat)
  | issue (core slot : Nat)
  | tick (ret : Nat)
  deriving DecidableEq, Repr

/-! Messages under way. -/

/-- A number for a core of a module. -/
def coreCode (m c : Nat) : Nat := m * 2 ^ 16 + c

/-- Messages with the same key arrive in the order they were sent (R210, R229, R238, R273, R310). -/
def State.order (s : State) (e : Ev) : Option (Nat × Nat × Nat) :=
  match e with
  | .loadRequest a => some (0, coreCode a.src.modn a.src.core, s.homeOf a.pa)
  | .activeMessage a => some (0, coreCode a.src.modn a.src.core, s.homeOf a.pa)
  | .conditionalAttempt a => some (0, coreCode a.src.modn a.src.core, s.homeOf a.pa)
  | .waitListPark a => some (0, coreCode a.src.modn a.src.core, s.homeOf a.pa)
  | .combineJoin _ _ a => some ((if a.op.isRed then 1 else 0), coreCode a.src.modn a.src.core, s.homeOf a.pa)
  | .remoteUpdateMigrant a => some (1, coreCode a.src.modn a.src.core, s.homeOf a.pa)
  | .cancel core slot _ => match (s.ctx? { core := core, slot := slot }).bind (·.cond) with
    | some a => some (0, coreCode s.modn core, s.homeOf a.pa)
    | none => none
  | .neighbourWrite n => some (2, 4 * n.src.core + n.dir, n.core)
  | .drainUp _ c root _ => some (3, nodeCode c, root)
  | .drainDown _ c root _ _ _ _ => some (3, nodeCode c, root)
  | .barrierArrival b c => some (4, coreCode c.modn c.core, coreCode b.modn b.core)
  | .barrierRegistration b c => some (4, coreCode c.modn c.core, coreCode b.modn b.core)
  | .barrierWithdrawal b c => some (4, coreCode c.modn c.core, coreCode b.modn b.core)
  | .barrierAbortRequest b c _ => some (4, coreCode c.modn c.core, coreCode b.modn b.core)
  | .barrierVerdict b _ => some (5, coreCode b.modn b.core, b.bar)
  | .registrationReply c _ _ => some (5, coreCode c.modn c.core, c.bar)
  | .electionKey r d _ => some (6, r, d)
  | _ => none

/-- A confluence node holds back a later request of a source that is bound for the home of an open combine entry with a member from that
source, unless it joins that entry; the combined request itself goes first (R210). -/
def State.heldAtNode (s : State) (e : Ev) : Bool :=
  match e with
  | .combineJoin r n a => s.nodeHolds a.src.core a.pa && !((s.reticle r).combine.any fun k => !k.sent && k.node == n && k.word == a.pa && ((k.members.head?).map (·.tag)) == some a.tag)
  | _ => match e.access? with
    | none => false
    | some a => a.src.modn == s.modn && s.nodeHolds a.src.core a.pa && !(match a.dst with
      | .combine _ _ => true
      | _ => false)

/-- The reticle in which a request acts: that of its home, or the one it leaves. -/
def State.siteOf (s : State) (a : Access) : Nat := if s.isLocalPa a.pa then coreRet (s.homeOf a.pa) else coreRet a.src.core

/-- Core of a level of the drainage tree. -/
def State.nodeRet (s : State) (root : Nat) : DrainNode → Nat
  | .core c => coreRet c
  | .cluster r _ => r
  | .reticle r => r
  | .root => coreRet (s.homeOf (s.paOf root))

/-- The reticle in which an event acts, where it is one. -/
def State.site (s : State) (e : Ev) : Option Nat :=
  match e with
  | .loadRequest a => some (s.siteOf a)
  | .activeMessage a => some (s.siteOf a)
  | .remoteUpdateMigrant a => some (s.siteOf a)
  | .conditionalAttempt a => some (s.siteOf a)
  | .waitListPark a => some (s.siteOf a)
  | .attemptResend a => some (coreRet a.src.core)
  | .parkRequestRetry a => some (coreRet a.src.core)
  | .combineJoin r _ _ => some r
  | .combineClose r _ => some r
  | .combineReply r _ _ => some r
  | .stripDone c _ => some (coreRet c)
  | .migrantArrival c _ _ => some (coreRet c)
  | .waitListServe c _ => some (coreRet c)
  | .cancel c _ _ => some (coreRet c)
  | .cancelAnswer c _ _ _ => some (coreRet c)
  | .loadReply r => some (coreRet r.acc.src.core)
  | .performedNotice r => some (coreRet r.acc.src.core)
  | .walkComplete k => some (coreRet k.core)
  | .tlbRemoval c _ => some (coreRet c)
  | .tlbiAck q => some (coreRet q.core)
  | .icacheInvalidation c _ => some (coreRet c)
  | .icinvAck q => some (coreRet q.core)
  | .neighbourWrite n => some (coreRet n.core)
  | .nwrAck n _ => some (coreRet n.src.core)
  | .hcallRequest q => some (coreRet q.src.core)
  | .saveAreaWrite q => some (coreRet q.core)
  | .copySourceReply c _ _ => some (coreRet c)
  | .copyWritePerformed c _ _ => some (coreRet c)
  | .stampQuery q => some (coreRet (s.homeOf q.reply.acc.pa))
  | .stampSatisfied q => some (coreRet (s.homeOf q.reply.acc.pa))
  | .drainUp p _ root _ => some (s.nodeRet root p)
  | .drainAck c root _ _ => some (s.nodeRet root c)
  | .drainDown p _ root _ _ _ _ => some (s.nodeRet root p)
  | .gangPlace r => some r
  | .gangRelease r => some r
  | .releaseReceived r => some r
  | .noticeExpiry c => some (coreRet c)
  | .loanOffer r _ _ => some r
  | .loanRecall r _ _ => some r
  | .loanReturn r _ _ => some r
  | .watchdogExpiry c _ => some (coreRet c)
  | .barrierArrival b _ => some (coreRet b.core)
  | .barrierVerdict b _ => some (coreRet b.core)
  | .barrierAbortRequest b _ _ => some (coreRet b.core)
  | .barrierRegistration b _ => some (coreRet b.core)
  | .barrierWithdrawal b _ => some (coreRet b.core)
  | .registrationReply c _ _ => some (coreRet c.core)
  | .skimCopyStep c => some (coreRet c)
  | .spareCopyStep c => some (coreRet c)
  | .partitionScrubDone r => some r
  | .attestDone r => some r
  | .mergeAbsorb c _ _ => some (coreRet c)
  | .mergeCommitDone c _ => some (coreRet c)
  | .issueSpacingEnd c _ => some (coreRet c)
  | .contextWake c _ => some (coreRet c)
  | .migrantDeparture c _ => some (coreRet c)
  | .overflowRefill c => some (coreRet c)
  | .neighbourWriteLand c _ _ => some (coreRet c)
  | .engineCommandComplete c _ => some (coreRet c)
  | .denseSubstep c => some (coreRet c)
  | .cbUnitFinished c => some (coreRet c)
  | .bwaittTimeout c _ => some (coreRet c)
  | .launchRecord r => some r
  | .grantRound r => some r
  | .droopAlarm r => some r
  | _ => none

/-- Work of a unit or a timer, which stops with its basin (R392, R394, R396). -/
def Ev.isWork : Ev → Bool
  | .attemptResend _ => true
  | .parkRequestRetry _ => true
  | .gangPlace _ => true
  | .gangRelease _ => true
  | .releaseReceived _ => true
  | .skimCopyStep _ => true
  | .spareCopyStep _ => true
  | .partitionScrubDone _ => true
  | .attestDone _ => true
  | _ => false

/-- Lowland does not stand in the way of a message: its basin is not in retention, and runs where the message is work of its own. -/
def State.powered (s : State) (e : Ev) : Bool :=
  match s.site e with
  | none => true
  | some r => (s.reticle r).low == .running || ((s.reticle r).low == .draining && !Ev.isWork e)

/-- A message may arrive now: none sent before it with the same key is still under way, and nothing holds it back. -/
def State.deliverable (s : State) (before : List Ev) (e : Ev) : Bool :=
  (match s.order e with
    | none => true
    | some k => before.all fun f => s.order f != some k)
    && !s.heldAtNode e && s.powered e && s.pathUp e
    && (match e with
        | .stampQuery q => s.stampMet q.stamp
        | .saveAreaWrite q => s.saveReady q
        | .gangPlace r => !s.imageWaits r
        | .walkComplete k => s.walkReady before k
        | .migrantArrival c _ _ => s.ringFree c
        | .electionKey r _ _ => (s.shedOf r).phase != 1 && (s.shedOf r).phase != 2
        | .gatherReport p _ => (s.shedOf p).phase != 3
        | .passRetrainDone r => (s.reticle r).low == .retained
        | _ => true)

/-! The phases of a basin's cc: what stands at its beginning, its issues, then what follows from them and what reaches it. -/

/-- What stands at a core at the beginning of a cc (R129, R226, R262): watchdogs that are due, spacings that have run, a wait list to be
served. -/
def State.firstEvents (s : State) (core : Nat) : List Ev :=
  let k := s.core core
  (if (s.reticle (coreRet core)).low != .running then []
   else ((k.slots.filter fun p => p.2.expired).map fun p => Ev.watchdogExpiry core p.1)
     ++ ((k.slots.filter fun p => p.2.spacing != 0 && decide (p.2.spacing ≤ s.now core)).map fun p => Ev.issueSpacingEnd core p.1))
  ++ (match k.servings with
      | v :: _ => if v.due then [Ev.waitListServe core v.word] else []
      | [] => [])

/-- Events of a context. -/
def State.ctxEvents (s : State) (w : Who) (c : Ctx) : List Ev :=
  (if s.mayWake w c then [Ev.contextWake w.core w.slot] else [])
    ++ (if (s.reticle (coreRet w.core)).low != .running then []
        else match c.run with
        | .departing _ _ => if c.drained then [Ev.migrantDeparture w.core w.slot] else []
        | .parked (.barrier _ (some 0)) => [Ev.bwaittTimeout w.core w.slot]
        | _ => [])

/-- A notice has run down (R282). -/
def State.noticeEnds (s : State) (core : Nat) : Bool :=
  let w := s.cb core 0x0200
  bits w 11 8 != 0 && bits w 21 12 == 0

/-- Events of a core that are due in the cc in which their conditions hold. -/
def State.coreEvents (s : State) (core : Nat) : List Ev :=
  let k := s.core core
  (k.slots.map fun p => s.ctxEvents { core := core, slot := p.1 } p.2).flatten
    ++ (if !k.overflow.isEmpty && decide (k.ringCount < Config.ringPackets) && s.ringFree core then [Ev.overflowRefill core] else [])
    ++ ((k.cmds.filter fun x => k.completes x).map fun x => Ev.engineCommandComplete core x.id)
    ++ (if (s.reticle (coreRet core)).low != .running then []
        else (if s.mayStep core then [Ev.denseSubstep core] else [])
          ++ s.scrubEvents core
          ++ ((k.nwr.filter fun n => s.nwrLands core n).map fun n => Ev.neighbourWriteLand core n.dir n.src.slot))

/-- A grant round of a reticle that is due (R280). -/
def isRound (r : Nat) : Ev → Bool
  | .grantRound q => q == r
  | _ => false

/-- What a basin does first of what is fixed for the present cc, if anything (R289): what stands at its beginning, homes taking in what waits,
then its issues, core by core; then notices that have run down, a round, and the events that are due. -/
def State.fixedTurn (s : State) (r : Nat) : Option Turn :=
  let cs := s.coresOf r
  match cs.findSome? fun c => (s.firstEvents c).head? with
  | some e => some (.standing e)
  | none => match cs.find? fun c => s.homeWorks c with
    | some c => some (.home c)
    | none => match (if (s.reticle r).late then none else cs.findSome? fun c => (s.coreIssue c).map fun sl => (c, sl)) with
      | some (c, sl) => some (.issue c sl)
      | none => match cs.find? fun c => s.noticeEnds c && (s.reticle r).low == .running with
        | some c => some (.standing (.noticeExpiry c))
        | none => match s.pending.findIdx? (isRound r) with
          | some i => some (.pending i)
          | none => (cs.findSome? fun c => (s.coreEvents c).head?).map Turn.standing

/-- The basin's issues of this cc are over, so that what reaches it may take effect. -/
def State.open_ (s : State) (r : Nat) : Bool :=
  (s.reticle r).low == .retained || match s.fixedTurn r with
    | some (.issue _ _) => false
    | some (.home _) => false
    | some (.standing (.watchdogExpiry _ _)) => false
    | some (.standing (.issueSpacingEnd _ _)) => false
    | some (.standing (.waitListServe _ _)) => false
    | _ => true

/-- An event that acts in one basin happens after that basin's issues; a droop alarm before its round and the end of a notice (R284,
R289). -/
def State.timely (s : State) (e : Ev) : Bool :=
  (match s.site e with
    | none => true
    | some r => s.open_ r)
  && (match e with
    | .droopAlarm r => !(s.reticle r).closed
    | .grantRound _ => false
    | _ => true)

/-- Numbers of the messages that may arrive. -/
def State.arrivals (s : State) : List Nat :=
  (List.range s.pending.length).filter fun i => match s.pending[i]? with
    | some e => s.timely e && s.deliverable (s.pending.take i) e
    | none => false

/-- Every live basin has stopped, and no message that can move is left in the module: the drain is over (R392). -/
def State.quiet (s : State) : Bool :=
  (s.liveRets.all fun r => (s.reticle r).low != .running) && s.arrivals.isEmpty
    && s.cores.all fun p => p.2.jobs.isEmpty && p.2.ready.isEmpty && p.2.servings.isEmpty

/-- Events that may happen in a basin when nothing fixed is left, whose time the manual leaves open: the conflict-batching unit finishes, the
launcher takes a record (R265), a basin goes into retention (R392). -/
def State.freeEvents (s : State) (r : Nat) : List Ev :=
  match (s.reticle r).low with
  | .running =>
    ((s.coresOf r).filterMap fun c => match (s.core c).cbu.busy with
      | [] => none
      | b :: _ => if (s.core c).cbReady b then some (Ev.cbUnitFinished c) else none)
    ++ (if s.recordWaits r then [Ev.launchRecord r] else [])
  | .draining => if s.quiet then [Ev.lowlandRetain r] else []
  | .retained => []

/-- What a basin may do next: what is fixed, else an event whose time is open or a cc of its clock. One in retention has no clock. -/
def State.basinTurns (s : State) (r : Nat) : List Turn :=
  if (s.reticle r).low == .retained then []
  else match s.fixedTurn r with
    | some t => [t]
    | none => (s.freeEvents r).map Turn.standing ++ [.tick r]

/-- The basins at which something has happened. -/
def State.basins (s : State) : List Nat :=
  upTo 49 fun r => (s.cores.any fun p => coreRet p.1 == r) || s.rets.any fun p => p.1 == r

/-- What reaches a module whose clocks are stopped (R26, R397): the supply's signals and the test access port's. -/
def actsFrozen : Ev → Bool
  | .powerFail => true
  | .powerGood => true
  | .retentionLoss => true
  | .powerUp => true
  | .debugThaw => true
  | .debugRequest _ _ _ => true
  | _ => false

/-- Everything that may happen next. While the module is frozen only these inputs can (R26). -/
def State.turns (s : State) : List Turn :=
  let ins (ok : Ev → Bool) : List Turn := if (s.inputs.head?.map ok).getD false then [.input] else []
  if s.power.frozen then ins actsFrozen
  else ins s.timely ++ s.arrivals.map Turn.pending ++ (s.basins.map s.basinTurns).flatten

/-- The turn that is taken: the only one, or one that the manual leaves open (R187, R209). -/
def State.turn? (s : State) : Option Turn × State :=
  match s.turns with
  | [] => (none, s)
  | [t] => (some t, s)
  | t :: r =>
    let l := t :: r
    ((l[Config.pick s.picks % l.length]?), { s with picks := s.picks + 1 })

/-! An issue turn. -/

/-- What an issue turn comes to before an instruction runs: it is over, or a decoded instruction runs. -/
inductive Prep
  | ended (o : Out)
  | run (i : Instr) (s : State)

/-- The least mode of an instruction (R73). -/
def Instr.least : Instr → Mode
  | .eret => .s
  | .prd _ _ => .s
  | .pwr _ _ => .s
  | .tlbi _ _ => .s
  | .strip _ => .s
  | .freeze _ _ => .s
  | .ctxsv _ _ _ => .s
  | .ctxld _ _ => .s
  | .sevset _ _ => .f
  | _ => .u

/-- An instruction that step 4 of R58 refuses to a context: for its group, or for the control register it names. -/
def Instr.denied (i : Instr) (c : Ctx) : Bool :=
  decide (modeCode c.mode < modeCode (Instr.least i)) || match i with
    | .crd _ n => ctlHidden c.mode n.toNat
    | .cwr _ n => c.cwrDenied n.toNat
    | _ => false

/-- Some register field of an instruction is at or above a limit once raised (R299). -/
def Instr.overLimit (i : Instr) (it stride mask lim : Nat) : Bool :=
  let f := i.regFields
  let past (k : Nat) : Option Reg → Bool
    | none => false
    | some r => decide (lim ≤ raised it stride mask k r)
  past 0 f.1 || past 1 f.2.1 || past 2 f.2.2

/-- The first captured instruction from an address on whose raised fields break the limit (R299): its word, or none. A word that stalls its
fetch stalls the check; one whose fetch traps, or that does not decode, is left for its own turn. -/
def State.frameOver (w : Who) (c : Ctx) : Nat → Word → State → State × Option (Option (BitVec 32))
  | 0, _, s => (s, some none)
  | n + 1, a, s =>
    let r := s.fetch w c a
    match r.2 with
    | .miss => (r.1, none)
    | .trap _ _ => (r.1, some none)
    | .word v =>
      let len := if startsLdi v then 2 else 1
      let bad := match decodeWord v.toNat 0 with
        | .ok i => Instr.overLimit i (bits c.repst 15 0) (bits c.repst 57 55) (bits c.repst 54 52) c.lim
        | .error _ => false
      if bad then (r.1, some (some v)) else State.frameOver w c n (a + BitVec.ofNat 64 (4 * len)) r.1

/-- The word at PC is decoded and, in a frame, raised (R58 steps 2 and 3, R298, R299); PRIV comes before REGRANGE. -/
def State.decodeAt (s : State) (w : Who) (c : Ctx) (v v2 : BitVec 32) : Prep :=
  let s := { s with cur := w, ir := v }
  match decodeWord v.toNat v2.toNat with
  | .error .rsvfld => .ended (trapNow s w c .rsvfld s.irWord)
  | .error _ => .ended (trapNow s w c .illop s.irWord)
  | .ok i =>
    if !c.framing then .run i s
    else if Instr.overLimit i (bits c.repst 15 0) (bits c.repst 57 55) (bits c.repst 54 52) c.lim then
      .ended (trapNow s w c (if Instr.denied i c then .priv else .regrange) s.irWord)
    else .run (stepped c.repst i) s

/-- Fetch and decode at PC (R54, R58): both words of an LDI. -/
def State.fetchInstr (s : State) (w : Who) (c : Ctx) : Prep :=
  let r := s.fetch w c c.pc
  match r.2 with
  | .miss => .ended (.next r.1)
  | .trap cz t => .ended (trapNow r.1 w c cz t)
  | .word v =>
    if startsLdi v then
      let q := r.1.fetch w c (c.pc + 4)
      match q.2 with
      | .miss => .ended (.next q.1)
      | .trap cz t => .ended (trapNow q.1 w c cz t)
      | .word v2 => q.1.decodeAt w c v v2
    else r.1.decodeAt w c v 0

/-- The frame's checks, then the instruction (R299, R300). -/
def State.frameGo (s : State) (w : Who) (c : Ctx) : Prep :=
  if c.frameBad then .ended (trapNow s w c .repfnest c.repst)
  else if c.framing && bits c.repst 41 38 == 0 then
    let r := State.frameOver w c (bits c.repst 61 58 + 1) c.pc s
    match r.2 with
    | none => .ended (.next r.1)
    | some (some v) => .ended (trapNow { r.1 with ir := v, cur := w } w c .regrange (v.setWidth 64))
    | some none => r.1.fetchInstr w c
  else s.fetchInstr w c

/-- An issue turn of a context: work of the message context, a trap whose delivery had to wait, the trap that is due, an access that is due to
be sent again, a frame that breaks R300, a frame's limits, and the instruction at PC. -/
def State.prepare (s : State) (w : Who) (c : Ctx) : Prep :=
  if c.kind == .message then
    .ended (.next ((s.modCtx w fun c => { c with spacing := s.now w.core + 8 }).doJob w.core))
  else match c.heldTrap with
  | some h =>
    let s := if c.diverged then s.dropHeld w else s
    .ended (.next ((s.modCtx w fun c => { c with heldTrap := none }).trap w h.epc h.tval h.kind h.cause))
  | none =>
    if (s.due? w c).isSome then .ended (.next (s.takeDue w))
    else match c.resend with
      | some a => if a.attempt = 0 then .ended (.next (s.resendNow w c a)) else s.frameGo w c
      | none => s.frameGo w c

/-- A core's turn in the present cc goes to a slot (R252): it may issue next in the next cc, and this cc counts for that context as it stands now (R260). -/
def State.atIssue (s : State) (core slot : Nat) : State :=
  let w : Who := { core := core, slot := slot }
  let counts : Bool := ((s.ctx? w).map fun c => s.charge w c == .cnt).getD false
  (if slot = 63 then s else s.modRet (coreRet core) fun k => { k with resumed := false }).modCore core fun k =>
    { k with cc := s.now core + 1, issued := some (slot, counts) }

/-- A turn that came to a stall, or only sent an access again, has issued nothing (R227, R251, R255): the cc is free again. -/
def State.unissued (s t : State) (w : Who) : State :=
  match s.ctx? w, t.ctx? w with
  | some c, some d =>
    if c.spacing == d.spacing && d.run == .ready && c.kind != .message then
      t.modCore w.core fun k => { k with cc := 0, issued := none }
    else t
  | _, _ => t

/-- An issue turn (R252). -/
def State.issueTurn (s : State) (core slot : Nat) : Prep :=
  let s := s.atIssue core slot
  let w : Who := { core := core, slot := slot }
  match s.ctx? w with
  | none => .ended (.next s)
  | some c => s.prepare w c

end Sys2Proof.Machine
end

