-- ==== Sys2Proof/Machine/Step.lean ====
section
/-! DEFINITION. One step of the module, and placing an instruction where the next step fetches it. -/
namespace Sys2Proof.Machine

/-- An event's meaning leaves no event behind. -/
def settled : Out → Out
  | .next s => .next { s with ev := none }
  | .fault f => .fault f
  | .refused r => .refused r

/-- An event happens. -/
def happen (e : Ev) (s : State) : Out := settled (exec e.row { s with ev := some e })

/-- An event takes effect in its basin after the issues of the present cc: there are no more in it. The end of a notice and a round close
it to a droop alarm (R289). -/
def State.noted (s : State) (e : Ev) : State :=
  match s.site e with
  | none => s
  | some r => match e with
    | .watchdogExpiry _ _ => s
    | .issueSpacingEnd _ _ => s
    | .waitListServe _ _ => s
    | .noticeExpiry _ => s.modRet r fun k => { k with late := true, closed := true }
    | .grantRound _ => s.modRet r fun k => { k with late := true, closed := true }
    | _ => s.modRet r fun k => { k with late := true }

/-- The outcome of an instruction's turn. -/
def issued (s : State) (w : Who) : Out → Out
  | .next t => .next (s.unissued t w)
  | .fault f => .fault f
  | .refused f => .refused f

/-- A turn is taken. -/
def take (t : Turn) (s : State) : Out :=
  match t with
  | .input => match s.inputs with
    | [] => .next s
    | e :: r => happen e ({ s with inputs := r }.noted e)
  | .pending i => match s.pending[i]? with
    | none => .next s
    | some e =>
      let s := { s with pending := s.pending.eraseIdx i }.noted e
      if s.cutBy e then .next (s.returned e) else happen e s
  | .standing e => happen e (s.noted e)
  | .home core => .next (s.homeTakes core)
  | .issue core slot => issued s { core := core, slot := slot } (match s.issueTurn core slot with
    | .ended o => o
    | .run i s => exec i s)
  | .tick r => .next (s.elapse r)

/-- One step: one thing that may happen next does. Where nothing can, the state stays as it is. -/
def step (s : State) : Host.Outcome State Fault Refusal :=
  match s.turn? with
  | (none, s) => .next s
  | (some t, s) => take t s

/-- The context that the next step issues from, if that step is an issue turn. -/
def State.nextIssue (s : State) : Option Who :=
  match s.turn? with
  | (some (.issue core slot), _) => some { core := core, slot := slot }
  | _ => none

/-- Where the manual has firmware bring the module up (Watershed, R379 to R387): reticle 0 is live and published, and the firmware
context of its tile (0, 0) stands in slot 62 with its PC at the first byte of the tile's SRAM. Log 1. -/
def State.boot (s : State) : State :=
  let s := { s with topo := mput 0x2000 (BitVec.ofNat 64 (2 ^ 63)) (mput 0x2040 (BitVec.ofNat 64 (2 ^ 63)) s.topo) }
  s.setCtx { core := 0, slot := 62 } (firmwareCtx 0)

/-- Words stored at a context's next instruction, seen by its fetch. -/
def State.putInstr (s : State) (w : Who) (v : Nat) : State :=
  match s.ctx? w with
  | none => s
  | some c => match s.xlate w c c.pc .execute with
    | .ok pa =>
      let s := { s with mem := memWrite s.mem (lpaOf pa) 8 v, poison := sdel (wordAt (lpaOf pa)) s.poison }
      (s.modCtx w fun c => { c with fetched := [] }).modCore w.core fun k =>
        { k with icache := k.icache.filter fun l => l.va != c.pc && l.va != c.pc + 4 }
    | _ => s

/-- The state with an instruction of `nbits` bits stored where the next step fetches (the bits above are zero): at the PC of the context
that issues next, or, where none does, at that of the firmware context that the start of the module makes. -/
def State.withFetchWord (s : State) (nbits w : Nat) : State :=
  let v := w % 2 ^ nbits
  match s.nextIssue with
  | some who => s.putInstr who v
  | none => s.boot.putInstr { core := 0, slot := 62 } v

end Sys2Proof.Machine
end

