-- ==== Sys2Proof/Safety.lean ====
section
/-! DEFINITION. What counts as a safe state of a run, and the terms the claims are put in: which context issues, which registers it can
use, what a step leaves as it was. -/
namespace Sys2Proof.Machine

/-- Memory holds its canonical form. -/
def Safe (s : State) : Prop := s.memOk = true

/-- The slot that is to issue holds the context `c`, which is Ready (R251). -/
structure Issues (s : State) (w : Who) (c : Ctx) : Prop where
  cur : s.cur = w
  ctx : s.ctx? w = some c
  ready : c.run = .ready

/-- Registers that an instruction can use at once: below the limit (R56), with good check bits (R367), present (R34). -/
def Usable (s : State) (w : Who) (c : Ctx) (rs : List Reg) : Prop :=
  ∀ r ∈ rs, r.toNat < c.lim ∧ (s.regEntry w c r.toNat).bad = false ∧ (s.regEntry w c r.toNat).pres = .present

/-- The entries that a write of register `d` may touch: none for x0 (R30). -/
def Ctx.touches (c : Ctx) (d : Reg) : List Nat := if d = 0 then [] else [c.entry d.toNat]

/-- `t` is `s` but for the context in slot `w`, which is `c'`, and the entries `es` of its core's register file: memory, other contexts,
other entries, every other part of the module stay. -/
structure Changes (s t : State) (w : Who) (c' : Ctx) (es : List Nat) : Prop where
  ctx : t.ctx? w = some c'
  rest : { t with cores := s.cores } = s
  cores : ∀ k, k ≠ w.core → t.core k = s.core k
  core : { t.core w.core with slots := (s.core w.core).slots, file := (s.core w.core).file } = s.core w.core
  slots : ∀ v, v ≠ w → t.ctx? v = s.ctx? v
  file : ∀ e, e ∉ es → t.fileEntry w.core e = s.fileEntry w.core e

/-- `t` is `s` in memory with its FE and poison, in the contexts of every other core, and of `w`'s core in the contexts of every slot but `vs` and the
register-file entries but `es`. -/
structure Keeps (s t : State) (w : Who) (vs es : List Nat) : Prop where
  mem : t.mem = s.mem
  full : t.empties = s.empties
  poison : t.poison = s.poison
  slots : ∀ v, v.core ≠ w.core ∨ v.slot ∉ vs → t.ctx? v = s.ctx? v
  file : ∀ k e, k ≠ w.core ∨ e ∉ es → t.fileEntry k e = s.fileEntry k e

/-- The instruction completes: it answers a next state that has the context as `c'`, register `d` written with `v` and present, and
nothing else changed. -/
def Writes (i : Instr) (s : State) (w : Who) (c c' : Ctx) (d : Reg) (v : Word) : Prop :=
  ∃ t, exec i s = .next t ∧ Changes s t w c' (c.touches d) ∧
    (d ≠ 0 → t.regEntry w c' d.toNat = { val := v, pres := .present, bad := false })

/-- The instruction completes, changing its context alone. -/
def Becomes (i : Instr) (s : State) (w : Who) (c' : Ctx) : Prop := ∃ t, exec i s = .next t ∧ Changes s t w c' []

/-- A context after an instruction of one word at 8 cc: PC, frame, spacing and retire count move on (R127, R298). -/
def State.after (s : State) (w : Who) (c : Ctx) : Ctx := c.finished (s.now w.core) 1 8

/-- A scalar integer instruction at 8 cc that writes `v` to register `d` and goes on to the next word (R127). -/
def Yields (i : Instr) (s : State) (w : Who) (c : Ctx) (d : Reg) (v : Word) : Prop := Writes i s w c (s.after w c) d v

/-- A divide: 24 cc (R129), with flags set sticky. -/
def Divides (i : Instr) (s : State) (w : Who) (c : Ctx) (d : Reg) (f : Flags) (v : Word) : Prop :=
  Writes i s w c ((c.raise f).finished (s.now w.core) 1 24) d v

/-- An instruction that writes `b` to predicate `p`, p0 apart, and changes nothing else of pw (R37, R61). -/
def SetsPred (i : Instr) (s : State) (w : Who) (c : Ctx) (p : BitVec 4) (b : Bool) : Prop :=
  ∃ pw : BitVec 32, Becomes i s w (s.after w { c with pw := pw }) ∧
    ∀ k, k < 32 → pw.getLsbD k = if k = p.toNat ∧ p ≠ 0 then b else c.pw.getLsbD k

/-- The conditions of CMP and CMPI in their order (R61, R141). -/
def compares (cond : BitVec 3) (x y : Word) : Bool :=
  [decide (x = y), decide (x ≠ y), decide (x.toInt < y.toInt), decide (y.toInt ≤ x.toInt), decide (x.toNat < y.toNat),
    decide (y.toNat ≤ x.toNat), decide (x &&& y ≠ 0), decide (x &&& y = 0)].getD cond.toNat false

/-- A register as an FP32 value: its low half (R97). -/
def single (x : Word) : FVal := unpack fp32 (x.toNat % 2 ^ 32)

/-- The floating-point instructions that round (R148, R149, R152): registers read and written, destination, spacing, result and flags. -/
def floatRow (g : Reg → Word) : Instr → Option (List Reg × Reg × Nat × (Nat × Flags))
  | .fadd d a b rm => some ([a, b, d], d, 8, fAddV fp32 rm.toNat (single (g a)) (single (g b)))
  | .fsub d a b rm => some ([a, b, d], d, 8, fAddV fp32 rm.toNat (single (g a)) (single (g b)).negate)
  | .fmul d a b rm => some ([a, b, d], d, 8, fMulV fp32 rm.toNat (single (g a)) (single (g b)))
  | .ffma d a b rm => some ([a, b, d], d, 8, fFmaV fp32 rm.toNat (single (g a)) (single (g b)) (single (g d)))
  | .fmin d a b => some ([a, b, d], d, 8, fMinMax fp32 false ((g a).toNat % 2 ^ 32) ((g b).toNat % 2 ^ 32))
  | .fmax d a b => some ([a, b, d], d, 8, fMinMax fp32 true ((g a).toNat % 2 ^ 32) ((g b).toNat % 2 ^ 32))
  | .fdiv d a b rm => some ([a, b, d], d, 16, fDivV fp32 rm.toNat (single (g a)) (single (g b)))
  | .fsqrt d a rm => some ([a, d], d, 16, fSqrtV fp32 rm.toNat (single (g a)))
  | .frcp d a rm => some ([a, d], d, 16, fRcpV fp32 rm.toNat (single (g a)))
  | .frsq d a rm => some ([a, d], d, 16, fRsqV fp32 rm.toNat (single (g a)))
  | .fexp2 d a rm => some ([a, d], d, 16, fExp2V fp32 rm.toNat (single (g a)))
  | .flog2 d a rm => some ([a, d], d, 16, fLog2V fp32 rm.toNat (single (g a)))
  | .fcvt d a t f rm => some ([a, d], d, 8, cvt t.toNat f.toNat rm.toNat (g a))
  | _ => none

/-- The instruction takes a synchronous trap at its own PC, nothing done before (R7, R339). -/
def Traps (i : Instr) (s : State) (w : Who) (c : Ctx) (cz : Cause) (v : Word) : Prop :=
  exec i s = .next (s.trap w c.pc v .sync cz)

/-- A context after a control transfer to `t` (R294). -/
def State.jumped (s : State) (w : Who) (c : Ctx) (t : Word) : Ctx :=
  stepDue c { c with
    pc := t, spacing := s.now w.core + 8, yielded := 0, stall := none, walkFault := none, walkHit := none, fetched := [], fetching := none
    gather := none, retired := c.retired + 1 }

/-- A trap of the context is delivered at once (R339): not in F, not in a handler, the vector valid, no reply owed to x1 to x4 and none of them
found lost as they are saved (R367), the context no member of a pair. -/
structure Delivers (s : State) (w : Who) (c : Ctx) (vec : Word) : Prop where
  mode : c.mode ≠ .f
  inh : c.inh = false
  vector : s.vector w c = some vec
  owed : s.owedLow w c = false
  good : ∀ r ∈ [1, 2, 3, 4], (s.regEntry w c r).bad = false
  single : c.role = .single

/-- The context after a trap (R339 steps 5 to 8, R337): x1 to x4 saved, resumption PC, value, cause, frame suspended, mode S, PC at the
vector, 8 cc of spacing; every other register of it as it was. -/
structure Entered (s : State) (w : Who) (c c' : Ctx) (e v vec : Word) (k : TrapKind) (cz : Cause) : Prop where
  tsv : c'.tsv = [1, 2, 3, 4].map fun r => ((s.regEntry w c r).val, decide ((s.regEntry w c r).pres = .present))
  epc : c'.epc = e
  tval : c'.tval = v
  cause : c'.cause = BitVec.ofNat 64 (2 ^ 15 + modeCode c.mode * 2 ^ 12 + k.asyn.toNat * 2 ^ 10 + k.late.toNat * 2 ^ 9
    + k.eng.toNat * 2 ^ 8 + causeCode cz)
  sus : ∀ n, n < 64 → c'.repst.getLsbD n = if n = 62 ∧ c.repst.getLsbD 63 then true else c.repst.getLsbD n
  mode : c'.mode = .s
  pc : c'.pc = vec
  spacing : c'.spacing = s.now w.core + 8
  run : c'.run = .ready
  rest : { c' with
    tsv := c.tsv, epc := c.epc, tval := c.tval, cause := c.cause, repst := c.repst, mode := c.mode, pc := c.pc, spacing := c.spacing,
    run := c.run, yielded := c.yielded, stall := c.stall, walkFault := c.walkFault, walkHit := c.walkHit, fetched := c.fetched
    fetching := c.fetching, gather := c.gather, heldTrap := c.heldTrap, frameBad := c.frameBad } = c

/-- A context that no other member of a pair binds. -/
def Ctx.alone (c : Ctx) : Prop := c.role = .single

/-- A context of no pair, with nothing in a load-value queue. -/
def Ctx.solo (c : Ctx) : Prop := c.role = .single ∧ c.lvq = []

/-! Accesses to memory (R223, R224, R228). -/

/-- The accesses: operation, registers that must be usable, address, operand, comparand, register written. -/
def accessRow (g : Reg → Word) : Instr → Option (MemOp × List Reg × Word × Word × Word × Option Reg)
  | .ld d a z e o => some (.load z.toNat (e == 1), [a, d], g a + (o.signExtend 64 <<< z.toNat), 0, 0, some d)
  | .st d a z o => some (.store z.toNat, [a, d], g a + (o.signExtend 64 <<< z.toNat), g d, 0, none)
  | .ldfe d a o => some (.ldfe, [a, d], g a + (o.signExtend 64 <<< 3), 0, 0, some d)
  | .ldff d a o => some (.ldff, [a, d], g a + (o.signExtend 64 <<< 3), 0, 0, some d)
  | .stef d a o => some (.stef, [a, d], g a + (o.signExtend 64 <<< 3), g d, 0, none)
  | .stff d a o => some (.stff, [a, d], g a + (o.signExtend 64 <<< 3), g d, 0, none)
  | .stfe d a o => some (.stfe, [a, d], g a + (o.signExtend 64 <<< 3), g d, 0, none)
  | .feget d a o => some (.feget, [a, d], g a + (o.signExtend 64 <<< 3), 0, 0, some d)
  | .feset d a o => some (.feset, [a, d], g a + (o.signExtend 64 <<< 3), g d, 0, none)
  | .amoF d a b o => if o.toNat ≤ 10 then some (.amo o.toNat true, [a, b, d], g a, g b, 0, some d) else none
  | .amoCasF d a b => some (.amo 9 true, [a, b, d], g a, g b, g d, some d)
  | .amo a b o => if o.toNat ≤ 10 then some (.amo o.toNat false, [a, b], g a, g b, 0, none) else none
  | .red a b o => if o.toNat ≤ 10 then some (.red o.toNat, [a, b], g a, g b, 0, none) else none
  | _ => none

/-- New value of an atomic operation on `x` with operand `b` and comparand `c` (R228). -/
def amoRow (o : Nat) (x b c : Word) : Word :=
  [BitVec.ofNat 64 (x.toNat + b.toNat), x &&& b, x ||| b, x ^^^ b, if x.toInt ≤ b.toInt then x else b, if x.toInt ≤ b.toInt then b else x,
    if x.toNat ≤ b.toNat then x else b, if x.toNat ≤ b.toNat then b else x, b, if x = c then b else x,
    BitVec.ofNat 64 (fAddV fp32 0 (single x) (single b)).1].getD o 0

/-- The bytes an operation at address `l` of memory `m` stores (how many, of what), FE after it, and its answer, with operand `b`,
comparand `x` and FE `f` before; none where the condition of a conditional access does not hold (R206, R224, R225, R228). -/
def opRow (m : List Host.Cell) (l : Nat) (b x : Word) (f : Bool) : MemOp → Option ((Nat × Word) × Bool × Word)
  | .load z true => some ((0, 0), f, (BitVec.ofNat (8 * 2 ^ z) (memRead m l (2 ^ z))).signExtend 64)
  | .load z false => some ((0, 0), f, BitVec.ofNat 64 (memRead m l (2 ^ z)))
  | .store z => some ((2 ^ z, b), f, 0)
  | .ldfe => if f then some ((0, 0), false, BitVec.ofNat 64 (memRead m l 8)) else none
  | .ldff => if f then some ((0, 0), true, BitVec.ofNat 64 (memRead m l 8)) else none
  | .stef => if f then none else some ((8, b), true, 0)
  | .stff => some ((8, b), true, 0)
  | .stfe => some ((8, b), false, 0)
  | .feget => some ((0, 0), f, if f then 1 else 0)
  | .feset => some ((0, 0), b.getLsbD 0, 0)
  | .amo o ft =>
    let n := if o = 10 then 4 else 8
    let old := BitVec.ofNat 64 (memRead m l n)
    some ((n, amoRow o old b x), f, if ft then old else 0)
  | .red o =>
    let n := if o = 10 then 4 else 8
    some ((n, amoRow o (BitVec.ofNat 64 (memRead m l n)) b x), f, 0)
  | _ => none

/-- Memory, FE and poison after an operation that stores `st` at `l` and leaves FE as `f`: every byte outside the stored ones, every other
word's FE and P as they were; a word written whole loses P (R191). -/
structure Stored (s t : State) (op : MemOp) (l : Nat) (st : Nat × Word) (f : Bool) : Prop where
  bytes : ∀ k, memByte t.mem k =
    if l ≤ k ∧ k < l + st.1 then BitVec.ofNat 8 (st.2.toNat / 256 ^ (k - l)) else memByte s.mem k
  full : ∀ k, t.full k = if k = wordAt l then f else s.full k
  poison : ∀ k, t.poisoned k = (s.poisoned k && !(op.overwrites && decide (k = wordAt l)))

/-- Wait lists that a change of FE has served, from the next cc on (R226). -/
def State.serves (s : State) (h l : Nat) (f : Bool) : List Serving :=
  if s.full (wordAt l) ≠ f ∧ s.someoneWaits h (wordAt l) ∧ ∀ v ∈ (s.core h).servings, v.word ≠ wordAt l then
    [{ word := wordAt l, due := false, left := (s.core h).waits.filter fun a => waitWord a == wordAt l, any_ := false }]
  else []

/-- A word can be performed on at its home: in the SRAM or DRAM of this module, admitted, under no hold and behind no
access that waits, not forwarded (R205), and trusted where it is read (R192, R217, R328). -/
structure CanPerform (s : State) (a : Access) : Prop where
  memory : (∃ k off, s.placeOf (lpaOf a.pa) = .sram k off) ∨ (s.placeOf (lpaOf a.pa)).isDram = true
  clear : s.mustWait (s.homeOf a.pa) a (s.core (s.homeOf a.pa)).blocked = false
  direct : s.forwarded a = none
  admits : s.admits (s.placeOf (lpaOf a.pa)) a.tag a.op.kind (lpaOf a.pa) = true
  trusted : a.op.overwrites = false → a.op ≠ .feset →
    s.poisoned (wordAt (lpaOf a.pa)) = false ∧ s.corrupt.contains (wordAt (lpaOf a.pa)) = false

/-- Such a word whose home takes an access now (R207). -/
structure AtHome (s : State) (a : Access) : Prop extends CanPerform s a where
  taken : s.homeBusy (s.homeOf a.pa) = false

/-- The checks of R221 let an access go: aligned, translated to `pa`, reachable, no migrant that moves (R47). -/
structure Reaches (s : State) (w : Who) (c : Ctx) (op : MemOp) (va : Word) (pa : Nat) : Prop where
  aligned : va.toNat % op.bytes = 0 ∧ lpaOf pa % op.bytes = 0
  place : s.xlate w c va op.kind = .ok pa
  reach : s.reachTrap w c pa = none
  stays : (∃ o, op = .red o) ∨ s.moves w c pa = false

/-- The waits of an access are over (R212, R214, R225). -/
structure MayAccess (c : Ctx) (op : MemOp) : Prop where
  cond : c.cond = none
  held : c.lvq.any LvqEntry.conditional = false
  room : c.count (clsOf op) < 15
  release : op = .stef ∨ op = .stff → c.within 15 15 0 0 = true

/-- The number of writes an operation adds to the issued ones (R220). -/
def wrote (op : MemOp) : Nat := if op.countedWrite then 1 else 0

/-- The operation that an access is outstanding as (R39, R206). -/
def State.owes (s : State) (c : Ctx) (op : MemOp) (pa : Nat) (d : Option Reg) : OutOp :=
  { id := s.ids, cls := clsOf op, dst := d.map (·.toNat), home := s.fenceHome pa, both := false, nth := if op.countedWrite then c.issuedW + 1 else 0 }

/-- Entries that an access with a destination may touch. -/
def Ctx.touched (c : Ctx) (d : Option Reg) : List Nat := (d.map c.touches).getD []

/-! Engine commands (R153 to R156). -/

/-- The commands that read no scales: registers that must be usable, those that name records, what the checks of R154 come to. -/
def State.commandRow (s : State) (w : Who) (c : Ctx) (g : Reg → Word) : Instr → Option (List Reg × List Reg × Chk Plan)
  | .vadd d a b => some ([d, a, b], [d, a, b], planVop 0 (g d) (g a) (g b) s w c)
  | .vsub d a b => some ([d, a, b], [d, a, b], planVop 1 (g d) (g a) (g b) s w c)
  | .vmul d a b => some ([d, a, b], [d, a, b], planVop 2 (g d) (g a) (g b) s w c)
  | .vfma d a b => some ([d, a, b], [d, a, b], planVop 3 (g d) (g a) (g b) s w c)
  | .vmin d a b => some ([d, a, b], [d, a, b], planVop 4 (g d) (g a) (g b) s w c)
  | .vmax d a b => some ([d, a, b], [d, a, b], planVop 5 (g d) (g a) (g b) s w c)
  | .vand d a b => some ([d, a, b], [d, a, b], planVop 6 (g d) (g a) (g b) s w c)
  | .vor d a b => some ([d, a, b], [d, a, b], planVop 7 (g d) (g a) (g b) s w c)
  | .vxor d a b => some ([d, a, b], [d, a, b], planVop 8 (g d) (g a) (g b) s w c)
  | .vshl d a b => some ([d, a, b], [d, a, b], planVop 9 (g d) (g a) (g b) s w c)
  | .vcmp d a b => some ([d, a, b], [d, a, b], planVop 10 (g d) (g a) (g b) s w c)
  | .vsel d a b => some ([d, a, b], [d, a, b], planVop 11 (g d) (g a) (g b) s w c)
  | .vcvt d a => some ([d, a], [d, a], planVun 0 (g d) (g a) s w c)
  | .vexp d a => some ([d, a], [d, a], planVun 1 (g d) (g a) s w c)
  | .vrcp d a => some ([d, a], [d, a], planVun 2 (g d) (g a) s w c)
  | .vrsq d a => some ([d, a], [d, a], planVun 3 (g d) (g a) s w c)
  | .vabs d a => some ([d, a], [d, a], planVun 4 (g d) (g a) s w c)
  | .vneg d a => some ([d, a], [d, a], planVun 5 (g d) (g a) s w c)
  | .vmov d a => some ([d, a], [d, a], planVun 6 (g d) (g a) s w c)
  | .vsoft d a => some ([d, a], [d, a], planVun 7 (g d) (g a) s w c)
  | .vfill d a => some ([d, a], [d], planFill (g d) (g a) s w c)
  | .vmask d a b => some ([d, a, b], [d, a, b], planMask (g d) (g a) (g b) s w c)
  | .vsum d a => some ([d, a], [d, a], planVred 0 (g d) (g a) s w c)
  | .vmaxr d a => some ([d, a], [d, a], planVred 1 (g d) (g a) s w c)
  | .vminr d a => some ([d, a], [d, a], planVred 2 (g d) (g a) s w c)
  | .vscan d a => some ([d, a], [d, a], planVred 3 (g d) (g a) s w c)
  | .vgath d a b => some ([d, a, b], [d, a, b], planVmem 0 (g d) (g a) (g b) s w c)
  | .vscat d a b => some ([d, a, b], [d, a, b], planVmem 1 (g d) (g a) (g b) s w c)
  | .bppack d a b => some ([d, a, b], [d, a, b], planPack 0 (g d) (g a) (g b) s w c)
  | .bscl d a b => some ([d, a, b], [d, a, b], planPack 2 (g d) (g a) (g b) s w c)
  | .ezero d => some ([d], [d], planEzero (g d) s w c)
  | .eacc d a => some ([d, a], [d, a], planEacc (g d) (g a) s w c)
  | .edrn d a b => some ([d, a, b], [d, a, b], planEdrn (g d) (g a) (g b) s w c)
  | _ => none

/-- Words of a tile's SRAM are trusted (R192, R369). -/
def State.trusted (s : State) (k lo hi : Nat) : Prop :=
  ∀ off, off % 8 = 0 → lo / 8 * 8 ≤ off → off < hi → s.poisoned (tileAddr k off) = false ∧ s.corrupt.contains (tileAddr k off) = false

/-- Bytes of a tile's SRAM can be read at issue: under no write hold, and trusted (R76, R192). -/
def State.readable (s : State) (w : Who) (lo hi : Nat) : Prop := s.bytesWait w.core lo hi = false ∧ s.trusted w.core lo hi

/-- The tile's table admits what a command writes and reads, granule by granule (R154, R328), and a hold is free (R219). -/
structure Granted (s : State) (w : Who) (c : Ctx) (writes reads : List Foot) : Prop where
  table : ∀ f k, f ∈ writes ∧ k = .write ∨ f ∈ reads ∧ k = .read → ∀ off, off % 64 = 0 → f.lo.toNat / 64 * 64 ≤ off → off < f.hi.toNat →
    s.admits (.sram w.core off) c.tag k (tileAddr w.core off) = true
  hold : (s.core w.core).holds.length < 32

/-- The instruction issues command `x` (R155, R217, R278): it stands last at its tile under a number of its own, its hold with it; it is counted in
ctr.MX and the next instruction may issue, or it blocks and its context parks; a tile that wanted no tokens wants its greatest number. Memory,
registers and other contexts are as they were. -/
def Queues (i : Instr) (s : State) (w : Who) (c : Ctx) (x : Cmd) (writes reads : List Foot) (p : Nat → Park) : Prop :=
  ∃ t, exec i s = .next t ∧ Keeps s t w [w.slot] [] ∧
    t.ctx? w = some (if x.blocking then { c with run := .parked (p s.ids) }
      else s.after w (c.add { id := s.ids, cls := .mx, dst := none, home := some w.core, both := false })) ∧
    (t.core w.core).cmds = (s.core w.core).cmds ++ [{ x with id := s.ids, slot := w.slot, gen := s.gen w }] ∧
    (t.core w.core).holds = (s.core w.core).holds ++
      [{ id := s.ids, writes := writes.map Foot.range, reads := reads.map Foot.range, after := (s.core w.core).blocked.map accKey }] ∧
    (bits (s.cb w.core 0x0200) 7 4 = 0 → bits (t.cb w.core 0x0200) 7 4 = s.kindMax w.core)

/-- A record of a tile stands where a command can read it at issue (R75, R76): `size` bytes at its multiple, in SRAM outside the save ring, under no
hold, trusted. -/
structure RecordAt (s : State) (w : Who) (a : Word) (size : Nat) : Prop where
  aligned : a.toNat % size = 0
  inside : a.toNat + size ≤ 0x2B0000 ∨ 0x2C0000 ≤ a.toNat ∧ a.toNat + size ≤ 0x300000
  readable : s.readable w a.toNat (a.toNat + size)

/-- One that an instruction reads itself, which the tile's table admits too (R328). -/
structure Record (s : State) (w : Who) (c : Ctx) (a : Word) (size : Nat) : Prop extends RecordAt s w a size where
  admitted : s.admits (.sram w.core (a.toNat / 64 * 64)) c.tag .read (tileAddr w.core (a.toNat / 64 * 64)) = true

/-- The conflict-batching unit takes the instruction (R245): its context parks until the unit has finished it, what it will leave stands last in the
unit, whose state is `u`. Memory, registers
and other contexts are as they were. -/
def UnitTakes (i : Instr) (s : State) (w : Who) (c : Ctx) (d : Option Reg) (v : Word) (at_ : Nat) (out : List Word) (u : Cbu → Prop) : Prop :=
  ∃ t, exec i s = .next t ∧ Keeps s t w [w.slot] [] ∧ t.ctx? w = some { c with run := .parked .cb } ∧ u (t.core w.core).cbu ∧
    (t.core w.core).cbu.busy = (s.core w.core).cbu.busy ++
      [{ slot := w.slot, gen := s.gen w, dst := d.map (·.toNat), value := v, at_ := at_, out := out }]

/-! Control blocks (R4, R184). -/

/-- A context of another core asks for a word of a control block, and its request is admitted at the word's home, which takes it now (R207). -/
structure Asks (s : State) (b : Block) (off : Nat) (a : Access) : Prop where
  word : (s.placeOf (lpaOf a.pa)).isCtl = true ∧ blockOf (s.placeOf (lpaOf a.pa)) = b ∧ ctlOff (s.placeOf (lpaOf a.pa)) = off
  op : ∃ sx, a.op = .load 3 sx
  admits : s.admits (s.placeOf (lpaOf a.pa)) a.tag .read (lpaOf a.pa) = true
  src : a.src.modn = s.modn ∧ a.src.core ≠ s.homeCore (s.placeOf (lpaOf a.pa)) ∧ ∃ r, a.dst = .reg r
  taken : s.homeBusy (s.homeOf a.pa) = false ∧ s.mustWait (s.homeOf a.pa) a (s.core (s.homeOf a.pa)).blocked = false ∧ a.fwd = false

/-- The answer to that request: the word as it shows before any field is cleared. -/
def State.shown (s : State) (b : Block) (off : Nat) (a : Access) : Ev := .loadReply { acc := a, value := s.readBlk b off, status := .ok }

/-- Every word of every control block but one is as it was. -/
def SameWords (s t : State) (b : Block) (off : Nat) : Prop := ∀ x n, (x, n) ≠ (b, off) → t.blk x n = s.blk x n

/-- A read that clears: the word is answered as it stood, and afterwards bits [hi:lo] of it are zero, every other bit as it was (R4). -/
def Clears (i : Instr) (s : State) (b : Block) (off hi lo : Nat) (a : Access) : Prop :=
  ∃ t, exec i s = .next t ∧ t.mem = s.mem ∧ t.pending = s.pending ++ [s.shown b off a] ∧ SameWords s t b off ∧
    ∀ n, n < 64 → (t.blk b off).getLsbD n = (decide (n < lo ∨ hi < n) && (s.blk b off).getLsbD n)

/-- A write that leaves word `off` of a block as `v` and changes nothing else of control blocks, memory or messages. -/
def SetsWord (i : Instr) (s : State) (b : Block) (off : Nat) (v : Word) : Prop :=
  ∃ t, exec i s = .next t ∧ t.mem = s.mem ∧ t.pending = s.pending ∧ t.blk b off = v ∧ SameWords s t b off

end Sys2Proof.Machine
end

