-- ==== Sys2Proof/Certificates/Slice0/Obligations.lean ====
section
/-! DEFINITION. What is claimed of the machine, each statement with the rules of spec/ it rests on. -/
open Sys2Proof Sys2Proof.Machine

/-! Scalar instructions (spec/06). -/

/-- R133: the ALU group. Each instruction completes at 8 cc, writes the value the table gives, reduced to 64 bits, and changes nothing
else but the PC; ADDS and SUBS set OV sticky where they clamp (R128). -/
def Obligations.AluResults : Prop :=
  ∀ (s : State) (w : Who) (c : Ctx) (d a b : Reg) (x y : Word), Issues s w c → Usable s w c [a, b, d] →
    x = s.reg w c a.toNat → y = s.reg w c b.toNat →
    Yields (.add d a b) s w c d (BitVec.ofNat 64 (x.toNat + y.toNat)) ∧
    Yields (.sub d a b) s w c d (BitVec.ofInt 64 ((x.toNat : Int) - y.toNat)) ∧
    Yields (.and d a b) s w c d (x &&& y) ∧
    Yields (.or d a b) s w c d (x ||| y) ∧
    Yields (.xor d a b) s w c d (x ^^^ y) ∧
    Yields (.andn d a b) s w c d (x &&& ~~~y) ∧
    Yields (.shl d a b) s w c d (BitVec.ofNat 64 (x.toNat * 2 ^ (y.toNat % 64))) ∧
    Yields (.shr d a b) s w c d (BitVec.ofNat 64 (x.toNat / 2 ^ (y.toNat % 64))) ∧
    Yields (.sar d a b) s w c d (BitVec.ofInt 64 (x.toInt / (2 ^ (y.toNat % 64) : Nat))) ∧
    Yields (.rol d a b) s w c d
      (BitVec.ofNat 64 (x.toNat * 2 ^ (y.toNat % 64) + x.toNat / 2 ^ (64 - y.toNat % 64))) ∧
    Yields (.min d a b) s w c d (if x.toInt ≤ y.toInt then x else y) ∧
    Yields (.max d a b) s w c d (if x.toInt ≤ y.toInt then y else x) ∧
    Yields (.minn d a b) s w c d (if x.toNat ≤ y.toNat then x else y) ∧
    Yields (.maxn d a b) s w c d (if x.toNat ≤ y.toNat then y else x) ∧
    (∀ (i : Instr) (v : Int), (i = .adds d a b ∧ v = x.toInt + y.toInt) ∨ (i = .subs d a b ∧ v = x.toInt - y.toInt) →
      Writes i s w c ((if -(2 : Int) ^ 63 ≤ v ∧ v < (2 : Int) ^ 63 then c.raise 0 else c.raise fOV).finished (s.now w.core) 1 8) d
        (BitVec.ofInt 64 (max (-(2 : Int) ^ 63) (min ((2 : Int) ^ 63 - 1) v))))

/-- R134, R129: multiply and divide. A divide by zero gives the values of the rule and sets DZ sticky while DZ is not enabled; the divides take 24 cc.
R135, R136: counts, reversals and bit fields. A reversal moves bit i to bit 63 − i, or byte i to byte 7 − i; a field is clipped to the register. -/
def Obligations.MultiplyDivideAndBitResults : Prop :=
  (∀ (s : State) (w : Who) (c : Ctx) (d a b : Reg) (x y : Word), Issues s w c → Usable s w c [a, b, d] →
     x = s.reg w c a.toNat → y = s.reg w c b.toNat →
     Yields (.mul d a b) s w c d (BitVec.ofNat 64 (x.toNat * y.toNat)) ∧
     Yields (.mulh d a b) s w c d (BitVec.ofInt 64 (x.toInt * y.toInt / (2 : Int) ^ 64)) ∧
     Yields (.mulhn d a b) s w c d (BitVec.ofNat 64 (x.toNat * y.toNat / 2 ^ 64)) ∧
     (y ≠ 0 →
       Divides (.div d a b) s w c d (if x.toInt = -(2 : Int) ^ 63 ∧ y.toInt = -1 then fOV else 0) (BitVec.ofInt 64 (x.toInt.tdiv y.toInt)) ∧
       Divides (.divn d a b) s w c d 0 (BitVec.ofNat 64 (x.toNat / y.toNat)) ∧
       Divides (.rem d a b) s w c d 0 (BitVec.ofInt 64 (x.toInt - x.toInt.tdiv y.toInt * y.toInt)) ∧
       Divides (.remn d a b) s w c d 0 (BitVec.ofNat 64 (x.toNat - x.toNat / y.toNat * y.toNat))) ∧
     (y = 0 → bit c.trapen 19 = false →
       Divides (.div d a b) s w c d fDZ (BitVec.allOnes 64) ∧ Divides (.divn d a b) s w c d fDZ (BitVec.allOnes 64) ∧
       Divides (.rem d a b) s w c d fDZ x ∧ Divides (.remn d a b) s w c d fDZ x)) ∧
  (∀ (s : State) (w : Who) (c : Ctx) (d a b : Reg) (x y z : Word), Issues s w c → Usable s w c [a, b, d] →
     x = s.reg w c a.toNat → y = s.reg w c b.toNat → z = s.reg w c d.toNat →
     (∃ v, Yields (.clz d a) s w c d (BitVec.ofNat 64 v) ∧ v ≤ 64 ∧ (∀ k, k < v → x.getLsbD (63 - k) = false) ∧
       (v < 64 → x.getLsbD (63 - v) = true)) ∧
     (∃ v, Yields (.ctz d a) s w c d (BitVec.ofNat 64 v) ∧ v ≤ 64 ∧ (∀ k, k < v → x.getLsbD k = false) ∧ (v < 64 → x.getLsbD v = true)) ∧
     Yields (.popc d a) s w c d (BitVec.ofNat 64 ((List.range 64).countP fun k => x.getLsbD k)) ∧
     (∃ v, Yields (.brev d a) s w c d v ∧ ∀ k, k < 64 → v.getLsbD (63 - k) = x.getLsbD k) ∧
     (∃ v, Yields (.bswap d a) s w c d v ∧
       ∀ k j, k < 8 → j < 8 → v.getLsbD (8 * (7 - k) + j) = x.getLsbD (8 * k + j)) ∧
     (∀ p n : Nat, p = y.toNat % 64 → n = min (y.toNat / 2 ^ 8 % 64 + 1) (64 - p) →
       (∃ v, Yields (.bfx d a b) s w c d v ∧ ∀ k, k < 64 → v.getLsbD k = x.getLsbD (p + min k (n - 1))) ∧
       (∃ v, Yields (.bfxn d a b) s w c d v ∧ ∀ k, k < 64 → v.getLsbD k = (decide (k < n) && x.getLsbD (p + k))) ∧
       (∃ v, Yields (.bfi d a b) s w c d v ∧
         ∀ k, k < 64 → v.getLsbD k = if p ≤ k ∧ k < p + n then x.getLsbD (k - p) else z.getLsbD k)))

/-- R137 to R140, R142: immediates, constants, the PC-relative address and SEL. LDI is one instruction of two words (R54). -/
def Obligations.ImmediateResults : Prop :=
  ∀ (s : State) (w : Who) (c : Ctx) (d a b : Reg) (x y : Word) (i12 : BitVec 12) (sh : BitVec 6) (i19 : BitVec 19) (i48 : BitVec 48)
    (sn : BitVec 1) (p : BitVec 4), Issues s w c → Usable s w c [a, b, d] → x = s.reg w c a.toNat → y = s.reg w c b.toNat →
    Yields (.addi d a i12) s w c d (BitVec.ofInt 64 (x.toInt + i12.toInt)) ∧
    Yields (.andi d a i12) s w c d (x &&& i12.signExtend 64) ∧
    Yields (.ori d a i12) s w c d (x ||| i12.signExtend 64) ∧
    Yields (.xori d a i12) s w c d (x ^^^ i12.signExtend 64) ∧
    Yields (.shli d a sh) s w c d (BitVec.ofNat 64 (x.toNat * 2 ^ sh.toNat)) ∧
    Yields (.shri d a sh) s w c d (BitVec.ofNat 64 (x.toNat / 2 ^ sh.toNat)) ∧
    Yields (.sari d a sh) s w c d (BitVec.ofInt 64 (x.toInt / (2 ^ sh.toNat : Nat))) ∧
    Yields (.roli d a sh) s w c d (BitVec.ofNat 64 (x.toNat * 2 ^ sh.toNat + x.toNat / 2 ^ (64 - sh.toNat))) ∧
    Yields (.lui d i19) s w c d (BitVec.ofInt 64 (i19.toInt * 2 ^ 12)) ∧
    Yields (.addpc d i19) s w c d (c.pc + BitVec.ofInt 64 i19.toInt) ∧
    Yields (.sel d a b sn p) s w c d (if c.pred p.toNat = !(sn == 1) then x else y) ∧
    Writes (.ldi d i48) s w c (c.finished (s.now w.core) 2 8) d (BitVec.ofInt 64 i48.toInt) ∧
    Writes (.ldiN d i48) s w c (c.finished (s.now w.core) 2 8) d (BitVec.ofNat 64 i48.toNat)

/-- R61, R141, R143: CMP, CMPI and PLOG write one predicate, p0 apart, and nothing else. -/
def Obligations.PredicateResults : Prop :=
  ∀ (s : State) (w : Who) (c : Ctx) (a b : Reg) (x y : Word) (i12 : BitVec 12) (cond : BitVec 3) (p q r : BitVec 4) (f : BitVec 5),
    Issues s w c → Usable s w c [a, b] → x = s.reg w c a.toNat → y = s.reg w c b.toNat →
    SetsPred (.cmp cond p a b) s w c p (compares cond x y) ∧
    SetsPred (.cmpi cond p a i12) s w c p (compares cond x (i12.signExtend 64)) ∧
    (f.toNat < 8 → SetsPred (.plog p q r f) s w c p
      ([c.pred q.toNat && c.pred r.toNat, c.pred q.toNat || c.pred r.toNat, xor (c.pred q.toNat) (c.pred r.toNat),
        c.pred q.toNat && !c.pred r.toNat, c.pred q.toNat || !c.pred r.toNat, !(c.pred q.toNat && c.pred r.toNat),
        !(c.pred q.toNat || c.pred r.toNat), !(xor (c.pred q.toNat) (c.pred r.toNat))].getD f.toNat false))

/-- R128, R129, R148 to R152: a floating-point instruction none of whose flags is enabled to trap writes the result of the one rounding function and sets
those flags sticky; FSGN, FABS, FNEG and FCLASS raise none, and FCMP writes a predicate. The table floatRow names FADD, FSUB, FMUL, FFMA, FMIN, FMAX,
FDIV, FSQRT, FRCP, FRSQ, FEXP2, FLOG2 and FCVT. FEXP2 and FLOG2 are computed by a series whose correct rounding was not proved (log 9), and FLOG2 of 1
has a plus sign (log 31). -/
def Obligations.FloatResults : Prop :=
  ∀ (s : State) (w : Who) (c : Ctx), Issues s w c →
    (∀ i rs d k r, floatRow (fun q => s.reg w c q.toNat) i = some (rs, d, k, r) → Usable s w c rs → r.2 &&& c.enabled = 0 →
      Writes i s w c ((c.raise r.2).finished (s.now w.core) 1 k) d (BitVec.ofNat 64 r.1)) ∧
    (∀ (d a b : Reg) (x y : Word) (cond : BitVec 3) (p : BitVec 4) (r : Bool × Flags), Usable s w c [a, b, d] →
      x = s.reg w c a.toNat → y = s.reg w c b.toNat → r = fCompare cond.toNat (single x) (single y) →
      Yields (.fsgn d a b) s w c d ((x &&& 0x7FFFFFFF) ||| (y &&& 0x80000000)) ∧
      Yields (.fabs d a) s w c d (x &&& 0x7FFFFFFF) ∧
      Yields (.fneg d a) s w c d ((x &&& 0xFFFFFFFF) ^^^ 0x80000000) ∧
      (∃ k, k < 10 ∧ Yields (.fclass d a) s w c d (BitVec.ofNat 64 (2 ^ k)) ∧ k = fClassBit fp32 (x.toNat % 2 ^ 32)) ∧
      (r.2 &&& c.enabled = 0 → SetsPred (.fcmp cond p a b) s w (c.raise r.2) p r.1))

/-- R128, R151: a floating-point instruction that would raise an enabled flag takes FPEXC with every flag it would have raised in tval, and
a divide by zero with DZ enabled takes DIVZERO; nothing is written before. -/
def Obligations.FlagTraps : Prop :=
  ∀ (s : State) (w : Who) (c : Ctx), Issues s w c → (∀ p, c.role ≠ .top p) →
    (∀ i rs d k r, floatRow (fun q => s.reg w c q.toNat) i = some (rs, d, k, r) → Usable s w c rs → r.2 &&& c.enabled ≠ 0 →
      Traps i s w c .fpexc (r.2.setWidth 64)) ∧
    (∀ (d a b : Reg) (x y : Word) (cond : BitVec 3) (p : BitVec 4) (f : Flags), Usable s w c [a, b, d] →
      x = s.reg w c a.toNat → y = s.reg w c b.toNat →
      (f = (fCompare cond.toNat (single x) (single y)).2 → f &&& c.enabled ≠ 0 →
        Traps (.fcmp cond p a b) s w c .fpexc (f.setWidth 64)) ∧
      (y = 0 → bit c.trapen 19 = true → ∀ i, i = .div d a b ∨ i = .divn d a b ∨ i = .rem d a b ∨ i = .remn d a b →
        Traps i s w c .divzero 8))

/-- R38, R145, R146: CRD copies a control register as it stands; CWR writes the writable bits of one, after the frame has advanced. Neither changes
another register. R37, R39, R40, R146, R337: what a CWR leaves in the control registers it writes, by the writer's mode; alloc, ctr, grp, slotid,
tileid and, in U, the registers of the supervisor are read-only. -/
def Obligations.ControlRegisters : Prop :=
  (∀ (s : State) (w : Who) (c : Ctx) (d a : Reg) (n : BitVec 8), Issues s w c → Usable s w c [a, d] →
     ¬(c.mode = .u ∧ (n = 0x08 ∨ n = 0x09 ∨ n = 0x0A)) →
     Yields (.crd d n) s w c d (s.ctlReg w c n.toNat) ∧
     (¬(c.kind = .migrant ∧ c.mode = .u ∧ (n = 0x02 ∨ n = 0x03)) →
       Becomes (.cwr a n) s w ((c.finished (s.now w.core) 1 8).writeCtl c.mode n.toNat (s.reg w c a.toNat)))) ∧
  (∀ (s : State) (w : Who) (c : Ctx) (m : Mode) (v : Word),
     (∀ n, n = 0x05 ∨ 0x0C ≤ n ∧ n ≤ 0x0F → c.writeCtl m n v = c) ∧
     s.ctlReg w (c.writeCtl m 0x01 v) 0x01 = v &&& 0xFF ∧
     s.ctlReg w (c.writeCtl m 0x02 v) 0x02 = v &&& 0xFC7FFFFFFFFFFFFF ∧
     s.ctlReg w (c.writeCtl m 0x03 v) 0x03 = v &&& 0xFC7FFFFFFFFFFFFF ∧
     s.ctlReg w (c.writeCtl m 0x04 v) 0x04 = v &&& 7 ∧
     (c.writeCtl m 0x00 v).pw.setWidth 64 = (v &&& 0x3FFFFE) ||| (c.pw.setWidth 64 &&& 0xFFC00001) ∧
     (m = .u → ∀ n, n = 0x06 ∨ 0x08 ≤ n ∧ n ≤ 0x0B ∨ n = 0x10 → c.writeCtl m n v = c) ∧
     (m ≠ .u → (c.writeCtl m 0x09 v).epc = v &&& ~~~3 ∧ (c.writeCtl m 0x0A v).tval = v ∧
       (c.writeCtl m 0x08 v).cause = (v &&& 0x803F) ||| (c.cause &&& ~~~0x803F)))

/-! Control flow, frames, contexts (spec/14). -/

/-- R294, R302, R303: branches, calls and jumps, NOP and YIELD. The target of JR is read before the link is written; CALL and JR to x0 discard the link;
YIELD gives up lent positions until the context's own comes round. R294: a JR whose target is no multiple of 4 traps ALIGN with the target in tval,
its link unwritten. -/
def Obligations.ControlTransfers : Prop :=
  (∀ (s : State) (w : Who) (c : Ctx), Issues s w c →
     (∀ p sn (o : BitVec 20), (c.pred p.toNat = !(sn == 1) → Becomes (.br p sn o) s w (s.jumped w c (c.pc + BitVec.ofInt 64 (4 * o.toInt)))) ∧
       (c.pred p.toNat = (sn == 1) → Becomes (.br p sn o) s w (s.after w c))) ∧
     (∀ d (o : BitVec 19), Usable s w c [d] →
       Writes (.call d o) s w c (s.jumped w c (c.pc + BitVec.ofInt 64 (4 * o.toInt))) d (c.pc + 4)) ∧
     (∀ d a (o : BitVec 12) (t : Word), Usable s w c [a, d] → t = s.reg w c a.toNat + BitVec.ofInt 64 o.toInt → t.toNat % 4 = 0 →
       Writes (.jr d a o) s w c (s.jumped w c t) d (c.pc + 4)) ∧
     Becomes .nop s w (s.after w c) ∧
     Becomes .yield s w { s.after w c with yielded := s.now w.core + 1 + (w.slot + 63 - s.now w.core % 64) % 64 }) ∧
  (∀ (s : State) (w : Who) (c : Ctx) (d a : Reg) (o : BitVec 12) (t vec : Word), Issues s w c → Usable s w c [a, d] →
     Delivers s w c vec → t = s.reg w c a.toNat + BitVec.ofInt 64 o.toInt → t.toNat % 4 ≠ 0 →
     ∃ u c', exec (.jr d a o) s = .next u ∧ Changes s u w c' [] ∧ Entered s w c c' c.pc t vec .sync .align)

/-- R295, R296, R297: a REPF outside a frame, whose instructions can all be fetched and nest nothing, starts the frame or, with count 0, skips it. `u` is
the state after the fetches. R297 steps 1 and 3: a REPF of either form while a frame is in progress traps REPFNEST at itself; one whose frame would
hold an instruction that nests traps REPFNEST with that instruction's address, after the fetches that leave the state as `u`. An LDI counts as one
instruction of two words (log 30). -/
def Obligations.FrameStarts : Prop :=
  (∀ (s u : State) (w : Who) (c : Ctx) (n : BitVec 4) (st m : BitVec 3) (len cnt : Nat) (i : Instr), Issues s w c →
     c.repst.getLsbD 63 = false → State.frameWords w c (n.toNat + 1) (c.pc + 4) 0 s = (u, .words len) →
     ((∃ k : BitVec 15, i = .repfConstant n st m k ∧ cnt = k.toNat) ∨
       ∃ a, i = .repfRegister n st m a ∧ Usable s w c [a] ∧ cnt = (s.reg w c a.toNat).toNat % 2 ^ 16) →
     ∃ t c', exec i s = .next t ∧ Changes u t w c' [] ∧
       (cnt = 0 → c' = c.finished (s.now w.core) (1 + len) 8) ∧
       (cnt ≠ 0 → c'.pc = c.pc + 4 ∧ c'.repst = BitVec.ofNat 64 (2 ^ 63 + n.toNat * 2 ^ 58 + st.toNat * 2 ^ 55 + m.toNat * 2 ^ 52
         + (len - 1) * 2 ^ 47 + cnt * 2 ^ 16) ∧ { c' with repst := c.repst } = s.after w c)) ∧
  (∀ (s u : State) (w : Who) (c : Ctx) (n : BitVec 4) (st m : BitVec 3) (vec at_ : Word) (i : Instr), Issues s w c → Delivers s w c vec →
     ((∃ k : BitVec 15, i = .repfConstant n st m k) ∨ ∃ a, i = .repfRegister n st m a ∧ Usable s w c [a]) →
     (c.repst.getLsbD 63 = true → ∃ t c', exec i s = .next t ∧ Changes s t w c' [] ∧ Entered s w c c' c.pc c.pc vec .sync .repfnest) ∧
     (c.repst.getLsbD 63 = false → State.frameWords w c (n.toNat + 1) (c.pc + 4) 0 s = (u, .nest at_) → exec i s = trapNow u w c .repfnest at_))

/-- R298: after an instruction of `len` words in an active frame, the position and offset advance; at the last position the next iteration begins at the
frame's first word; after the last iteration repst is zero and the PC is past the frame. Outside a frame the PC alone advances. An LDI counts as one
instruction of two words (log 30). -/
def Obligations.FrameAdvance : Prop :=
  ∀ (c : Ctx) (now len k pos off iter : Nat), pos = bits c.repst 41 38 → off = bits c.repst 46 42 → iter = bits c.repst 15 0 →
    off + len < 32 →
    (c.framing = false → (c.finished now len k).pc = c.pc + BitVec.ofNat 64 (4 * len) ∧ (c.finished now len k).repst = c.repst) ∧
    (c.framing = true →
      (pos < bits c.repst 61 58 →
        (c.finished now len k).pc = c.pc + BitVec.ofNat 64 (4 * len) ∧ bits (c.finished now len k).repst 41 38 = pos + 1 ∧
        bits (c.finished now len k).repst 46 42 = off + len ∧ bits (c.finished now len k).repst 15 0 = iter ∧
        bits (c.finished now len k).repst 63 47 = bits c.repst 63 47 ∧ bits (c.finished now len k).repst 31 16 = bits c.repst 31 16) ∧
      (bits c.repst 61 58 ≤ pos → iter + 1 < bits c.repst 31 16 →
        (c.finished now len k).pc = c.pc - BitVec.ofNat 64 (4 * off) ∧ bits (c.finished now len k).repst 41 38 = 0 ∧
        bits (c.finished now len k).repst 46 42 = 0 ∧ bits (c.finished now len k).repst 15 0 = iter + 1 ∧
        bits (c.finished now len k).repst 63 47 = bits c.repst 63 47 ∧ bits (c.finished now len k).repst 31 16 = bits c.repst 31 16) ∧
      (bits c.repst 61 58 ≤ pos → bits c.repst 31 16 ≤ iter + 1 →
        (c.finished now len k).pc = c.pc - BitVec.ofNat 64 (4 * off) + BitVec.ofNat 64 (4 * (bits c.repst 51 47 + 1)) ∧
        (c.finished now len k).repst = 0))

/-- R32, R35, R43, R274, R304: EXIT with nothing outstanding ends the context: the slot is empty, its generation one higher, its registers stripped, its
charge withdrawn with a −1; no byte of memory changes. The step at which an exit is done is the model's choice (log 5). -/
def Obligations.ExitRetires : Prop :=
  ∀ (s : State) (w : Who) (c : Ctx), Issues s w c → c.alone → c.out = [] → ¬(c.mode = .u ∧ bit c.trapen 11 = true ∧ s.holdings w c ≠ 0) →
    ∃ t, exec .exit s = .next t ∧ t.ctx? w = none ∧ t.gen w = s.gen w + 1 ∧ t.mem = s.mem ∧
      (∀ e, c.base ≤ e → e < c.base + c.lim → t.fileEntry w.core e = RegEntry.stripped) ∧ .stripDone w.core w.slot ∈ t.pending ∧
      (c.dref.getLsbD 63 = true →
        .drainDown (.core (drefCore c.dref)) (.core (drefCore c.dref)) (drefRoot c.dref) true false false (some (s.src w, c.tag)) ∈ t.pending)

/-- R305, R306: TSTART makes a context where a slot and registers are free, with its PC, its argument in x1 and its creator's privilege, ASID, partition
and class, and answers its handle, or all ones where none is free or the reticle has PVAL = 0 (log 61). An uncharged creator's child is Ready; one
charged to a tree is Placed until its charge is acknowledged. R306: TSTOP kills the resident context that its handle names, and does nothing where
that generation has gone. That TSTOP compares the privileges the contexts were made with, the answer for one of another partition or ASID, and that a
reticle of no partition has no slot for a child are the model's reading (logs 24, 61). -/
def Obligations.ThreadStartsAndStops : Prop :=
  (∀ (s : State) (w : Who) (c : Ctx) (d a b : Reg) (pc v : Word) (n : Nat), Issues s w c → c.alone → w.slot < 63 → c.kind ≠ .migrant →
     Usable s w c [a, b, d] → c.count .ld < 15 → pc = s.reg w c a.toNat → v = s.reg w c b.toNat → n = v.toNat % 2 ^ 32 →
     pc.toNat % 4 = 0 → n % 8 = 0 → 8 ≤ n → n ≤ 128 →
     ((s.core w.core).ringCount ≠ 0 ∨ s.pval (coreRet w.core) = false ∨ (s.core w.core).place w.core n = none →
       Yields (.tstart d a b) s w c d (BitVec.allOnes 64)) ∧
     (∀ sl base, (s.core w.core).ringCount = 0 → s.pval (coreRet w.core) = true → (s.core w.core).place w.core n = some (sl, base) →
       c.dref.getLsbD 63 = false →
       ∃ t k, exec (.tstart d a b) s = .next t ∧ t.ctx? { core := w.core, slot := sl } = some k ∧ k.run = .ready ∧ k.pc = pc ∧
         k.base = base ∧ k.lim = n ∧ k.mode = k.prv ∧ (c.prv = .u → k.prv = .u) ∧ (c.prv ≠ .u → k.prv = .s) ∧ k.asid = c.asid ∧
         k.part = c.part ∧ k.ecls = c.ecls ∧ t.reg { core := w.core, slot := sl } k 1 = BitVec.ofInt 64 ((v.extractLsb' 32 32).toInt) ∧
         t.ctx? w = some (s.after w c) ∧ (d ≠ 0 → t.reg w c d.toNat =
           BitVec.ofNat 64 ((s.gen { core := w.core, slot := sl }).toNat * 2 ^ 16 + sl)) ∧ Keeps s t w [w.slot, sl] ((List.range n).map (base + ·) ++ c.touches d)) ∧
     (∀ sl base, (s.core w.core).ringCount = 0 → s.pval (coreRet w.core) = true → (s.core w.core).place w.core n = some (sl, base) →
       c.dref.getLsbD 63 = true →
       ∃ t k o, exec (.tstart d a b) s = .next t ∧ t.ctx? { core := w.core, slot := sl } = some k ∧ k.run = .placed ∧ k.pc = pc ∧
         t.ctx? w = some (s.after w (c.add o)) ∧ o.cls = .ld ∧ o.dst = some d.toNat ∧
         (d ≠ 0 → (t.regEntry w c d.toNat).pres = .owed) ∧ Keeps s t w [w.slot, sl] ((List.range n).map (base + ·) ++ c.touches d) ∧ t.pending.length = s.pending.length + 1)) ∧
  (∀ (s : State) (w t : Who) (c x : Ctx) (a : Reg) (h : Word), Issues s w c → c.alone → Usable s w c [a] → h = s.reg w c a.toNat →
     h.toNat < 2 ^ 32 → bits h 15 6 = 0 → t = { core := w.core, slot := h.toNat % 64 } →
     ((s.gen t).toNat ≠ h.toNat / 2 ^ 16 → Becomes (.tstop a) s w (s.after w c)) ∧
     ((s.gen t).toNat = h.toNat / 2 ^ 16 → s.ctx? t = some x → x.kind = .resident → x.role = .single → t ≠ w → x.asid = c.asid →
       x.part = c.part → modeCode x.prv ≤ modeCode c.prv →
       ∃ u, exec (.tstop a) s = .next u ∧ u.ctx? t = none ∧ u.gen t = s.gen t + 1 ∧ u.ctx? w = some (s.after w c) ∧ u.mem = s.mem ∧
         ∀ r, r < x.lim → u.fileEntry t.core (x.base + r) = RegEntry.stripped))

/-! Traps, system calls, privilege (spec/16). -/

/-- R339, R337: taking a trap that is delivered at once saves x1 to x4, the resumption PC, the value and the cause, suspends a frame, enters mode S at the
vector of the context's privilege, and changes nothing outside the context. R340, R44, R366: a trap in F parks its context; one in a handler, or
without a valid vector, kills it with its slot's generation raised and its registers stripped. What the entry does with a trap that must wait, and
with a register that is lost, is the model's reading (logs 23, 55). -/
def Obligations.TrapEntry : Prop :=
  (∀ (s : State) (w : Who) (c : Ctx) (e v vec : Word) (k : TrapKind) (cz : Cause), s.ctx? w = some c → Delivers s w c vec →
     ∃ c', Changes s (s.trap w e v k cz) w c' [] ∧ Entered s w c c' e v vec k cz ∧
       vec = s.cb w.core (if c.prv = .s then 0x0808 else 0x0800) &&& ~~~3) ∧
  (∀ (s : State) (w : Who) (c : Ctx) (e v : Word) (k : TrapKind) (cz : Cause), s.ctx? w = some c → c.alone → c.kind ≠ .message →
     (c.mode ≠ .f → (c.inh = true ∨ s.vector w c = none) →
       (s.trap w e v k cz).ctx? w = none ∧ (s.trap w e v k cz).gen w = s.gen w + 1 ∧ (s.trap w e v k cz).mem = s.mem ∧
       ∀ r, r < c.lim → (s.trap w e v k cz).fileEntry w.core (c.base + r) = RegEntry.stripped) ∧
     (c.mode = .f → (s.action (coreRet w.core) 11 2) = 0 → Changes s (s.trap w e v k cz) w { c with run := .parked .machchk } []))

/-- R345: TRAP takes BRKPT with its code at itself, and HCALL in U takes HCALL in the same way. R345: HCALL above U. With no firmware context in the
reticle, or from F, x1 and x2 take their answers at once; else, with ctr.LD and ctr.ST zero and room in the queue, the request leaves with x1 to x4,
both result registers are owed and ctr.LD rises. R345, R352: an HCALL request enters the queue of its reticle's firmware context; the answer writes x1
and x2 of the caller, whose ctr.LD falls, and is discarded by a slot of another generation. The request and its answer are messages of the model (log
4). -/
def Obligations.SystemAndFirmwareCalls : Prop :=
  (∀ (s : State) (w : Who) (c : Ctx) (k : BitVec 10) (vec : Word), Issues s w c → Delivers s w c vec →
     (∃ u c', exec (.trap k) s = .next u ∧ Changes s u w c' [] ∧ Entered s w c c' c.pc (BitVec.ofNat 64 k.toNat) vec .sync .brkpt) ∧
     (c.mode = .u →
       ∃ u c', exec (.hcall k) s = .next u ∧ Changes s u w c' [] ∧ Entered s w c c' c.pc (BitVec.ofNat 64 k.toNat) vec .sync .hcall)) ∧
  (∀ (s : State) (w : Who) (c : Ctx) (k : BitVec 10), Issues s w c → c.alone → c.mode ≠ .u → Usable s w c [1, 2, 3, 4] →
     (c.mode = .f ∨ s.hasFirmware (coreRet w.core) = false →
       ∃ t, exec (.hcall k) s = .next t ∧ Changes s t w (s.after w c) [c.entry 1, c.entry 2] ∧
         t.reg w c 1 = BitVec.allOnes 64 ∧ t.reg w c 2 = 0) ∧
     (c.mode = .s → s.hasFirmware (coreRet w.core) = true → c.count .mx ≤ 15 → c.count .cp ≤ 15 → c.count .ld = 0 →
       c.count .st = 0 → s.hcalls (fwCore w.core) < 16 →
       ∃ t u o q, exec (.hcall k) s = .next t ∧ Changes u t w { s.after w (c.add o) with hcall := some s.ids } [c.entry 1, c.entry 2] ∧
         u = ({ s with ids := s.ids + 1 } : State).push (.hcallRequest q) ∧ o.cls = .ld ∧ o.id = s.ids ∧
         (t.regEntry w c 1).pres = .owed ∧ (t.regEntry w c 2).pres = .owed ∧ q.code = k.toNat ∧ q.part = c.part ∧ q.asid = c.asid ∧
         q.src = s.src w ∧ q.args = [s.reg w c 1, s.reg w c 2, s.reg w c 3, s.reg w c 4])) ∧
  (∀ (s : State) (w : Who) (c : Ctx),
     (∀ q, s.ev = some (.hcallRequest q) → ∃ t, exec .hcallRequest s = .next t ∧ t.mem = s.mem ∧ t.pending = s.pending ∧
       (t.core (fwCore q.src.core)).hcq = (s.core (fwCore q.src.core)).hcq ++ [q] ∧ ∀ v, t.ctx? v = s.ctx? v) ∧
     (∀ g v1 v2 o, s.ev = some (.hcallReply w.core w.slot g v1 v2) → s.ctx? w = some c → c.hcall = some o.id → c.op? o.id = some o → o.dst = some 1 →
       o.both = false →
       (s.gen w ≠ g → exec .hcallReply s = .next s) ∧
       (s.gen w = g → ∃ t, exec .hcallReply s = .next t ∧ Changes s t w { c.done o.id with hcall := none } [c.entry 1, c.entry 2] ∧
         t.regEntry w c 1 = { val := v1, pres := .present, bad := false } ∧ t.regEntry w c 2 = { val := v2, pres := .present, bad := false })))

/-- R300, R346: ERET in a handler returns: INH falls, the mode is the saved one, the PC is epc, and a suspended frame goes on unless it
breaks R300. -/
def Obligations.ExceptionReturn : Prop :=
  ∀ (s : State) (w : Who) (c : Ctx), Issues s w c → c.alone → c.mode ≠ .u → c.inh = true →
    ∃ t c', exec .eret s = .next t ∧ Changes s t w c' [] ∧ c'.pc = c.epc ∧ c'.mode = modeOf (bits c.cause 13 12) ∧
      (∀ n, n < 64 → c'.cause.getLsbD n = (decide (n ≠ 15) && c.cause.getLsbD n)) ∧
      (badFrame c.repst = false → ∀ n, n < 64 → c'.repst.getLsbD n = (decide (n ≠ 62) && c.repst.getLsbD n)) ∧
      (badFrame c.repst = true → c'.repst = c.repst) ∧ c'.epc = c.epc ∧ c'.tval = c.tval ∧ c'.tsv = c.tsv ∧ c'.prv = c.prv ∧
      c'.pw = c.pw ∧ c'.base = c.base ∧ c'.lim = c.lim

/-- R73, R346, R356: a privileged instruction below its mode traps PRIV with its word, before anything else; ERET outside a handler traps
ILLOP. -/
def Obligations.PrivilegeTraps : Prop :=
  ∀ (s : State) (w : Who) (c : Ctx) (d a b : Reg) (vec : Word) (i : Instr), Issues s w c → Delivers s w c vec →
    (c.mode = .u → i = .eret ∨ i = .ctxsv d a b ∨ i = .ctxld d a ∨ i = .tlbi a b ∨ i = .prd d a ∨ i = .pwr a b ∨ i = .strip a ∨
        i = .freeze a b ∨ i = .sevset a b →
      ∃ u c', exec i s = .next u ∧ Changes s u w c' [] ∧ Entered s w c c' c.pc (s.ir.setWidth 64) vec .sync .priv) ∧
    (c.mode = .s →
      ∃ u c', exec (.sevset a b) s = .next u ∧ Changes s u w c' [] ∧ Entered s w c c' c.pc (s.ir.setWidth 64) vec .sync .priv) ∧
    (c.mode = .s →
      ∃ u c', exec .eret s = .next u ∧ Changes s u w c' [] ∧ Entered s w c c' c.pc (s.ir.setWidth 64) vec .sync .illop)
/-- R352: PRD copies a register of the issuer or, with OTH, a register, a control register or the PC of a context frozen by FREEZE. R352: PWR writes TSV
words, in F the drainage reference, the staged reply values and the reply itself, and, with OTH, a register, a control register or the PC of a context
frozen by FREEZE; a read-only register stays as it was. That a write-only register reads 0, and which members of a pair OTH reaches, are the model's
reading (log 24). -/
def Obligations.PrivilegedReadsAndWrites : Prop :=
  (∀ (s : State) (w : Who) (c : Ctx) (d a : Reg) (sel : Word), Issues s w c → c.alone → c.mode ≠ .u → Usable s w c [a, d] →
     sel = s.reg w c a.toNat →
     (∀ n v, sel.toNat = n → n < 4 → c.tsv[n]? = some (v, true) → Yields (.prd d a) s w c d v) ∧
     (sel = 0x010 → Yields (.prd d a) s w c d c.dref) ∧
     (sel = 0x018 → Yields (.prd d a) s w c d c.pendWord) ∧
     (∀ q r, sel = 0x200 → c.mode = .f → (s.core w.core).hcq = q :: r →
       ∃ t, exec (.prd d a) s = .next t ∧ t.ctx? w = some (s.after w c) ∧ (t.core w.core).hcq = r ∧ (t.core w.core).hcPop = q.args ∧
         Keeps s t w [w.slot] (c.touches d) ∧ (d ≠ 0 → t.reg w c d.toNat = BitVec.ofNat 64 (2 ^ 63 + coreRet q.src.core * 2 ^ 48 + coreTile q.src.core * 2 ^ 40
           + q.src.slot * 2 ^ 32 + q.src.gen.toNat * 2 ^ 16 + q.code))) ∧
     (sel = 0x200 → c.mode = .f → (s.core w.core).hcq = [] → Yields (.prd d a) s w c d 0) ∧
     (∀ n, sel.toNat = 0x201 + n → n < 4 → c.mode = .f → Yields (.prd d a) s w c d ((s.core w.core).hcPop.getD n 0)) ∧
     (∀ n t x, sel.toNat = 2 ^ 23 + t.slot * 2 ^ 16 + n → t.core = w.core → t.slot < 64 → n < 2 ^ 12 → s.ctx? t = some x → t ≠ w →
       x.run = .frozen → x.kind = .resident → x.part = c.part → modeCode x.prv ≤ modeCode c.prv →
       (n < x.lim → (s.regEntry t x n).bad = false → Yields (.prd d a) s w c d (s.reg t x n)) ∧
       (x.lim ≤ n → 0x080 ≤ n → n ≤ 0x090 → Yields (.prd d a) s w c d (s.ctlReg t x (n - 0x080))) ∧
       (x.lim ≤ n → n = 0x0A0 → Yields (.prd d a) s w c d x.pc))) ∧
  (∀ (s : State) (w : Who) (c : Ctx) (a b : Reg) (sel v : Word), Issues s w c → c.alone → c.mode ≠ .u → Usable s w c [a, b] →
     sel = s.reg w c a.toNat → v = s.reg w c b.toNat →
     (∀ n, sel.toNat = n → n < 4 → Becomes (.pwr a b) s w (s.after w { c with tsv := c.tsv.set n (v, true) })) ∧
     (sel = 0x010 → c.mode = .f → Becomes (.pwr a b) s w (s.after w { c with dref := v &&& 0xFFFE1FFFFFFFFFFF })) ∧
     (sel = 0x010 ∧ c.mode = .s ∨ sel = 0x018 → Becomes (.pwr a b) s w (s.after w c)) ∧
     (∀ n, n < 2 → sel.toNat = 0x209 + n → c.mode = .f →
       ∃ t, exec (.pwr a b) s = .next t ∧ t.ctx? w = some (s.after w c) ∧ (t.core w.core).hcStage.getD n 0 = v ∧
         (t.core w.core).hcStage.getD (1 - n) 0 = (s.core w.core).hcStage.getD (1 - n) 0 ∧ Keeps s t w [w.slot] []) ∧
     (sel = 0x208 → c.mode = .f → v.getLsbD 63 = true →
       ∃ t, exec (.pwr a b) s = .next t ∧ Changes (s.push (.hcallReply (coreId (bits v 53 48) (bits v 47 40)) (bits v 37 32)
         (BitVec.ofNat 16 (bits v 31 16)) ((s.core w.core).hcStage.getD 0 0) ((s.core w.core).hcStage.getD 1 0))) t w (s.after w c) []) ∧
     (∀ n t x, sel.toNat = 2 ^ 23 + t.slot * 2 ^ 16 + n → t.core = w.core → t.slot < 64 → n < 2 ^ 12 → s.ctx? t = some x → t ≠ w →
       x.run = .frozen → x.kind = .resident → x.part = c.part → modeCode x.prv ≤ modeCode c.prv →
       (n < x.lim → ∃ u, exec (.pwr a b) s = .next u ∧ Changes s u w (s.after w c) (if n = 0 then [] else [x.base + n]) ∧
         u.reg t x n = if n = 0 then 0 else v) ∧
       (x.lim ≤ n → 0x080 ≤ n → n ≤ 0x090 → ∃ u, exec (.pwr a b) s = .next u ∧ u.ctx? w = some (s.after w c) ∧
         u.ctx? t = some (x.writeCtl c.mode (n - 0x080) v) ∧ Keeps s u w [w.slot, t.slot] []) ∧
       (x.lim ≤ n → n = 0x0A0 → ∃ u, exec (.pwr a b) s = .next u ∧ u.ctx? w = some (s.after w c) ∧
         u.ctx? t = some { x.unheld with pc := v &&& ~~~3, heldTrap := none } ∧ Keeps s u w [w.slot, t.slot] [])))

/-- R353 to R356: TLBI sends a removal to every core and parks until each has acknowledged; STRIP zeroes a range of registers; FREEZE stops a context and
thaws it; SEVSET writes one action of the severity matrix of its reticle. STRIP of an operand with a bit set outside its fields is the model's reading
(log 27). -/
def Obligations.PrivilegedActions : Prop :=
  ∀ (s : State) (w : Who) (c : Ctx) (a b : Reg) (x y : Word), Issues s w c → c.alone → c.mode ≠ .u → Usable s w c [a, b] →
    x = s.reg w c a.toNat → y = s.reg w c b.toNat →
    (∃ t u q, exec (.tlbi a b) s = .next t ∧ u = s.pushAll ((s.cores.map (·.1)).map fun k => Ev.tlbRemoval k q) ∧
      Changes u t w { c with run := .parked (.tlbi s.cores.length) } [] ∧ q.part = c.part ∧ q.va = x ∧ q.asid = y.toNat % 2 ^ 12 ∧
      q.scope = y.toNat / 2 ^ 16 % 4 ∧ q.core = w.core ∧ q.slot = w.slot ∧ q.gen = s.gen w) ∧
    (∀ first n, x.toNat = n * 2 ^ 8 + first → first < 128 → 0 < first → n < 128 → first + n ≤ c.lim →
      (∀ r, first ≤ r → r < first + n → (s.regEntry w c r).pres = .present) →
      ∃ t, exec (.strip a) s = .next t ∧ Changes s t w (c.finished (s.now w.core) 1 (8 + (n + 7) / 8)) ((List.range n).map (c.base + first + ·)) ∧
        ∀ r, first ≤ r → r < first + n → t.regEntry w c r = RegEntry.stripped) ∧
    (∀ t z, s.target w c x = .ctx t z → z.role = .single → z.cond = none → z.run = .ready → z.busy = none →
      y.getLsbD 0 = true → ∃ u, exec (.freeze a b) s = .next u ∧ u.ctx? w = some (s.after w c) ∧
        u.ctx? t = some { z with run := .frozen, busy := none } ∧ Keeps s u w [w.slot, t.slot] []) ∧
    (∀ t z, s.target w c x = .ctx t z → z.role = .single → z.run = .frozen → z.busy = none → y.getLsbD 0 = false →
      ∃ u z', exec (.freeze a b) s = .next u ∧ u.ctx? w = some (s.after w c) ∧ u.ctx? t = some z' ∧ z'.run = .ready ∧ z'.pc = z.pc ∧
        z'.base = z.base ∧ Keeps s u w [w.slot, t.slot] []) ∧
    (s.target w c x = .stale → Becomes (.freeze a b) s w (s.after w c)) ∧
    (∀ cls kind, c.mode = .f → x.toNat = cls * 2 ^ 8 + kind → cls ≤ 13 → kind ≤ 7 → y.toNat ≤ 4 →
      ∃ t, exec (.sevset a b) s = .next t ∧ t.ctx? w = some (s.after w c) ∧ t.action (coreRet w.core) cls kind = y.toNat ∧
        (∀ k l, (k, l) ≠ (cls, kind) → l ≤ 7 → t.action (coreRet w.core) k l = s.action (coreRet w.core) k l) ∧ Keeps s t w [w.slot] [])

/-- R349: CTXSV, at its issue, owes its result, counts in ctr.LD and stops a target that no other save has; a handle whose generation has gone answers 1
at once. `pas` are the places of the area's lines once translated. R347: the 768 words of a save area: the PC, the control registers, the trap
registers with cause PREEMPT, the drainage reference, TSV0 to TSV3, and the registers below the limit, zero from it on. R45, R220, R349: the save of a
context that stands still sends every word of its area, in order, as stores of the issuer; when all have performed the slot is freed, its generation
raised, and the result is the save key, one more than the core's last; when one has failed the target goes on and the result is 3; where the target
has gone it is 1. R350: CTXLD waits for the words of its area, which it reads as loads; once all have come, `l`, and where they are well made, it
creates the context they describe and answers its handle; where no slot and registers are free it answers all ones, and where its borrowed sets cannot
be had all ones but bit 0. The way a save is written, its key and its cause, and the slots of the borrowed sets are the model's reading (logs 25, 26);
the state of a context that is being saved is its choice (log 59). -/
def Obligations.ContextSavesAndLoads : Prop :=
  (∀ (s : State) (w : Who) (c : Ctx) (d a b : Reg) (va : Word) (pas : List Nat), Issues s w c → c.solo → c.mode ≠ .u →
     Usable s w c [a, b, d] → c.cond = none → c.count .ld < 15 → va = s.reg w c a.toNat → va.toNat % 64 = 0 →
     (∀ go, areaLines s w c va .write go = go pas) →
     (s.target w c (s.reg w c b.toNat) = .stale → Yields (.ctxsv d a b) s w c d 1) ∧
     (∀ t x, s.target w c (s.reg w c b.toNat) = .ctx t x → x.role = .single → x.run = .ready → x.busy = none → x.cancelling = none → x.cond = none →
       (∀ p, .saveAreaWrite p ∈ s.pending → p.target ≠ t.slot ∨ p.core ≠ t.core ∨ p.tgen ≠ s.gen t) →
       ∃ u o q, exec (.ctxsv d a b) s = .next u ∧ u.ctx? w = some (s.after w (c.add o)) ∧ o.id = s.ids ∧ o.cls = .ld ∧
         o.dst = some d.toNat ∧ (d ≠ 0 → (u.regEntry w c d.toNat).pres = .owed) ∧ u.ctx? t = some { x with run := .saving, busy := none } ∧
         u.pending = s.pending ++ [.saveAreaWrite q] ∧ q.id = s.ids ∧ q.core = w.core ∧ q.issuer = w.slot ∧ q.igen = s.gen w ∧
         q.target = t.slot ∧ q.tgen = s.gen t ∧ q.va = va ∧ q.pas = pas ∧ q.sent = false ∧ Keeps s u w [w.slot, t.slot] (c.touches d))) ∧
  (∀ (s : State) (w : Who) (c : Ctx) (key : Nat) (l : List Word), c.lim ≤ 128 → c.sets.length ≤ 4 → l = s.areaOf w c key →
     l.length = 768 ∧ l.getD 1 0 = c.pc ∧ l.getD 3 0 = c.fmta ∧ l.getD 4 0 = c.fmtb ∧ l.getD 5 0 = c.repst ∧ l.getD 6 0 = c.wdog ∧
     l.getD 7 0 = c.thrc ∧ l.getD 8 0 = c.trapen ∧ (l.getD 9 0) &&& ~~~0x3F = c.cause &&& ~~~0x3F ∧ bits (l.getD 9 0) 5 0 = causeCode .preempt ∧
     l.getD 10 0 = c.epc ∧ l.getD 11 0 = c.tval ∧ l.getD 12 0 = c.grp ∧ l.getD 13 0 = c.dref ∧ l.getD 15 0 = c.pendWord ∧
     (∀ i v b, i < 4 → c.tsv[i]? = some (v, b) → l.getD (20 + i) 0 = v) ∧
     (∀ r, r < 128 → l.getD (64 + r) 0 = if r < c.lim then (s.fileEntry w.core (c.base + r)).val else 0)) ∧
  (∀ (s : State) (q : SaveReq) (t w : Who) (x c : Ctx) (o : OutOp) (r : Nat), s.ev = some (.saveAreaWrite q) →
     t = { core := q.core, slot := q.target } → w = { core := q.core, slot := q.issuer } → w ≠ t → s.ctx? w = some c → s.gen w = q.igen →
     c.op? q.id = some o → o.dst = some r → o.both = false → 0 < r →
     (s.ctx? t = none → ∃ v, exec .saveAreaWrite s = .next v ∧ Changes s v w (c.done q.id) [c.entry r] ∧ v.reg w c r = 1) ∧
     (s.ctx? t = some x → s.gen t = q.tgen → x.role = .single →
       (q.sent = false → x.run = .saving → x.drained = true → x.busy = none → (∀ n, 0 < n → n < x.lim → (s.regEntry t x n).bad = false) →
         exec .saveAreaWrite s = .next (State.sendSave q.id 768 (s.push (.saveAreaWrite { q with
           sent := true, left := (List.range 768).zip (s.areaOf t x (((s.core q.core).sseq + 1) % 2 ^ 32)) })))) ∧
       (q.sent = true → q.left = [] → q.asked = [] →
         (q.bad = false → x.sets = [] → ∃ v, exec .saveAreaWrite s = .next v ∧ v.mem = s.mem ∧ v.ctx? t = none ∧ v.gen t = s.gen t + 1 ∧
           (v.core q.core).sseq = ((s.core q.core).sseq + 1) % 2 ^ 32 ∧ v.ctx? w = some (c.done q.id) ∧
           v.reg w c r = BitVec.ofNat 64 (((s.core q.core).sseq + 1) % 2 ^ 32 * 2 ^ 32)) ∧
         (q.bad = true → x.resend = none → ∃ v, exec .saveAreaWrite s = .next v ∧ v.mem = s.mem ∧ v.ctx? w = some (c.done q.id) ∧ v.reg w c r = 3 ∧
           v.ctx? t = some { x with run := .ready, spacing := max x.spacing (s.now t.core + 1) })))) ∧
  (∀ (s u : State) (w : Who) (c : Ctx) (d a : Reg) (va : Word) (pas : List Nat) (g : Gather) (l : List Word), Issues s w c → c.solo → c.mode ≠ .u →
     Usable s w c [a, d] → c.cond = none → c.within 15 15 0 0 = true → va = s.reg w c a.toNat → va.toNat % 64 = 0 →
     (∀ go, areaLines s w c va .read go = go pas) → c.gather = some g → g.left = [] → u = s.setCtx w c →
     l = (List.range 768).map (fun i => (mget g.got i).getD 0) →
     (g.asked ≠ [] → Becomes (.ctxld d a) s w { c with stall := some .words }) ∧
     (g.asked = [] → g.bad = none → u.areaTrap w c va l = none →
       (u.areaPlace w.core l = none → ∃ t, exec (.ctxld d a) s = .next t ∧ Changes u t w (u.after w c) (c.touches d) ∧
         (d ≠ 0 → t.reg w c d.toNat = BitVec.allOnes 64)) ∧
       (∀ sl base top, u.areaPlace w.core l = some (sl, base, top) → u.loadArea w.core sl base top l = none →
         ∃ t, exec (.ctxld d a) s = .next t ∧ Changes u t w (u.after w c) (c.touches d) ∧
           (d ≠ 0 → t.reg w c d.toNat = BitVec.allOnes 64 - 1)) ∧
       (∀ sl base v, u.areaPlace w.core l = some (sl, base, none) → u.loadArea w.core sl base none l = some v →
         ∃ t k, exec (.ctxld d a) s = .next t ∧ t.mem = v.mem ∧ t.ctx? { core := w.core, slot := sl } = some k ∧ k.run = .ready ∧ k.base = base ∧
           k.lim = bits (l.getD 0 0) 47 40 ∧ k.asid = bits (l.getD 0 0) 39 28 ∧ k.part = bits (l.getD 0 0) 27 22 ∧ k.pc = l.getD 1 0 &&& ~~~3 ∧
           k.epc = l.getD 10 0 ∧ k.tval = l.getD 11 0 ∧ k.cause = l.getD 9 0 ∧ k.repst = l.getD 5 0 ∧ k.dref = l.getD 13 0 ∧
           t.ctx? w = some (v.after w c) ∧
           (d ≠ 0 → t.reg w c d.toNat = BitVec.ofNat 64 ((v.gen { core := w.core, slot := sl }).toNat * 2 ^ 16 + sl)))))

/-! Memory (spec/09, spec/10). -/

/-- R206, R207, R223, R224, R228: an access to a word of the tile it is issued at performs within its own issue, as the one that the tile's home takes in
this cc: the bytes stored, FE, the answer in the destination register, the counter as before, the word's wait list to be served where FE has changed;
a conditional access whose condition does not hold stays outstanding, its destination owed, and its second attempt follows (R225). Every other byte,
register and context is as it was. The table accessRow names LD, ST, LDFE, LDFF, STEF, STFF, STFE, FEGET, FESET, AMO with and without a fetch,
AMO.CAS.F and RED. -/
def Obligations.AccessesAtOwnTile : Prop :=
  ∀ (s : State) (w : Who) (c : Ctx) (i : Instr) (op : MemOp) (rs : List Reg) (va b x : Word) (d : Option Reg) (pa : Nat) (a : Access),
    Issues s w c → c.solo → accessRow (fun r => s.reg w c r.toNat) i = some (op, rs, va, b, x, d) → Usable s w c rs → MayAccess c op →
    Reaches s w c op va pa → s.isLocalPa pa = true → s.homeOf pa = w.core → (s.placeOf (lpaOf pa)).isDram = false →
    a = s.request w c op va pa b x d s.ids → AtHome s a →
    (∀ st f v, opRow s.mem (lpaOf pa) b x (s.full (wordAt (lpaOf pa))) op = some (st, f, v) →
      ∃ t c', exec i s = .next t ∧ Stored s t op (lpaOf pa) st f ∧
        c' = ({ c.done s.ids with issuedW := c.issuedW + wrote op, performedW := c.performedW + wrote op } : Ctx).finished (s.now w.core) 1 8 ∧
        Changes ({ s with ids := s.ids + 1, mem := t.mem, empties := t.empties, poison := t.poison, corrupt := t.corrupt }.modCore w.core fun k =>
          { k with took := true, servings := k.servings ++ s.serves w.core (lpaOf pa) f }) t w c' (c.touched d) ∧
        ∀ r, d = some r → r ≠ 0 → t.regEntry w c' r.toNat = { val := v, pres := .present, bad := false }) ∧
    (opRow s.mem (lpaOf pa) b x (s.full (wordAt (lpaOf pa))) op = none →
      ∃ t c', exec i s = .next t ∧
        c' = ({ c.add (s.owes c op pa d) with issuedW := c.issuedW + wrote op, cond := some a } : Ctx).finished (s.now w.core) 1 8 ∧
        Changes { s with ids := s.ids + 1, pending := s.pending ++ [.attemptResend { a with attempt := 1, granted := false }] } t w c' (c.touched d) ∧
        ∀ r, d = some r → r ≠ 0 → (t.regEntry w c' r.toNat).pres = .owed)

/-- R188, R195, R206, R210: an access to a word whose home is another core leaves as a request, to the confluence node of its cluster where it can be
combined, over a link where the word is another module's and no entry of the node holds it back: its counter rises, its destination is owed, memory is
as it was, and the next instruction may issue. The instructions are those of accessRow. That an access leaves for another module through `outbox` is
the model's form (log 4). -/
def Obligations.AccessesElsewhere : Prop :=
  ∀ (s : State) (w : Who) (c : Ctx) (i : Instr) (op : MemOp) (rs : List Reg) (va b x : Word) (d : Option Reg) (pa : Nat) (a : Access),
    Issues s w c → c.solo → accessRow (fun r => s.reg w c r.toNat) i = some (op, rs, va, b, x, d) → Usable s w c rs → MayAccess c op →
    Reaches s w c op va pa → a = s.request w c op va pa b x d s.ids → (s.isLocalPa pa = true → s.homeOf pa ≠ w.core) →
    (s.isLocalPa pa = true ∨ s.combines a = true ∨ s.nodeHolds w.core pa = true →
      ∃ t c', exec i s = .next t ∧
        Changes { s with
          ids := s.ids + 1
          pending := s.pending ++
            [if s.combines a then .combineJoin (coreRet w.core) (clusterOf (coreTile w.core)) a else a.event] } t w c' (c.touched d) ∧
        { c' with flush := c.flush } = ({ c.add (s.owes c op pa d) with
          issuedW := c.issuedW + wrote op, cond := if op.conditional then some a else none } : Ctx).finished (s.now w.core) 1 8 ∧
        ∀ r, d = some r → r ≠ 0 → (t.regEntry w c' r.toNat).pres = .owed) ∧
    (s.isLocalPa pa = false → s.combines a = false → s.nodeHolds w.core pa = false →
      ∃ t c', exec i s = .next t ∧ t.ctx? w = some c' ∧ t.outbox = s.outbox ++ [a] ∧ t.mem = s.mem ∧ t.pending = s.pending ∧
        { c' with flush := c.flush } = ({ c.add (s.owes c op pa d) with
          issuedW := c.issuedW + wrote op, cond := if op.conditional then some a else none } : Ctx).finished (s.now w.core) 1 8 ∧
        ∀ r, d = some r → r ≠ 0 → (t.regEntry w c' r.toNat).pres = .owed)

/-- R221 step 1, R223, R224, R228: a misaligned access traps before anything else, ALIGN for LD and ST, SYNCALIGN for an access with FE,
AMOALIGN for an atomic operation. -/
def Obligations.MisalignedAccesses : Prop :=
  ∀ (s : State) (w : Who) (c : Ctx) (i : Instr) (op : MemOp) (rs : List Reg) (va b x vec : Word) (d : Option Reg),
    Issues s w c → accessRow (fun r => s.reg w c r.toNat) i = some (op, rs, va, b, x, d) → Usable s w c rs → MayAccess c op →
    Delivers s w c vec → va.toNat % op.bytes ≠ 0 →
    ∃ t c', exec i s = .next t ∧ Changes s t w c' [] ∧ Entered s w c c' c.pc va vec .sync
      (match op with
        | .load _ _ => .align
        | .store _ => .align
        | .amo _ _ => .amoalign
        | .red _ => .amoalign
        | _ => .syncalign)

/-- R47, R53, R332: a migrant's access to a word of another core of its partition, RED apart, makes it leave for the core where the word performs now
(R205), to issue the access there again; its registers and PC stay, and nothing is sent. R231, R53, R205, R332: MIGRATE of a migrant to a word that
performs at another core of its partition leaves for it with the PC of the next instruction; to a word of its own core, or in a handler, it does
nothing; another context traps MIGFAIL, an address that is no multiple of 8 ALIGN, and a word of another partition PARTVIOL. MIGRATE in a handler and
the order of the checks are the model's reading (logs 28, 29). -/
def Obligations.Migration : Prop :=
  (∀ (s : State) (w : Who) (c : Ctx) (i : Instr) (op : MemOp) (rs : List Reg) (va b x : Word) (d : Option Reg) (pa : Nat),
     Issues s w c → c.solo → accessRow (fun r => s.reg w c r.toNat) i = some (op, rs, va, b, x, d) → Usable s w c rs → MayAccess c op →
     va.toNat % op.bytes = 0 → s.xlate w c va op.kind = .ok pa → s.moves w c pa = true → (∀ o, op ≠ .red o) →
     s.placeLive (s.placeOf (lpaOf pa)) = true → s.samePart (coreRet w.core) (coreRet (s.homeNow pa)) = true →
     Becomes i s w { c with run := .departing (s.homeNow pa) c.pc }) ∧
  (∀ (s : State) (w : Who) (c : Ctx) (a : Reg) (va vec : Word) (pa : Nat), Issues s w c → c.alone → Usable s w c [a] →
     va = s.reg w c a.toNat →
     (c.kind ≠ .migrant → Delivers s w c vec →
       ∃ t c', exec (.migrate a) s = .next t ∧ Changes s t w c' [] ∧ Entered s w c c' c.pc va vec .sync .migfail) ∧
     (c.kind = .migrant → va.toNat % 8 ≠ 0 → Delivers s w c vec →
       ∃ t c', exec (.migrate a) s = .next t ∧ Changes s t w c' [] ∧ Entered s w c c' c.pc va vec .sync .align) ∧
     (c.kind = .migrant → va.toNat % 8 = 0 → s.xlate w c va .read = .ok pa → s.isLocalPa pa = true → s.reachTrap w c pa = none →
       (s.homeNow pa = w.core ∨ c.inh = true → Becomes (.migrate a) s w (s.after w c)) ∧
       (s.homeNow pa ≠ w.core → c.inh = false → s.samePart (coreRet w.core) (coreRet (s.homeNow pa)) = true →
         Becomes (.migrate a) s w { s.after w c with run := .departing (s.homeNow pa) (s.after w c).pc }) ∧
       (s.homeNow pa ≠ w.core → c.inh = false → s.samePart (coreRet w.core) (coreRet (s.homeNow pa)) = false → Delivers s w c vec →
         ∃ t c', exec (.migrate a) s = .next t ∧ Changes s t w c' [] ∧ Entered s w c c' c.pc va vec .sync .partviol)))

/-- R188, R205, R206, R207, R217, R224, R228: a request that reaches its home while that takes accesses performs there in one step, its answer sent by the
home for a load, left to its message context for any other; one that its table refuses performs nothing and is answered with ACCTBL (R328, R330); one
that a hold stops waits under it, one of a page that moves is forwarded, and one that comes while the home is busy waits its turn. R188, R205, R225,
R251: in its turn the message context of a home does the first of its work: an answer is sent to the access's source, an attempt that failed is
followed by the next, and an access of a page that moves goes on to the copy. What the refusal log holds, and that a message context answers and
forwards in its turns, are the model's reading (logs 14, 21). -/
def Obligations.RequestsPerform : Prop :=
  (∀ (s : State) (a : Access) (h : Nat) (e : Ev), s.ev = some e →
     e = .loadRequest a ∨ e = .activeMessage a ∨ e = .remoteUpdateMigrant a ∨ e = .conditionalAttempt a ∨ e = .waitListPark a →
     s.isLocalPa a.pa = true → h = s.homeOf a.pa → h ≠ a.src.core → a.src.modn = s.modn → (∃ r, a.dst = .reg r) ∨ a.dst = .notice →
     (s.homeBusy h = true → ∃ t, exec e.row s = .next t ∧ (t.core h).ready = (s.core h).ready ++ [a] ∧ t.mem = s.mem ∧ t.pending = s.pending) ∧
     (s.homeBusy h = false →
       (∀ b, s.forwarded a = some b →
         ∃ t, exec e.row s = .next t ∧ (t.core h).jobs = (s.core h).jobs ++ [.forward b] ∧ t.mem = s.mem ∧ t.pending = s.pending) ∧
       (s.forwarded a = none → s.mustWait h a (s.core h).blocked = true →
         ∃ t, exec e.row s = .next t ∧ (t.core h).blocked = (s.core h).blocked ++ [a] ∧ t.mem = s.mem ∧ t.pending = s.pending) ∧
       (s.unmade a = false → (s.byMessage h a = true → s.badMessage h = none) →
         (∀ st f v, AtHome s a → opRow s.mem (lpaOf a.pa) a.data a.cmp (s.full (wordAt (lpaOf a.pa))) a.op = some (st, f, v) →
           lpaOf a.pa % a.op.bytes = 0 →
           ∃ t, exec e.row s = .next t ∧ Stored s t a.op (lpaOf a.pa) st f ∧ (∀ v, t.ctx? v = s.ctx? v) ∧ (t.core h).took = true ∧
             (t.core h).servings = (s.core h).servings ++ s.serves h (lpaOf a.pa) f ∧
             (s.byMessage h a = false → (t.core h).jobs = (s.core h).jobs ∧
               t.pending = s.pending ++ [.loadReply { acc := a, value := v, status := .ok }]) ∧
             (s.byMessage h a = true → t.pending = s.pending ∧
               (t.core h).jobs = (s.core h).jobs ++ [.answer { acc := a, value := v, status := .ok }])) ∧
         (∀ k off, s.placeOf (lpaOf a.pa) = .sram k off → s.mustWait h a (s.core h).blocked = false → a.granted = false →
           s.admits (.sram k off) a.tag a.op.kind (lpaOf a.pa) = false → a.tag.part < 64 →
           ∃ t, exec e.row s = .next t ∧ t.mem = s.mem ∧ t.empties = s.empties ∧ (∀ v, t.ctx? v = s.ctx? v) ∧
             (t.cb k 0x8800).getLsbD 63 = true ∧
             (s.byMessage h a = true → t.pending = s.pending ∧
               (t.core h).jobs = (s.core h).jobs ++ [.answer { acc := a, value := 0, status := .failed .acctbl }]))))) ∧
  (∀ (s : State) (h : Nat) (j : Job) (l : List Job) (a : Access), (s.core h).jobs = j :: l → a.src.modn = s.modn → a.src.core ≠ h →
     (∃ r, a.dst = .reg r) ∨ a.dst = .notice →
     ((s.doJob h).core h).jobs = l ∧ (s.doJob h).mem = s.mem ∧
     (∀ v st, j = .answer { acc := a, value := v, status := st } → (s.doJob h).pending = s.pending ++
       [if a.op.isLoad then .loadReply { acc := a, value := v, status := st } else .performedNotice { acc := a, value := v, status := st }]) ∧
     (j = .forward a → (s.doJob h).pending = s.pending ++ [a.event]) ∧
     (j = .again a → (s.doJob h).pending = s.pending ++ [if a.attempt < 7 then .attemptResend { a with attempt := a.attempt + 1, granted := false }
       else if a.attempt = 7 then .waitListPark { a with attempt := 8, granted := false } else .parkRequestRetry a]) ∧
     (j = .served → (s.doJob h).pending = s.pending))

/-- R225: a conditional access whose condition does not hold at its home has no effect there, and its home's message context sees to the next attempt;
from the ninth on it takes a place on the wait list while the pool has room. The requester sends what follows while its context still waits for it; an
attempt whose context no longer wants it is dropped. R207, R226: a cc of the serving of a word's wait list lets the one access left in it perform
where its condition now holds, takes it off the list and has it answered; where the condition does not hold it stays and the serving ends, having
served none. How a wait list is served cc by cc, and that a message context answers in its turns, are the model's reading (logs 14, 15). -/
def Obligations.AttemptsAndWaitLists : Prop :=
  (∀ (s : State) (a : Access) (h : Nat) (e : Ev), s.ev = some e → s.isLocalPa a.pa = true → h = s.homeOf a.pa → a.src.modn = s.modn → h ≠ a.src.core →
     (e = .conditionalAttempt a ∨ e = .waitListPark a → AtHome s a → s.unmade a = false → s.badMessage h = none → lpaOf a.pa % a.op.bytes = 0 →
       a.op = .ldfe ∨ a.op = .ldff ∨ a.op = .stef →
       opRow s.mem (lpaOf a.pa) a.data a.cmp (s.full (wordAt (lpaOf a.pa))) a.op = none →
       ∃ t, exec e.row s = .next t ∧ t.mem = s.mem ∧ t.empties = s.empties ∧ (∀ v, t.ctx? v = s.ctx? v) ∧ t.pending = s.pending ∧
         (a.attempt < 8 ∨ 256 ≤ (s.core h).waits.length →
           (t.core h).jobs = (s.core h).jobs ++ [.again a] ∧ (t.core h).waits = (s.core h).waits) ∧
         (8 ≤ a.attempt → (s.core h).waits.length < 256 →
           (t.core h).jobs = (s.core h).jobs ++ [.served] ∧ (t.core h).waits = (s.core h).waits ++ [{ a with granted := true }])) ∧
     (e = .attemptResend a → s.combines a = false →
       ∃ t, exec e.row s = .next t ∧ t = if s.stillWants a then s.push a.event else s) ∧
     (e = .parkRequestRetry a → ∃ t, exec e.row s = .next t ∧ t = if s.stillWants a then s.push (.waitListPark a) else s)) ∧
  (∀ (s : State) (a : Access) (h wa : Nat) (y : Serving), s.ev = some (.waitListServe h wa) → (s.core h).servings = [y] → y.word = wa → y.due = true →
     y.left = [a] → y.any_ = false → (s.core h).waits = [a] → waitWord a = wa → s.isLocalPa a.pa = true →
     h = s.homeOf a.pa → h ≠ a.src.core → a.src.modn = s.modn → (∃ r, a.dst = .reg r) ∨ a.dst = .notice → s.unmade a = false → s.badMessage h = none →
     CanPerform s a →
     (s.placeOf (lpaOf a.pa)).isDram = false → a.op = .ldfe ∨ a.op = .ldff ∨ a.op = .stef → lpaOf a.pa % 8 = 0 →
     (∀ st f v, opRow s.mem (lpaOf a.pa) a.data a.cmp (s.full (wordAt (lpaOf a.pa))) a.op = some (st, f, v) →
       ∃ t, exec .waitListServe s = .next t ∧ Stored s t a.op (lpaOf a.pa) st f ∧ (t.core h).waits = [] ∧
         .answer { acc := a, value := v, status := .ok } ∈ (t.core h).jobs) ∧
     (opRow s.mem (lpaOf a.pa) a.data a.cmp (s.full (wordAt (lpaOf a.pa))) a.op = none →
       ∃ t, exec .waitListServe s = .next t ∧ t.mem = s.mem ∧ (t.core h).waits = [a] ∧ (t.core h).servings = []))

/-- R33, R206, R220, R222: a reply that reaches the context that issued the access writes the destination and lowers the counter; one that reports a
failure leaves the register's value, present again, and a late access trap pending unless one is; one for a slot whose generation has changed is
discarded (R35). That a failed write raises the count of performed writes is the model's choice (log 66). -/
def Obligations.RepliesLand : Prop :=
  ∀ (s : State) (r : Reply) (w : Who) (c : Ctx) (o : OutOp) (e : Ev), s.ev = some e → e = .loadReply r ∨ e = .performedNotice r →
    s.arrived r = r → s.inboundShut r.acc = false → (∃ q, r.acc.dst = .reg q) ∨ r.acc.dst = .notice →
    r.acc.op.conditional = false ∨ r.status ≠ .failed .none →
    (s.srcWho r.acc.src = some w → s.ctx? w = some c → c.op? r.acc.id = some o → o.both = false →
      ∃ t c', exec e.row s = .next t ∧ t.ctx? w = some c' ∧ t.mem = s.mem ∧ t.pending = s.pending ∧ (∀ v, v ≠ w → t.ctx? v = s.ctx? v) ∧
        (∀ n, (∀ q, o.dst = some q → n ≠ c.base + q) → t.fileEntry w.core n = s.fileEntry w.core n) ∧
        c'.out = (c.done r.acc.id).out ∧ c'.performedW = c.performedW + wrote r.acc.op ∧ c'.pc = c.pc ∧ c'.run = c.run ∧
        c'.cond = (if c.cond.map (·.id) = some r.acc.id then none else c.cond) ∧
        (r.status = .ok → c'.pend = c.pend ∧ ∀ q, o.dst = some q → q ≠ 0 →
          t.regEntry w c' q = { val := r.value, pres := .present, bad := false }) ∧
        (∀ cz, r.status = .failed cz → c'.pend.late = (if c.pend.late.isNone then some (cz, r.acc.va) else c.pend.late) ∧
          ∀ q, o.dst = some q → q ≠ 0 → t.regEntry w c' q = { s.regEntry w c q with pres := .present })) ∧
    (s.srcWho r.acc.src = none → ∃ t, exec e.row s = .next t ∧ t.mem = s.mem ∧ t.pending = s.pending ∧ (∀ v, t.ctx? v = s.ctx? v) ∧
      ∀ k n, t.fileEntry k n = s.fileEntry k n)
/-! Fences, waits, translation, invalidation (spec/08, spec/10). -/

/-- R215, R216, R230: a fence or WAITC whose condition holds finishes at once and changes nothing else; another parks. FENCE.T waits for the context's
commands, its copies while they hold bytes of the tile, and its accesses to its own tile's SRAM; FENCE.W also for every access of the module; FENCE.S
for everything, and reads once each host port that the context has stored to, whose completion ends its wait. Which home a fence waits for, and the
flush of FENCE.S, are the model's reading (log 17). -/
def Obligations.FencesAndWaits : Prop :=
  ∀ (s : State) (w : Who) (c : Ctx) (q : Prop), Issues s w c →
    (q ↔ ∀ o ∈ c.out, o.cls ≠ .mx ∧ (o.cls = .cp → (s.core w.core).copyHere o.id = false) ∧
      (o.cls = .ld ∨ o.cls = .st → isTile w.core = true → o.home ≠ some w.core)) →
    (q → Becomes .fenceT s w (s.after w c)) ∧
    (¬q → Becomes .fenceT s w { c with run := .parked (.fence 0) }) ∧
    (q ∧ (∀ o ∈ c.out, o.home = none) → Becomes .fenceW s w (s.after w c)) ∧
    (¬(q ∧ ∀ o ∈ c.out, o.home = none) → Becomes .fenceW s w { c with run := .parked (.fence 1) }) ∧
    (c.out = [] → c.flush = [] → Becomes .fenceS s w (s.after w c)) ∧
    (c.out ≠ [] → Becomes .fenceS s w { c with run := .parked (.fence 2) }) ∧
    (∀ p, c.out = [] → c.flush = [(p, none)] → bit (s.cb (hostCore p) 0x0A00) 63 = true →
      ∃ t a, exec .fenceS s = .next t ∧ t.ctx? w = some { c with run := .parked (.fence 2), flush := [(p, some s.ids)] } ∧
        t.outbox = s.outbox ++ [a] ∧ a.id = s.ids ∧ a.op = .load 3 false ∧ a.pa = s.paOf (hostBase + p * 2 ^ 42) ∧ t.mem = s.mem) ∧
    (∀ m cp st l : BitVec 4,
      (c.count .mx ≤ m.toNat ∧ c.count .cp ≤ cp.toNat ∧ c.count .st ≤ st.toNat ∧ c.count .ld ≤ l.toNat →
        Becomes (.waitc m cp st l) s w (s.after w c)) ∧
      (¬(c.count .mx ≤ m.toNat ∧ c.count .cp ≤ cp.toNat ∧ c.count .st ≤ st.toNat ∧ c.count .ld ≤ l.toNat) →
        Becomes (.waitc m cp st l) s w { c with run := .parked (.waitc m.toNat cp.toNat st.toNat l.toNat) })) ∧
    (∀ p n r, s.ev = some (.pcieCompletion p r) → s.srcWho r.acc.src = some w → r.acc.op = .load 3 false → r.acc.dst = .nobody →
      c.flush = [(n, some r.acc.id)] →
      ∃ t, exec .pcieCompletion s = .next t ∧ t.ctx? w = some { c with flush := [] } ∧ t.mem = s.mem ∧ t.pending = s.pending)

/-- R198, R200 to R203, R353: an address in F is a physical one of this module; elsewhere it is canonical and a buffer entry of the partition and ASID
gives its page and its permissions. A walk ends the stall of every context whose miss it serves, with an entry in the buffer, or, where the ASID has
no table, with PGNP for the access that missed. Which entry a full buffer loses is free (log 8), and the causes of a walk's own failures are the
model's choice (log 19). -/
def Obligations.Translation : Prop :=
  ∀ (s : State) (w : Who) (c : Ctx) (va : Word) (k : AccKind),
    (c.mode = .f → s.xlate w c va k = if va.toNat < 2 ^ 48 ∧ s.placeOf va.toNat ≠ .hole then .ok (s.modn * 2 ^ 48 + va.toNat)
      else .fault .pgprot va) ∧
    (c.mode ≠ .f → (∃ n, 54 ≤ n ∧ n < 64 ∧ va.getLsbD n ≠ va.getLsbD 54) → s.xlate w c va k = .fault .pgprot va) ∧
    (∀ e, c.mode ≠ .f → (∀ n, 54 ≤ n → n < 64 → va.getLsbD n = va.getLsbD 54) → (s.core w.core).tlb = [e] → e.parity = false →
      e.part = c.part → e.g = true ∨ e.asid = c.asid → e.page = va.toNat % 2 ^ 55 / 2 ^ e.size →
      s.placeOf ((e.pa + va.toNat % 2 ^ 55 % 2 ^ e.size) % 2 ^ 48) ≠ .hole →
      s.xlate w c va k =
        if (c.mode = .u → e.us = true) ∧ (k = .read ∨ k = .atomic → e.rd = true) ∧ (k = .write ∨ k = .atomic → e.w = true) ∧
            (k = .execute → e.x = true ∧ ¬(c.mode = .s ∧ e.us = true)) then .ok (e.pa + va.toNat % 2 ^ 55 % 2 ^ e.size)
        else .fault .pgprot va) ∧
    (∀ q u e v, s.ev = some (.walkComplete q) → w.core = q.core → (w.slot, s.gen w, v) ∈ Walk.waiters q → s.ctx? w = some c →
      s.walk q = (u, .ok e) → u.ctx? w = some c → u.gen w = s.gen w → q.install = true → (u.core q.core).tlb.length < 512 →
      ∃ t, exec .walkComplete s = .next t ∧ (t.core q.core).tlb = (u.core q.core).tlb ++ [e] ∧
        t.ctx? w = some { c with walking := false, walkFault := none, walkHit := none } ∧ t.mem = u.mem) ∧
    (∀ q a, s.ev = some (.walkComplete q) → w = { core := q.core, slot := q.slot } → q.gen = s.gen w → q.others = [] → s.ctx? w = some c →
      s.forwarded (s.walkAccess q a) = none → s.fillsPage (s.walkAccess q a) = false → a = bits (s.rcb (coreRet q.core) 0x0100) 55 15 * 2 ^ 15 + 8 * q.asid → s.isLocalPa a = true → (s.placeOf (lpaOf a)).isDram = true →
      s.placeLive (s.placeOf (lpaOf a)) = true → s.admits (s.placeOf (lpaOf a)) { part := q.part, mode := .s } .read (lpaOf a) = true →
      s.poisoned (wordAt (lpaOf a)) = false → s.corrupt.contains (wordAt (lpaOf a)) = false → memRead s.mem (lpaOf a) 8 % 2 = 0 →
      ∃ t, exec .walkComplete s = .next t ∧ t.mem = s.mem ∧
        t.ctx? w = some { c with walking := false, walkFault := some (q.va, .pgnp, q.va), walkHit := none })

/-- R232, R353: ICINV of a range reaches every core with a context of the partition and parks until each has acknowledged; one of no bytes finishes at
once. A core drops the words of the range, or the translations that a TLBI matches, and acknowledges; the last acknowledgement ends the park, the PC
moving past the instruction. That a TLBI takes every walk of its partition as one that it matches is the model's reading (log 20). -/
def Obligations.Invalidations : Prop :=
  ∀ (s : State) (w : Who) (c : Ctx) (a b : Reg) (va n : Word) (cs : List Nat),
    (Issues s w c → c.alone → Usable s w c [a, b] → c.within 15 15 0 15 = true → va = s.reg w c a.toNat → n = s.reg w c b.toNat →
      cs = ((s.cores.filter fun k => k.2.slots.any fun x => decide (x.2.part = c.part ∧ x.2.kind ≠ .message)).map (·.1)) →
      (n = 0 ∨ cs = [] → Becomes (.icinv a b) s w (s.after w c)) ∧
      (n ≠ 0 → cs ≠ [] → ∃ t q, exec (.icinv a b) s = .next t ∧
        Changes { s with pending := s.pending ++ cs.map fun k => .icacheInvalidation k q } t w { c with run := .parked (.icinv cs.length) } [] ∧
        q.part = c.part ∧ q.asid = c.asid ∧ q.phys = decide (c.mode = .f) ∧ q.va = va ∧ q.len = n.toNat ∧ q.core = w.core ∧ q.slot = w.slot ∧ q.gen = s.gen w)) ∧
    (∀ k q, s.ev = some (.icacheInvalidation k q) → ∃ t, exec .icacheInvalidation s = .next t ∧ t.pending = s.pending ++ [.icinvAck q] ∧
      t.mem = s.mem ∧ ∀ l, l ∈ (t.core k).icache ↔ l ∈ (s.core k).icache ∧
        ¬(l.part = q.part ∧ l.asid = q.asid ∧ l.phys = q.phys ∧
          (2 ^ 24 ≤ q.len ∨ l.va.toNat < q.va.toNat + q.len ∧ q.va.toNat < l.va.toNat + 4))) ∧
    (∀ q m, s.ev = some (.icinvAck q) → w = { core := q.core, slot := q.slot } → s.ctx? w = some c → q.gen = s.gen w → c.alone →
      c.run = .parked (.icinv m) →
      ∃ t, exec .icinvAck s = .next t ∧
        Changes s t w (if 1 < m then { c with run := .parked (.icinv (m - 1)) } else { c with run := .ready, busy := none }.finished (s.now w.core) 1 8) []) ∧
    (∀ k q, s.ev = some (.tlbRemoval k q) → ∃ t, exec .tlbRemoval s = .next t ∧ t.mem = s.mem ∧ .tlbiAck q ∈ t.pending ∧
      ∀ e, e ∈ (t.core k).tlb ↔ e ∈ (s.core k).tlb ∧ ¬(e.part = q.part ∧
        (q.scope = 0 ∧ e.page = q.va.toNat % 2 ^ 55 / 2 ^ e.size ∧ (e.g = true ∨ e.asid = q.asid) ∨
          q.scope = 1 ∧ e.g = false ∧ e.asid = q.asid ∨ 2 ≤ q.scope))) ∧
    (∀ q m, s.ev = some (.tlbiAck q) → w = { core := q.core, slot := q.slot } → s.ctx? w = some c → q.gen = s.gen w → c.alone →
      c.run = .parked (.tlbi m) →
      ∃ t, exec .tlbiAck s = .next t ∧
        Changes s t w (if 1 < m then { c with run := .parked (.tlbi (m - 1)) } else { c with run := .ready, busy := none }.finished (s.now w.core) 1 8) [])

/-- R234 to R236: BORROW takes the lowest free slot and run of entries, or answers all ones; XMOV reads an entry of a set and, on request, writes
it; RETURN gives a set back, its entries stripped. -/
def Obligations.RegisterBorrowing : Prop :=
  ∀ (s : State) (w : Who) (c : Ctx) (d a b : Reg) (v : Word) (n : Nat), Issues s w c → c.kind ≠ .migrant → Usable s w c [a, b, d] →
    v = s.reg w c a.toNat → n = v.toNat →
    (8 ≤ n → n ≤ 128 → n % 8 = 0 → c.sets.length < 4 →
      ((s.core w.core).ringCount ≠ 0 ∨ (s.core w.core).place w.core n = none → Yields (.borrow d a) s w c d (BitVec.allOnes 64)) ∧
      (∀ sl base, (s.core w.core).ringCount = 0 → (s.core w.core).place w.core n = some (sl, base) →
        ∃ t c', exec (.borrow d a) s = .next t ∧ t.ctx? w = some c' ∧ c' = { s.after w c with sets := c.sets ++ [(sl, base, n)] } ∧
          (t.core w.core).withheld = (s.core w.core).withheld ++ [{ slot := sl, base := base, lim := n }] ∧ Keeps s t w [w.slot] ((List.range n).map (base + ·) ++ c.touches d) ∧
          (d ≠ 0 → t.regEntry w c' d.toNat = { val := BitVec.ofNat 64 sl, pres := .present, bad := false }))) ∧
    (∀ sl base m j, v.toNat < 2 ^ 17 → v.toNat % 2 ^ 6 = sl → v.toNat / 2 ^ 6 % 4 = 0 → v.toNat / 2 ^ 8 % 2 ^ 7 = j → v.getLsbD 15 = false →
      c.sets.find? (fun t => t.1 == sl) = some (sl, base, m) → j < m → (s.fileEntry w.core (base + j)).bad = false →
      (∀ r, r < 128 → c.base + r ≠ base + j) →
      ∃ t, exec (.xmov d a b) s = .next t ∧ Changes s t w (s.after w c) ((base + j) :: c.touches d) ∧
        (d ≠ 0 → t.regEntry w c d.toNat = { val := (s.fileEntry w.core (base + j)).val, pres := .present, bad := false }) ∧
        t.fileEntry w.core (base + j) = if v.getLsbD 16 then { val := s.reg w c b.toNat, pres := .present, bad := false }
          else s.fileEntry w.core (base + j)) ∧
    (∀ sl base m, v.toNat = sl → c.sets.find? (fun t => t.1 == sl) = some (sl, base, m) →
      ∃ t, exec (.retn a) s = .next t ∧ t.ctx? w = some { s.after w c with sets := c.sets.filter fun t => t.1 != sl } ∧
        (∀ e, t.fileEntry w.core e = if base ≤ e ∧ e < base + m then RegEntry.stripped else s.fileEntry w.core e) ∧
        (∀ x ∈ (t.core w.core).withheld, x.slot ≠ sl) ∧ .stripDone w.core sl ∈ t.pending ∧ t.mem = s.mem)

/-- R238, R239: NWR sends one write to the tile beside, counted in ctr.ST; NARM clears a register's presence; NPRES reads presence bits. A write that
reaches a slot with a fit receiver is held until its register is armed, and lands; one whose sender has gone is discarded (R35); the acknowledgement frees the direction, a refusal leaving a late
NLINK. -/
def Obligations.NeighbourLinks : Prop :=
  ∀ (s : State) (w : Who) (c : Ctx) (d a : Reg) (n : BitVec 7) (k : BitVec 2),
    (Issues s w c → c.alone → c.kind ≠ .migrant → Usable s w c [a, d] →
      (∀ t, s.linkTo w.core k.toNat = some t → c.nwrOut.contains k.toNat = false → c.count .st < 15 →
        ∃ u o m, exec (.nwr n a k) s = .next u ∧ Changes { s with ids := s.ids + 1, pending := s.pending ++ [.neighbourWrite m] } u w
            (s.after w { c.add o with nwrOut := c.nwrOut ++ [k.toNat] }) [] ∧ o.id = s.ids ∧ o.cls = .st ∧ o.dst = none ∧
          m.id = s.ids ∧ m.src = s.src w ∧ m.part = c.part ∧ m.asid = c.asid ∧ m.core = t ∧ m.dir = k.toNat ∧ m.reg = n.toNat ∧
          m.data = s.reg w c a.toNat) ∧
      (∃ u, exec (.narm d) s = .next u ∧ Changes s u w (s.after w c) (c.touches d) ∧
        (d ≠ 0 → u.regEntry w c d.toNat = { s.regEntry w c d.toNat with pres := .armed })) ∧
      (∃ v, Yields (.npres d a) s w c d v ∧ ∀ j r, j < 64 → r = (s.reg w c a.toNat).toNat % 128 + j →
        v.getLsbD j = decide (r < c.lim ∧ r < 128 ∧ (s.regEntry w c r).pres = .present))) ∧
    (∀ q, s.ev = some (.neighbourWrite q) → s.srcWho q.src = none → exec .neighbourWrite s = .next s) ∧
    (∀ q x, s.ev = some (.neighbourWrite q) → s.srcWho q.src ≠ none → w = { core := q.core, slot := q.src.slot } → s.ctx? w = some x →
      (x.kind = .resident ∧ x.role = .single ∧ x.part = q.part ∧ x.asid = q.asid ∧ q.reg < x.lim →
        (q.reg = 0 → exec .neighbourWrite s = .next (s.push (.nwrAck q true))) ∧
        (q.reg ≠ 0 → ∃ t, exec .neighbourWrite s = .next t ∧ (t.core q.core).nwr = (s.core q.core).nwr ++ [q] ∧ t.ctx? w = some x ∧
          t.mem = s.mem ∧ t.pending = s.pending)) ∧
      (¬(x.kind = .resident ∧ x.role = .single ∧ x.part = q.part ∧ x.asid = q.asid ∧ q.reg < x.lim) →
        exec .neighbourWrite s = .next (s.push (.nwrAck q false)))) ∧
    (∀ h dir sl q x, s.ev = some (.neighbourWriteLand h dir sl) → (s.core h).nwr = [q] → q.dir = dir → q.src.slot = sl →
      w = { core := h, slot := sl } → s.ctx? w = some x → (s.regEntry w x q.reg).pres = .armed → x.inh = false → q.reg ≠ 0 →
      ∃ t, exec .neighbourWriteLand s = .next t ∧ t.regEntry w x q.reg = { val := q.data, pres := .present, bad := false } ∧
        (t.core h).nwr = [] ∧ t.pending = s.pending ++ [.nwrAck q true] ∧ t.mem = s.mem) ∧
    (∀ q ok o, s.ev = some (.nwrAck q ok) → s.srcWho q.src = some w → s.ctx? w = some c → c.op? q.id = some o → o.dst = none →
      ∃ t c', exec .nwrAck s = .next t ∧ t.ctx? w = some c' ∧ c'.out = (c.done q.id).out ∧ (∀ e, e ∈ c'.nwrOut ↔ e ∈ c.nwrOut ∧ e ≠ q.dir) ∧
        c'.pend.late = (if ok = false ∧ c.pend.late = none then some (.nlink, BitVec.ofNat 64 (q.reg * 2 ^ 8 + q.dir)) else c.pend.late) ∧
        t.mem = s.mem)
/-! The life of contexts, migrants (spec/03, spec/04, spec/16). -/

/-- R32, R36, R129, R254, R262, R339, R341: what happens to a context between instructions. A spacing that has run is over; a park ends when its condition
holds; the first trap due is taken in place of an instruction, and is then no longer pending; a stripped slot is free; a watchdog's expiry, where CNT
has reached the limit, is pending with its register as tval. That a trap is taken at a turn of its own is the model's form (logs 5, 23). -/
def Obligations.ContextEvents : Prop :=
  ∀ (s : State) (w : Who) (c : Ctx), s.ctx? w = some c →
    (s.ev = some (.issueSpacingEnd w.core w.slot) →
      (c.spacing ≤ s.now w.core → Becomes .issueSpacingEnd s w { c with spacing := 0 }) ∧
      (s.now w.core < c.spacing → Becomes .issueSpacingEnd s w c)) ∧
    (∀ rs : List Nat, s.ev = some (.contextWake w.core w.slot) → c.run = .parked (.regs rs) → (∀ r ∈ rs, (s.regEntry w c r).pres = .present) →
      ∃ t, exec .contextWake s = .next t ∧ Changes s t w { c with run := .ready, spacing := max c.spacing (s.now w.core + 1) } []) ∧
    (∀ rs : List Nat, s.ev = some (.contextWake w.core w.slot) → c.run = .parked (.regs rs) → (∃ r ∈ rs, (s.regEntry w c r).pres ≠ .present) →
      c.pend = Pend.none → c.heldTrap = none → s.hostirqDue w c = false → exec .contextWake s = .next s) ∧
    (∀ cz v vec, s.ev = some (.takeTrap w.core w.slot) → c.run = .ready → Delivers s w c vec → c.pend = { Pend.none with late := some (cz, v) } →
      c.out = [] →
      ∃ t c', exec .takeTrap s = .next t ∧ Changes s t w c' [] ∧
        Entered s w { c with pend := Pend.none } c' c.pc v vec { asyn := false, late := true, eng := false } cz) ∧
    (∀ vec, s.ev = some (.takeTrap w.core w.slot) → c.run = .ready → Delivers s w c vec → c.pend = Pend.none → c.mode = .u →
      c.trapen.getLsbD 10 = true → (s.cb w.core 0x0810).getLsbD 15 = true → (s.cb w.core 0x0810).toNat % 64 = w.slot →
      ∃ t c', exec .takeTrap s = .next t ∧ t.ctx? w = some c' ∧ t.mem = s.mem ∧ c'.mode = .s ∧ c'.pc = vec ∧ c'.epc = c.pc ∧
        c'.cause.toNat % 64 = causeCode .hostirq ∧ c'.tval = (s.cb w.core 0x0810) &&& 0xFFFFFFFFFFFF0000 ∧ (t.cb w.core 0x0810).getLsbD 15 = false) ∧
    (∀ sl x, s.ev = some (.stripDone w.core sl) → x ∈ (s.core w.core).strips → x.slot = sl → (s.core w.core).ringCount = 0 →
      s.pval (coreRet w.core) = false →
      ∃ t, exec .stripDone s = .next t ∧ (∀ y, y ∈ (t.core w.core).strips ↔ y ∈ (s.core w.core).strips ∧ y.slot ≠ sl) ∧
        (t.core w.core).slots = (s.core w.core).slots ∧ t.mem = s.mem ∧ t.pending = s.pending) ∧
    (s.ev = some (.watchdogExpiry w.core w.slot) → c.expired = true →
      Becomes .watchdogExpiry s w { c with expired := false, pend := { c.pend with watchdog := some c.wdog } })

/-- R48, R49, R50, R52: a migrant with nothing outstanding leaves in a packet of 32 words, its slot freed and its generation raised; the packet makes the
same context where a slot and registers are free, else stands in the ring, and behind a full ring in its overflow entry, from which it moves to the
ring, its LINK naming no other. The checks of a migrant's way, and of its registers as they leave, are the model's reading (logs 29, 55); that a pair
takes two runs of 24 entries is its choice (log 65). -/
def Obligations.MigrantPackets : Prop :=
  ∀ (s : State) (w : Who) (c : Ctx) (k src : Nat) (p : List Word),
    (∀ home pc, s.ev = some (.migrantDeparture w.core w.slot) → s.ctx? w = some c → c.run = .departing home pc → c.out = [] → c.alone →
      c.pend = Pend.none → s.hostirqDue w { c with pc := pc } = false → (∀ r, 0 < r → r < 24 → (s.regEntry w c r).bad = false) → c.part < 64 → c.asid < 2 ^ 12 → coreRet w.core < 64 →
      ∃ t q, exec .migrantDeparture s = .next t ∧ t.ctx? w = none ∧ t.gen w = s.gen w + 1 ∧ t.mem = s.mem ∧ .migrantArrival home q w.core ∈ t.pending ∧
        q.length = 32 ∧ q.getD 0 0 = pc ∧ bits (q.getD 1 0) 53 48 = c.part ∧ bits (q.getD 1 0) 47 36 = c.asid ∧
        bits (q.getD 1 0) 34 32 = c.ecls.toNat ∧ q.getD 2 0 = c.fmta ∧ q.getD 3 0 = c.fmtb ∧ q.getD 4 0 = c.repst ∧ q.getD 5 0 = c.dref ∧
        q.getD 6 0 = c.wdog ∧ (c.ovix = none → packetOvix q = none) ∧
        (∀ r e, c.ovix = some (r, e) → r < 64 → e < 2 ^ 20 - 1 → packetOvix q = some (r, e)) ∧
        (∀ i, i < 23 → q.getD (8 + i) 0 = s.reg w c (i + 1)) ∧ bits (q.getD 31 0) 39 0 = bits c.thrc 39 0 ∧
        bits (q.getD 31 0) 61 40 = bits c.trapen 21 0) ∧
    (∀ sl base, s.ev = some (.migrantArrival k p src) → (p.getD 1 0).getLsbD 35 = false → (s.core k).ringCount = 0 →
      (s.core k).place k 24 = some (sl, base) → w = { core := k, slot := sl } →
      ∃ t x, exec .migrantArrival s = .next t ∧ Changes s t w x ((List.range 23).map (base + 1 + ·)) ∧ x.kind = .migrant ∧ x.run = .ready ∧ x.mode = .u ∧
        x.base = base ∧ x.lim = 24 ∧ x.pc = p.getD 0 0 ∧ x.part = bits (p.getD 1 0) 53 48 ∧ x.asid = bits (p.getD 1 0) 47 36 ∧
        x.repst = p.getD 4 0 ∧ x.dref = p.getD 5 0 ∧ x.wdog = p.getD 6 0 ∧ ∀ i, i < 23 → t.reg w x (i + 1) = p.getD (8 + i) 0) ∧
    (s.ev = some (.migrantArrival k p src) → 0 < (s.core k).ringCount → (s.core k).ringCount < Config.ringPackets → p.length = 32 →
      ∃ t, exec .migrantArrival s = .next t ∧ (t.core k).ringCount = (s.core k).ringCount + 1 ∧ (t.core k).slots = (s.core k).slots ∧
        readWords t.mem (ringEntry k ((s.core k).ringHead + (s.core k).ringCount)) 32 = p ∧
        ∀ a, a < ringEntry k ((s.core k).ringHead + (s.core k).ringCount) ∨ ringEntry k ((s.core k).ringHead + (s.core k).ringCount) + 256 ≤ a →
          memByte t.mem a = memByte s.mem a) ∧
    (∀ o, s.ev = some (.overflowRefill k) → (s.core k).overflow = [o] → (s.core k).ringCount < Config.ringPackets → 0 < (s.core k).ringCount →
      p = (readWords s.mem (s.poolEntry o) 32).set 7 (setBits (BitVec.ofNat 64 (memRead s.mem (s.poolEntry o + 56) 8)) 63 44 0xFFFFF) →
      (∀ i, i < 32 → s.movedTo (s.poolEntry o + 8 * i) = none) →
      (∀ g ∈ granules (s.poolEntry o), s.admits (s.placeOf g) (packetTag p) .read g = true) →
      (∀ i, i < 32 → s.poisoned (s.poolEntry o + 8 * i) = false ∧ s.corrupt.contains (s.poolEntry o + 8 * i) = false) →
      (s.core k).findSlot k = none →
      ∃ t, exec .overflowRefill s = .next t ∧ (t.core k).overflow = [] ∧ (t.core k).ringCount = (s.core k).ringCount + 1 ∧
        readWords t.mem (ringEntry k ((s.core k).ringHead + (s.core k).ringCount)) 32 = p)
/-! Engine commands (spec/07, spec/11). -/

/-- R153 to R155, R161 to R170, R172 to R176, R217, R278: on a tile that has the part and energy, with ctr.MX below 15, records and scales that can be
read and the checks of R154 passed, a vector, plane, accumulator or matrix command is issued; EREAD loads a word of a slot. The table commandRow names
every VOP, VUN, VRED and VMEM instruction, EZERO, EACC, EDRN, BPPACK and BSCL; BPUNPK, MXA, MXAG, MXSP and EREAD have clauses of their own. What a
refusal shows is the model's reading (log 21); where an auxiliary array is checked, and what makes a command wait, are its choice (log 32), and that
R169's limits do not bind a BPw record of PLANE its reading (log 58). -/
def Obligations.EngineCommandsIssue : Prop :=
  ∀ (s : State) (w : Who) (c : Ctx), Issues s w c → c.solo → isTile w.core = true → c.cond = none →
    (∀ i rs recs p, s.commandRow w c (fun r => s.reg w c r.toNat) i = some (rs, recs, .ok p) → Usable s w c rs → c.count .mx < 15 →
      2 ^ 32 ≤ (s.cb w.core 0x0208).toInt → (∀ r ∈ recs, RecordAt s w (s.reg w c r.toNat) 64) →
      Granted s w c p.writes (p.reads ++ p.recs) → Queues i s w c p.cmd p.writes p.reads .matrix) ∧
    (∀ d a p l, Usable s w c [d, a] → planUnpack (s.reg w c d.toNat) (s.reg w c a.toNat) s w c = .ok p → c.count .mx < 15 →
      2 ^ 32 ≤ (s.cb w.core 0x0208).toInt → (∀ r ∈ [d, a], RecordAt s w (s.reg w c r.toNat) 64) →
      (∀ h, p.cmd.a = some h → s.scaleAt w c (scaleVas c.fmta (h.ext 1) (blocksOf (h.ext 0)) (List.range (blocksOf (h.ext 0)))) = .ok l) →
      (∀ o ∈ l, s.readable w o (o + 1)) → (∀ f ∈ p.writes, ∀ o ∈ l, ¬(f.lo < (o : Int) + 1 ∧ (o : Int) < f.hi)) →
      Granted s w c p.writes (p.reads ++ l.map (fun (o : Nat) => { lo := o, hi := o + 1, at_ := p.cmd.dst.at_ }) ++ p.recs) →
      Queues (.bpunpk d a) s w c { p.cmd with scaleA := l.map fun o => memRead s.mem (tileAddr w.core o) 1, scaleB := [] } p.writes
        (p.reads ++ l.map fun (o : Nat) => { lo := o, hi := o + 1, at_ := p.cmd.dst.at_ }) .matrix) ∧
    (∀ fn i d a b bw p va vb l, (fn = 0 ∧ i = .mxa d a b bw) ∨ (fn = 1 ∧ i = .mxag d a b bw) ∨ (fn = 2 ∧ i = .mxsp d a b bw) →
      tileKind (coreTile w.core) = .d ∨ tileKind (coreTile w.core) = .a → Usable s w c [d, a, b] → bw = 1 ∨ c.count .mx < 15 →
      planMx fn (s.reg w c d.toNat) (s.reg w c a.toNat) (s.reg w c b.toNat) s w c = .ok p →
      (∀ r ∈ [d, a, b], RecordAt s w (s.reg w c r.toNat) 64) →
      (∀ r ∈ s.auxRange w.core (s.reg w c a.toNat), s.readable w r.1 r.2) → mxScales c p.cmd = (va, vb) → s.scaleAt w c (va ++ vb) = .ok l →
      (∀ o ∈ l, s.readable w o (o + 1)) → (∀ f ∈ p.writes, ∀ o ∈ l, ¬(f.lo < (o : Int) + 1 ∧ (o : Int) < f.hi)) →
      Granted s w c p.writes (p.reads ++ l.map (fun (o : Nat) => { lo := o, hi := o + 1, at_ := p.cmd.dst.at_ }) ++ p.recs) →
      Queues i s w c { p.cmd with
        scaleA := (l.take va.length).map fun o => memRead s.mem (tileAddr w.core o) 1
        scaleB := (l.drop va.length).map fun o => memRead s.mem (tileAddr w.core o) 1, blocking := bw == 1 } p.writes
        (p.reads ++ l.map fun (o : Nat) => { lo := o, hi := o + 1, at_ := p.cmd.dst.at_ }) .matrix) ∧
    (∀ (d a b : Reg) (va k : Word) (acc : Access), Usable s w c [a, b, d] → c.count .ld < 15 → coreRet w.core < 49 →
      va = s.reg w c a.toNat → k = s.reg w c b.toNat → va.toNat % 128 = 0 → 0x2C0000 ≤ va.toNat → va.toNat < 0x300000 → k.toNat ≤ 10 →
      acc = s.request w c (.load 3 false) (BitVec.ofNat 64 (va.toNat + 8 * k.toNat)) (s.paOf (tileAddr w.core (va.toNat + 8 * k.toNat))) 0 0
        (some d) s.ids → AtHome s acc →
      ∃ t c', exec (.eread d a b) s = .next t ∧ c' = (c.done s.ids).finished (s.now w.core) 1 8 ∧
        Changes ({ s with ids := s.ids + 1 }.modCore w.core fun k => { k with took := true }) t w c' (c.touches d) ∧ (d ≠ 0 → t.regEntry w c' d.toNat =
          { val := BitVec.ofNat 64 (memRead s.mem (tileAddr w.core (va.toNat + 8 * k.toNat)) 8), pres := .present, bad := false }))

/-- R112, R113, R117, R122, R156, R164, R172, R291: engines at work. A sub-step of the dense array takes its charge from the credit and adds, to every
output whose operands are trusted and whose scales are below 255, its block product at the position of its scales, one with a scale of 255 taking SIV;
a near accumulator that is flushed changes no sum. An element of VADD to VXOR is the value of R164, written alone. A command that has nothing left to
do leaves its part, its hold and ctr.MX, and raises its flags. Groups of elements, the boundaries of pace, and how residue checks come out are the
model's form (logs 33, 35, 56). -/
def Obligations.EngineWork : Prop :=
  (∀ (o : OutSum) (p : Int) (q : Nat), (o.add p q).total = o.total + p * (2 ^ q : Nat)) ∧
  (∀ (s : State) (k t : Nat) (x : Cmd) (l r : List Nat) (a b : Shape), s.ev = some (.denseSubstep k) → (s.core k).denseCmd = some x →
    x.op = .mx l → x.a = some a → x.b = some b → x.todo = t :: r → x.charge ≤ (s.core k).credit →
    (s.tok k).hold ≠ 0 → (s.core k).residue = [] → x.again = false →
    (∀ i j, i < a.ext 1 → j < x.wa → s.trusted k (a.block i (l.getD t 0) j) (a.block i (l.getD t 0) j + 8)) →
    (∀ i j, i < b.ext 1 → j < x.wb → s.trusted k (b.block i (l.getD t 0) j) (b.block i (l.getD t 0) j + 8)) →
    ∃ u y, exec .denseSubstep s = .next u ∧ u.mem = s.mem ∧ (u.core k).credit + 65536 * x.wa * x.wb = (s.core k).credit ∧ y.todo = r ∧ y.id = x.id ∧
      (u.core k).cmds = (s.core k).cmds.map (fun z => if z.id = x.id then y else z) ∧
      u.rcb (coreRet k) 0x0620 = s.rcb (coreRet k) 0x0620 + BitVec.ofNat 64 x.charge ∧ y.sums.length = x.sums.length ∧
      ∀ n o i j ea eb, x.sums[n]? = some o → o.bad = none → i = n / b.ext 1 → j = n % b.ext 1 → i < a.ext 1 → j < b.ext 1 →
        ea = x.scaleA.getD (i * l.length + t) 0 → eb = x.scaleB.getD (j * l.length + t) 0 →
        (ea = 255 ∨ eb = 255 → y.sums[n]? = some { o with siv := true }) ∧
        (ea < 255 → eb < 255 → ∃ o', y.sums[n]? = some o' ∧ o'.bad = none ∧ o'.siv = o.siv ∧ o'.total = o.total +
          blockProduct (s.planes k a i (l.getD t 0) x.wa) (s.planes k b j (l.getD t 0) x.wb) (l.getD t 0) (a.ext 0) *
            (2 ^ (ea + eb + 68 - x.wa - x.wb) : Nat))) ∧
  (∀ (s : State) (k t : Nat) (x : Cmd) (l r : List Nat) (a b : Shape), s.ev = some (.denseSubstep k) → (s.core k).denseCmd = some x →
    x.op = .mx l → x.a = some a → x.b = some b → x.todo = t :: r → x.charge ≤ (s.core k).credit →
    (s.tok k).hold ≠ 0 → (s.core k).residue.head? = some true → x.again = false →
    ∃ u, exec .denseSubstep s = .next u ∧ u.mem = s.mem ∧ (u.core k).credit + x.charge = (s.core k).credit ∧
      (u.core k).residue = (s.core k).residue.tail ∧
      (u.core k).cmds = (s.core k).cmds.map (fun z => if z.id = x.id then { x with again := true } else z)) ∧
  (∀ (s : State) (k fn n z p q : Nat) (x : Cmd) (a b : Shape), x.op = .vop fn → x.a = some a → x.b = some b → x.dst.men = false → fn ≤ 8 → fn ≠ 3 →
    x.jobs = n → fmtFloat a.fmt = none → z = fmtBytes a.fmt → fmtBytes x.dst.fmt = z → 0 < z → s.trusted k (a.addr n) (a.addr n + z) →
    s.trusted k (b.addr n) (b.addr n + z) → p = memRead s.mem (tileAddr k (a.addr n)) z → q = memRead s.mem (tileAddr k (b.addr n)) z →
    ∃ t y v, runJob s k x = (t, y) ∧ y.jobs = n + 1 ∧ y.flags = x.flags ∧
      v = [(p + q) % 2 ^ (8 * z), (p + 2 ^ (8 * z) - q) % 2 ^ (8 * z), p * q % 2 ^ (8 * z), 0,
        if intOf (fmtSigned a.fmt) (8 * z) p ≤ intOf (fmtSigned a.fmt) (8 * z) q then p else q,
        if intOf (fmtSigned a.fmt) (8 * z) p ≤ intOf (fmtSigned a.fmt) (8 * z) q then q else p, p &&& q, p ||| q, p ^^^ q].getD fn 0 ∧
      ∀ m, memByte t.mem m = if tileAddr k (x.dst.addr n) ≤ m ∧ m < tileAddr k (x.dst.addr n) + z
        then BitVec.ofNat 8 (v / 256 ^ (m - tileAddr k (x.dst.addr n))) else memByte s.mem m) ∧
  (∀ (s : State) (k id fn : Nat) (x : Cmd) (w : Who) (c : Ctx), s.ev = some (.engineCommandComplete k id) → (s.core k).cmds = [x] → x.id = id →
    x.op = .vop fn → x.part = .core ∨ x.part = .vector ∨ x.part = .special → x.ended = true → x.bad = none → x.blocking = false →
    (∀ h, (s.core k).holds = [h] → h.id = id → h.after = [] →
    w = { core := k, slot := x.slot } → s.gen w = x.gen → s.ctx? w = some c → c.alone → c.pend = Pend.none → x.flags &&& c.enabled = 0 →
    bit c.trapen 20 = false → bit c.trapen 21 = false →
    ∃ t, exec .engineCommandComplete s = .next t ∧ t.mem = s.mem ∧ (t.core k).cmds = [] ∧ (t.core k).holds = [] ∧
      t.ctx? w = some ((c.done id).raise x.flags)))
/-! Streams, the set engine, conflict batching (spec/12). -/

/-- R178 to R181: on a tile, SSOPEN opens a stream on its record for its context, SSCLOSE closes it, SSNEXT loads its next key and moves past it or
answers the end marker, SSPOS answers CNT and POS; SISECT and SIMERGE issue a set command and park. A common key of two streams is written out once by
SISECT, and both streams move past it. The order in which the set engine asks for keys is the model's reading (log 36). -/
def Obligations.StreamsAndSets : Prop :=
  (∀ (s : State) (w : Who) (c : Ctx) (d a : Reg) (n : BitVec 3) (x : Stream), Issues s w c → c.alone → isTile w.core = true → c.cond = none → c.lvq = [] →
    Usable s w c [a, d] → x = s.stream w.core n.toNat →
    (∀ y va, c.kind ≠ .migrant → x.isOpen = false ∨ x.slot = w.slot ∧ x.gen = s.gen w → va = s.reg w c a.toNat → Record s w c va 64 →
      s.readStream w.core va = .ok y →
      ∃ t z, exec (.ssopen n a) s = .next t ∧ t.ctx? w = some (s.after w c) ∧ Keeps s t w [w.slot] [] ∧ z = t.stream w.core n.toNat ∧ z.isOpen = true ∧
        z.slot = w.slot ∧ z.gen = s.gen w ∧ z.pos = 0 ∧ z.cnt = 0 ∧ z.rs = false ∧ z.va = (s.recWords w.core va.toNat 8).getD 1 0 ∧
        z.len = ((s.recWords w.core va.toNat 8).getD 2 0).toNat % 2 ^ 32 ∧ ∀ m, m ≠ n.toNat → t.stream w.core m = s.stream w.core m) ∧
    (x.isOpen = false → Becomes (.ssclose n) s w (s.after w c)) ∧
    (x.isOpen = true → x.slot = w.slot → x.gen = s.gen w →
      (∃ t, exec (.ssclose n) s = .next t ∧ t.ctx? w = some (s.after w c) ∧ t.stream w.core n.toNat = { x with isOpen := false, rs := false } ∧
        Keeps s t w [w.slot] []) ∧
      Yields (.sspos d n) s w c d (BitVec.ofNat 64 (x.cnt * 2 ^ 32 + x.pos)) ∧
      (x.len ≤ x.pos → ∃ t, exec (.ssnext d n) s = .next t ∧ t.ctx? w = some (s.after w c) ∧ t.stream w.core n.toNat = { x with rs := false } ∧
        Keeps s t w [w.slot] (c.touches d) ∧ (d ≠ 0 → t.reg w c d.toNat = BitVec.allOnes 64)) ∧
      (∀ va op pa r, x.pos < x.len → c.count .ld < 15 → va = x.va + BitVec.ofNat 64 (x.pos * x.z) → op = .load (if x.fmt = 7 then 2 else 3) false →
        va.toNat % op.bytes = 0 → s.xlate w c va .read = .ok pa → s.reachTrap w c pa = none → s.isLocalPa pa = true → s.homeOf pa ≠ w.core →
        r = s.request w c op va pa 0 0 (some d) s.ids → s.hostPort? pa = none →
        ∃ t, exec (.ssnext d n) s = .next t ∧ t.ctx? w = some (s.after w (c.add (s.owes c op pa (some d)))) ∧ t.pending = s.pending ++ [.loadRequest r] ∧
          t.stream w.core n.toNat = { x with rs := false, pos := x.pos + 1 } ∧ Keeps s t w [w.slot] (c.touches d) ∧ (d ≠ 0 → (t.regEntry w c d.toNat).pres = .owed))) ∧
    (∀ fn i (m : BitVec 3) p, (fn = 4 ∧ i = .sisect d n m) ∨ (fn = 5 ∧ i = .simerge d n m) → tileKind (coreTile w.core) = .s →
      planSet fn n.toNat m.toNat (s.reg w c d.toNat) s w c = .ok p →
      RecordAt s w (s.reg w c d.toNat) 64 → Granted s w c p.writes (p.reads ++ p.recs) →
      Queues i s w c p.cmd p.writes p.reads .setCmd)) ∧
  (∀ (s : State) (k sa sb : Nat) (x : Cmd) (v : Word), x.op = .set 4 sa sb → sa ≠ sb → x.ended = false → x.req = none → x.keyA = some v →
    x.keyB = some v → x.out < x.dst.count → (s.stream k sa).pos < (s.stream k sa).len → (s.stream k sb).pos < (s.stream k sb).len →
    ∃ t y, runSet k 1 s x = (t, y) ∧ y.out = x.out + 1 ∧ y.keyA = none ∧ y.keyB = none ∧ (t.stream k sa).pos = (s.stream k sa).pos + 1 ∧
      (t.stream k sb).pos = (s.stream k sb).pos + 1 ∧ (t.stream k sa).cnt = x.out + 1 ∧ (t.stream k sb).cnt = x.out + 1 ∧
      ∀ m, memByte t.mem m = if tileAddr k (x.dst.addr x.out) ≤ m ∧ m < tileAddr k (x.dst.addr x.out) + x.dst.z
        then BitVec.ofNat 8 (v.toNat / 256 ^ (m - tileAddr k (x.dst.addr x.out))) else memByte s.mem m)

/-- R245 to R249: on an S tile, CBCFG gives its context the unit with the limits of its record, CBPUSH takes a constraint and answers 1 unless 256 are
held, CBPOP takes the oldest closed batch, CBSTAT reports; CBFLUSH and forming lose no constraint. The unit's finishing writes the words and the
result, and ends the park. That an instruction changes the unit at its issue and ends by an event is the model's reading (log 37). -/
def Obligations.ConflictBatching : Prop :=
  (∀ (s : State) (w : Who) (c : Ctx) (d a : Reg) (va : Word) (u : Cbu), Issues s w c → c.alone → isTile w.core = true →
    tileKind (coreTile w.core) = .s → c.kind ≠ .migrant → c.cond = none → c.lvq = [] → Usable s w c [a, d] → va = s.reg w c a.toNat → u = (s.core w.core).cbu →
    (∀ ml bl, u.owner = none ∨ u.owner = some (w.slot, s.gen w) ∧ u.savedBy = none → Record s w c va 64 → 1 ≤ ml → ml ≤ 256 → 1 ≤ bl → bl ≤ 512 →
      s.recWords w.core va.toNat 8 = BitVec.ofNat 64 (2 ^ 63 + ml * 2 ^ 16 + bl) :: List.replicate 7 0 →
      UnitTakes (.cbcfg a) s w c none 0 0 [] fun v => v.owner = some (w.slot, s.gen w) ∧ v.savedBy = none ∧ v.ml = ml ∧ v.bl = bl ∧
        v.pending = [] ∧ v.batch = [] ∧ v.closed = []) ∧
    (u.owner = some (w.slot, s.gen w) → u.savedBy = none →
      (∀ bs, Record s w c va 32 → bodiesOf (s.recWords w.core va.toNat 4) = some bs → bs.length ≤ u.bl →
        (u.held = 256 → UnitTakes (.cbpush d a) s w c (some d) 0 0 [] fun v => { v with busy := u.busy } = u) ∧
        (u.held ≠ 256 → UnitTakes (.cbpush d a) s w c (some d) 1 0 [] fun v => v.held = u.held + 1 ∧ v.owner = u.owner)) ∧
      UnitTakes .cbflush s w c none 0 0 [] (fun v => v.held = u.held ∧ v.owner = u.owner) ∧
      (∀ tags r, u.closed = tags :: r → va.toNat % 8 = 0 → va.toNat + 8 * tags.length ≤ 0x2B0000 →
        (∀ off, off % 64 = 0 → va.toNat / 64 * 64 ≤ off → off < va.toNat + 8 * tags.length →
          s.admits (.sram w.core off) c.tag .write (tileAddr w.core off) = true) →
        UnitTakes (.cbpop d a) s w c (some d) (BitVec.ofNat 64 tags.length) va.toNat tags fun v => v.held + tags.length = u.held) ∧
      UnitTakes (.cbstat d) s w c (some d) (BitVec.ofNat 64 ((batchBodies u.batch).length * 2 ^ 36 + u.closed.length * 2 ^ 27 +
        u.batch.length * 2 ^ 18 + u.pending.length * 2 ^ 9 + u.held)) 0 [] fun v => { v with busy := u.busy } = u)) ∧
  (∀ (s : State) (k : Nat) (b : CbBusy) (r : List CbBusy) (w : Who) (c : Ctx), s.ev = some (.cbUnitFinished k) → (s.core k).cbu.busy = b :: r →
    (s.core k).holds = [] → w = { core := k, slot := b.slot } → s.gen w = b.gen → s.ctx? w = some c → c.run = .parked .cb → c.alone →
    ∃ t c', exec .cbUnitFinished s = .next t ∧ t.ctx? w = some c' ∧ c' = { c with run := .ready, busy := none }.finished (s.now k) 1 8 ∧
      (t.core k).cbu.busy = r ∧ (∀ n, b.dst = some n → n ≠ 0 → t.reg w c n = b.value) ∧
      readWords t.mem (tileAddr k b.at_) b.out.length = b.out ∧
      ∀ m, m < tileAddr k b.at_ ∨ tileAddr k b.at_ + 8 * b.out.length ≤ m → memByte t.mem m = memByte s.mem m)
/-! Copies (spec/10). -/

/-- R240 to R244: with a free channel and hold, a good descriptor that the tile's table admits, its first elements translated and no translation that has
to wait, CPY and CPCAST start a copy on the lowest free channel, count it in ctr.CP and answer its handle; CPWP answers at once how far the copy of a
handle is, STALE for an earlier copy of its channel, and traps WPTRBAD for any other SEQ. A source element's reply waits to be written out; a write
performed moves the write pointer, and the last one ends the copy. The order of source reads and which element a fault names are the model's choice
(log 38), the members of a CPCAST its reading (log 39). -/
def Obligations.Copies : Prop :=
  (∀ (s : State) (w : Who) (c : Ctx) (d a b : Reg) (i : Instr) (at_ : Word) (x : Desc) (pa ch : Nat) (tg : List (Nat × Word)) (cast : Bool),
    Issues s w c → c.solo → isTile w.core = true → c.cond = none → c.count .cp < 15 → Usable s w c [a, b, d] → at_ = s.reg w c a.toNat →
    Record s w c at_ 128 → (∀ k va, (s.unitXlate w c va k).2 ≠ .miss) → s.readDesc w.core at_ cast = .ok x → s.xlate w c (x.srcVa 0) .read = .ok pa →
    (s.core w.core).freeChan = some ch → (s.core w.core).holds.length < 32 →
    (cast = false ∧ i = .cpy d a ∧ tg = [(w.core, x.dst)] ∨
      cast = true ∧ i = .cpcast d a b ∧ (s.reg w c b.toNat).toNat % 2 ^ x.esz = 0 ∧
        tg = ((List.range 16).filter fun n => x.cast / 2 ^ n % 2 == 1).map fun n =>
          (clusterTile w.core n, x.dst + BitVec.ofNat 64 n * s.reg w c b.toNat)) →
    s.firstElements w c x at_ cast tg = .ok () →
    ∃ t k, exec i s = .next t ∧ Keeps s t w [w.slot] (c.touches d) ∧
      t.ctx? w = some (s.after w (c.add { id := s.ids, cls := .cp, dst := none, home := some w.core, both := false })) ∧
      mget (t.core w.core).chans ch = some k ∧ k.seq = (s.core w.core).cpSeq ∧ k.id = s.ids ∧ k.slot = w.slot ∧ k.gen = s.gen w ∧ k.desc = x ∧
      k.targets = tg ∧ k.total = x.e.foldl (· * ·) 1 ∧ k.reads = 0 ∧ k.wp = 0 ∧ k.finished = false ∧ k.asid = c.asid ∧ k.tag = c.tag ∧
      (∀ n, n ≠ ch → mget (t.core w.core).chans n = mget (s.core w.core).chans n) ∧ (t.core w.core).cpSeq = ((s.core w.core).cpSeq + 1) % 2 ^ 32 ∧
      (d ≠ 0 → t.reg w c d.toNat =
        BitVec.ofNat 64 ((s.core w.core).cpSeq * 2 ^ 32 + coreRet w.core * 2 ^ 16 + coreTile w.core * 2 ^ 8 + ch))) ∧
  (∀ (s : State) (w : Who) (c : Ctx) (d a : Reg) (h : Word) (k : Chan) (q : Nat), Issues s w c → c.solo → isTile w.core = true →
    Usable s w c [a, d] → h = s.reg w c a.toNat → h.toNat % 2 ^ 32 / 4 % 2 ^ 6 = 0 → h.toNat % 2 ^ 32 / 2 ^ 22 = 0 →
    h.toNat / 2 ^ 16 % 2 ^ 6 = coreRet w.core → h.toNat / 2 ^ 8 % 2 ^ 8 = coreTile w.core → mget (s.core w.core).chans (h.toNat % 4) = some k →
    q = h.toNat / 2 ^ 32 →
    (k.seq = q → Yields (.cpwp d a) s w c d
      (BitVec.ofNat 64 ((if k.finished then 2 ^ 63 else 0) + (if k.fault then 2 ^ 62 else 0) + k.wp % 2 ^ 48))) ∧
    (k.seq ≠ q → q ∈ k.before → Yields (.cpwp d a) s w c d 0xA000000000000000) ∧
    (k.seq ≠ q → q ∉ k.before → Traps (.cpwp d a) s w c .wptrbad h)) ∧
  (∀ (s : State) (k ch n : Nat) (r : Reply) (x : Chan), s.arrived r = r → s.inboundShut r.acc = false → mget (s.core k).chans ch = some x →
    x.finished = false → BitVec.ofNat 64 x.id = r.acc.cmp → r.status = .ok → x.stopping = none →
    (s.ev = some (.copySourceReply k ch r) → r.acc.dst = .copyRd ch n → x.answered + 1 < x.reads → x.wp < x.total →
      ∃ t, exec .copySourceReply s = .next t ∧ t.mem = s.mem ∧
        mget (t.core k).chans ch = some { x with answered := x.answered + 1, buf := x.buf ++ [(n, r.value)] }) ∧
    (∀ w c, s.ev = some (.copyWritePerformed k ch r) → r.acc.dst = .copyWr ch (16 * x.wp) → x.targets.length = 1 → x.done = [] →
      w = { core := k, slot := x.slot } → s.gen w = x.gen → s.ctx? w = some c →
      ∃ t y, exec .copyWritePerformed s = .next t ∧ t.mem = s.mem ∧ mget (t.core k).chans ch = some y ∧ y.wp = x.wp + 1 ∧
        (x.wp + 1 < x.total → y.finished = false ∧ t.ctx? w = some c) ∧
        (x.wp + 1 = x.total → y.finished = true ∧ y.fault = false ∧ t.ctx? w = some (c.done x.id))))
/-! Named barriers (spec/14). -/

/-- R307, R309, R311, R312: a barrier's members. GJOIN joins at once in an idle phase, else with the next; GLEAVE leaves; BARR arrives, as a release;
BWAIT and BARW wait for the phase to end, an abort being COLLTIMEOUT after the instruction; BWAITT answers a status or waits with a timer, whose end
aborts the phase. The last arrival at a root ends the phase. Which forms are a release is the model's reading (log 40). -/
def Obligations.BarrierMembers : Prop :=
  ∀ (s : State) (w : Who) (c : Ctx) (g : BitVec 7) (d r : Reg) (b ph narr : Nat) (st cf : Word), Issues s w c → c.alone → g.toNat = b → b < 48 →
    Usable s w c [r, d] → st = s.cb w.core (barSt b) → cf = s.cb w.core (barCfg b) → ph = bits st 47 32 → narr = bits st 13 8 →
    (s.member? w.core b w.slot = none → c.kind ≠ .migrant → (s.core w.core).members.length < 256 →
      ∃ t m, exec (.gjoin g) s = .next t ∧ t.ctx? w = some (s.after w { c with grp := setBit c.grp b true }) ∧ Keeps s t w [w.slot] [] ∧
        (t.core w.core).members = (s.core w.core).members ++ [m] ∧ m.bar = b ∧ m.slot = w.slot ∧ m.out = false ∧
        (narr = 0 ∧ bits st 31 23 = 0 ∧ bit st 62 = false → m.joining = false ∧ t.cb w.core (barSt b) = setBits st 5 0 (bits st 5 0 + 1)) ∧
        (¬(narr = 0 ∧ bits st 31 23 = 0 ∧ bit st 62 = false) → m.joining = true ∧ t.cb w.core (barSt b) = setBits st 19 14 (bits st 19 14 + 1))) ∧
    (∀ m, s.member? w.core b w.slot = some m →
      (∃ t, exec (.gleave g) s = .next t ∧ t.ctx? w = some (s.after w { c with grp := setBit c.grp b false }) ∧ Keeps s t w [w.slot] [] ∧
        ∀ x ∈ (t.core w.core).members, ¬(x.bar = b ∧ x.slot = w.slot ∧ x.saved = none)) ∧
      (m.out = true → Becomes (.barr g) s w (s.after w c)) ∧
      (m.out = false → m.joining = false → c.within 15 15 0 0 = true →
        ((narr + 1) % 64 ≠ bits st 5 0 ∨ bits st 31 23 ≠ bits cf 34 26 ∨ bit st 62 = true →
          (∃ t, exec (.barr g) s = .next t ∧ t.ctx? w = some (s.after w c) ∧ t.cb w.core (barSt b) = setBits st 13 8 (narr + 1) ∧
            t.member? w.core b w.slot = some { m with out := true, done := false, ap := BitVec.ofNat 16 ph } ∧ Keeps s t w [w.slot] [] ∧ t.pending = s.pending) ∧
          (∃ t, exec (.barw g) s = .next t ∧ t.ctx? w = some { c with run := .parked (.barrier b none) } ∧
            t.cb w.core (barSt b) = setBits st 13 8 (narr + 1) ∧
            t.member? w.core b w.slot = some { m with out := true, done := false, ap := BitVec.ofNat 16 ph } ∧ Keeps s t w [w.slot] [] ∧ t.pending = s.pending)) ∧
        (narr + 1 = bits st 5 0 → bits st 31 23 = bits cf 34 26 → bit st 62 = false → parentOf cf = none → s.armedAt w.core b = [] →
          s.childrenOf w.core b = [] → (∀ x ∈ (s.core w.core).members, x.bar = b → x.joining = false) →
          (∃ t, exec (.barr g) s = .next t ∧ t.ctx? w = some (s.after w c) ∧ bits (t.cb w.core (barSt b)) 47 32 = (ph + 1) % 2 ^ 16 ∧
            bits (t.cb w.core (barSt b)) 13 8 = 0 ∧ bits (t.cb w.core (barSt b)) 5 0 = bits st 5 0 ∧ bit (t.cb w.core (barSt b)) 63 = false ∧
            t.member? w.core b w.slot = some { m with out := true, done := true, res := false, ap := BitVec.ofNat 16 ph } ∧ Keeps s t w [w.slot] [] ∧
            t.pending = s.pending) ∧
          (∃ t, exec (.barw g) s = .next t ∧ t.ctx? w = some (s.after w c) ∧ bits (t.cb w.core (barSt b)) 47 32 = (ph + 1) % 2 ^ 16 ∧
            t.member? w.core b w.slot = some { m with out := false, done := true, res := false, ap := BitVec.ofNat 16 ph }))) ∧
      (∀ i, i = .bwait g ∨ i = .barw g ∧ m.out = true →
        (m.out = false → Becomes i s w (s.after w c)) ∧
        (m.out = true → m.done = false → Becomes i s w { c with run := .parked (.barrier b none) }) ∧
        (m.out = true → m.done = true → m.res = false → ∃ t, exec i s = .next t ∧ t.ctx? w = some (s.after w c) ∧
          t.member? w.core b w.slot = some { m with out := false } ∧ Keeps s t w [w.slot] []) ∧
        (∀ vec c1, m.out = true → m.done = true → m.res = true → Delivers s w c vec →
          c1 = { s.after w c with pend := { (s.after w c).pend with step := c.pend.step } } →
          ∃ t c', exec i s = .next t ∧ t.ctx? w = some c' ∧ Entered s w c1 c' c1.pc (BitVec.ofNat 64 (m.ap.toNat * 2 ^ 32 + b)) vec .sync .colltimeout ∧
            t.member? w.core b w.slot = some { m with out := false } ∧ Keeps s t w [w.slot] [])) ∧
      (m.out = false → Yields (.bwaitt d g r) s w c d (BitVec.ofNat 64 (ph * 2 ^ 32))) ∧
      (m.out = true → m.done = true → ∃ t, exec (.bwaitt d g r) s = .next t ∧ t.ctx? w = some (s.after w c) ∧
        t.member? w.core b w.slot = some { m with out := false } ∧ Keeps s t w [w.slot] (c.touches d) ∧
        (d ≠ 0 → t.reg w c d.toNat = BitVec.ofNat 64 ((if m.res then 2 ^ 62 else 0) + m.ap.toNat * 2 ^ 32))) ∧
      (m.out = true → m.done = false → bits (s.reg w c r.toNat) 39 0 = 0 →
        Yields (.bwaitt d g r) s w c d (BitVec.ofNat 64 (2 ^ 63 + m.ap.toNat * 2 ^ 32))) ∧
      (m.out = true → m.done = false → bits (s.reg w c r.toNat) 39 0 ≠ 0 →
        Becomes (.bwaitt d g r) s w { c with run := .parked (.barrier b (some (bits (s.reg w c r.toNat) 39 0))) }))
/-- R308, R310, R312: messages between barriers. An arrival is counted unless the children have all arrived; a verdict ends the phase and goes on to the
children; a timer's end and an abort request abort the phase they name at a root once the cc is over, if it has not ended; a registration adds a child
and answers the parent's phase; a withdrawal takes one away; the answer gives the phase offset, or clears the parent; a write of a configuration at
rest changes the parent. What is discarded, and what happens where a parent cannot be reached, are the model's reading (log 41). -/
def Obligations.BarrierMessages : Prop :=
  ∀ (s : State) (p k : BarId) (st cf : Word), p.modn = s.modn → k.modn = s.modn → p.bar < 48 → k.bar < 48 →
    st = s.cb p.core (barSt p.bar) → cf = s.cb p.core (barCfg p.bar) →
    (s.ev = some (.barrierArrival p k) → s.coreLive p.core = true →
      (bits st 31 23 + 1 < bits cf 34 26 → ∃ t, exec .barrierArrival s = .next t ∧ t.cb p.core (barSt p.bar) = setBits st 31 23 (bits st 31 23 + 1) ∧
        (∀ v, t.ctx? v = s.ctx? v) ∧ t.mem = s.mem ∧ t.pending = s.pending) ∧
      (bits cf 34 26 ≤ bits st 31 23 → ∃ t, exec .barrierArrival s = .next t ∧ t.cb p.core (barSt p.bar) = st ∧ (∀ v, t.ctx? v = s.ctx? v) ∧
        t.mem = s.mem ∧ t.pending = s.pending)) ∧
    (∀ ab, s.ev = some (.barrierVerdict p ab) → s.armedAt p.core p.bar = [] → s.childrenOf p.core p.bar = [k] → 1 ≤ bits cf 34 26 →
      (∀ x ∈ (s.core p.core).members, x.bar = p.bar → x.joining = false) →
      ∃ t, exec .barrierVerdict s = .next t ∧ bits (t.cb p.core (barSt p.bar)) 47 32 = (bits st 47 32 + 1) % 2 ^ 16 ∧
        bit (t.cb p.core (barSt p.bar)) 63 = ab ∧ bit (t.cb p.core (barSt p.bar)) 62 = false ∧ bits (t.cb p.core (barSt p.bar)) 31 23 = 0 ∧
        bits (t.cb p.core (barSt p.bar)) 13 8 = 0 ∧ bits (t.cb p.core (barSt p.bar)) 5 0 = bits st 5 0 ∧
        t.pending = s.pending ++ [.barrierVerdict k ab] ∧ t.mem = s.mem ∧
        ∀ x ∈ (t.core p.core).members, x.bar = p.bar → x.out = true → x.ap.toNat = bits st 47 32 → x.done = true ∧ x.res = ab) ∧
    (∀ w c n m, s.ev = some (.bwaittTimeout w.core w.slot) → s.ctx? w = some c → w.core = p.core → c.run = .parked (.barrier p.bar (some n)) →
      s.member? p.core p.bar w.slot = some m → m.out = true → m.done = false → m.joining = false → m.ap.toNat = bits st 47 32 →
      parentOf cf = none → s.armedAt p.core p.bar = [] →
      ∃ t, exec .bwaittTimeout s = .next t ∧ t.ctx? w = some { c with run := .parked (.barrier p.bar none) } ∧
        (t.core p.core).aborts = (s.core p.core).aborts ++ [(p.bar, m.ap)] ∧ t.cb p.core (barSt p.bar) = st ∧ t.mem = s.mem ∧ t.pending = s.pending) ∧
    (∀ q : BitVec 16, (s.core p.core).aborts = [(p.bar, q)] →
      (bits st 47 32 ≠ q.toNat → s.settleAborts p.core = s.modCore p.core fun x => { x with aborts := [] }) ∧
      (∀ v m, bits st 47 32 = q.toNat → s.armedAt p.core p.bar = [] → s.childrenOf p.core p.bar = [] → 1 ≤ bits st 5 0 →
        (∀ x ∈ (s.core p.core).members, x.bar = p.bar → x.joining = false) → s.member? p.core p.bar v = some m → m.out = true → m.ap = q →
        bits ((s.settleAborts p.core).cb p.core (barSt p.bar)) 47 32 = (bits st 47 32 + 1) % 2 ^ 16 ∧
        bit ((s.settleAborts p.core).cb p.core (barSt p.bar)) 63 = true ∧
        (s.settleAborts p.core).member? p.core p.bar v = some { m with done := true, res := true } ∧ (s.settleAborts p.core).mem = s.mem)) ∧
    (∀ q : BitVec 16, s.ev = some (.barrierAbortRequest p k q) →
      (bits st 47 32 ≠ q.toNat → exec .barrierAbortRequest s = .next s) ∧
      (∀ f, bits st 47 32 = q.toNat → parentOf cf = some f → f.modn = s.modn → s.coreLive f.core = true → s.armedAt p.core p.bar = [] →
        exec .barrierAbortRequest s = .next (s.push (.barrierAbortRequest f p (q + BitVec.ofNat 16 (bits cf 15 0)))))) ∧
    (s.ev = some (.barrierRegistration p k) → s.coreLive p.core = true → coreRet k.core = coreRet p.core ∨ s.samePart (coreRet k.core) (coreRet p.core) = true →
      ((s.core p.core).children.length < 256 → ∃ t, exec .barrierRegistration s = .next t ∧
        t.cb p.core (barCfg p.bar) = setBits cf 34 26 (bits cf 34 26 + 1) ∧ t.childrenOf p.core p.bar = s.childrenOf p.core p.bar ++ [k] ∧
        t.pending = s.pending ++ [.registrationReply k false (BitVec.ofNat 16 (bits st 47 32))] ∧ t.mem = s.mem) ∧
      (256 ≤ (s.core p.core).children.length → exec .barrierRegistration s = .next (s.push (.registrationReply k true 0)))) ∧
    (s.ev = some (.barrierWithdrawal p k) → (s.core p.core).children = [{ bar := p.bar, who := some k, entry := 0 }] → bit st 62 = true →
      ∃ t, exec .barrierWithdrawal s = .next t ∧ (t.core p.core).children = [] ∧
        t.cb p.core (barCfg p.bar) = setBits cf 34 26 (bits cf 34 26 - 1) ∧ t.mem = s.mem ∧ t.pending = s.pending) ∧
    (∀ (refused : Bool) (q : BitVec 16), s.ev = some (.registrationReply k refused q) → k = p →
      ∃ t, exec .registrationReply s = .next t ∧ t.mem = s.mem ∧ t.pending = s.pending ∧
        (refused = true → bit (t.cb p.core (barCfg p.bar)) 63 = false ∧ bit (t.cb p.core (barCfg p.bar)) 25 = true) ∧
        (refused = false → t.cb p.core (barCfg p.bar) = setBits cf 15 0 (q - BitVec.ofNat 16 (bits st 47 32)).toNat)) ∧
    (∀ v, s.ev = some (.barrierConfigWrite p.core p.bar v) → bit cf 25 = false →
      (bits st 5 0 ≠ 0 → exec .barrierConfigWrite s = .next s) ∧
      (bits st 5 0 = 0 → bits st 19 14 = 0 → bits st 13 8 = 0 → bits st 31 23 = 0 → bit st 62 = false → bit cf 63 = false → bit v 63 = true →
        ∃ t, exec .barrierConfigWrite s = .next t ∧ bits (t.cb p.core (barCfg p.bar)) 63 35 = bits v 63 35 ∧
          bits (t.cb p.core (barCfg p.bar)) 34 0 = bits cf 34 0 ∧ t.mem = s.mem ∧
          t.pending = s.pending ++ [.barrierRegistration
            { modn := bits v 62 55, core := coreId (bits v 54 49) (bits v 48 41), bar := bits v 40 35 } p]))
/-! Tasks and the drainage tree (spec/13, spec/14). -/

/-- R269 to R275, R313 to R317: SPAWN, once the words of its packet have come and are good, sends a migrant to its anchor's home and answers 0, or 1
without an overflow entry, a charged one first raising its tree's counter; QPUSH, QPOP and DRWAIT send a request, and the queue's home enters a pair
at TAIL or answers 1 when it is full, or takes the pair at HEAD. DRINC and DRDEC change the core's counter, and pass a change from or to zero up the
tree. When a packet's errors are found is the model's reading (log 42), as is the place of DRAINERR (log 43). -/
def Obligations.Tasks : Prop :=
  (∀ (s u : State) (w : Who) (c : Ctx) (d a : Reg) (va : Word) (pa ah : Nat) (g : Gather) (l p : List Word), Issues s w c → c.solo → c.cond = none →
    c.within 15 15 0 0 = true → Usable s w c [a, d] → va = s.reg w c a.toNat → va.toNat % 64 = 0 → s.xlate w c va .read = .ok pa →
    s.reachTrap w c pa = none → c.gather = some g → g.left = [] → g.asked = [] → g.bad = none →
    l = (List.range 8).map (fun i => (mget g.got i).getD 0) → u = s.setCtx w c →
    packetBad l = false → u.xlate w c (l.getD 3 0) .read = .ok ah → u.isLocalPa ah = true → u.reachTrap w c ah = none →
    u.samePart (coreRet w.core) (coreRet (u.homeOf ah)) = true → p = spawnPacket c l →
    (c.dref.getLsbD 63 = false → u.freeOverflow (coreRet w.core) = none →
      ∃ t, exec (.spawn d a) s = .next t ∧ Changes u t w (u.after w c) (c.touches d) ∧ (d ≠ 0 → t.reg w c d.toNat = 1)) ∧
    (∀ n, c.dref.getLsbD 63 = false → u.freeOverflow (coreRet w.core) = some n →
      ∃ t q, exec (.spawn d a) s = .next t ∧ t.ctx? w = some (u.after w c) ∧ Keeps u t w [w.slot] (c.touches d) ∧ (d ≠ 0 → t.reg w c d.toNat = 0) ∧
        t.pending = u.pending ++ [.migrantArrival (u.homeOf ah) q w.core] ∧ q.length = 32 ∧ (∀ i, i ≠ 7 → q.getD i 0 = p.getD i 0) ∧
        n ∈ (t.reticle (coreRet w.core)).pool) ∧
    (c.dref.getLsbD 63 = true →
      ∃ t o x, exec (.spawn d a) s = .next t ∧ t.ctx? w = some (u.after w (c.add o)) ∧ o.cls = .ld ∧ o.dst = some d.toNat ∧ Keeps u t w [w.slot] (c.touches d) ∧
        (d ≠ 0 → (t.regEntry w c d.toNat).pres = .owed) ∧ t.pending = u.pending ++
          [.drainUp (.core (drefCore c.dref)) (.core (drefCore c.dref)) (drefRoot c.dref) x] ∧ x.use = .packet p (u.homeOf ah) ∧ x.id = o.id) ∧
    (bits (l.getD 0 0) 63 61 < 8 ∧ p.getD 0 0 = BitVec.ofInt 64 (((l.getD 0 0).setWidth 55).toInt) ∧ bits (p.getD 1 0) 34 32 = bits (l.getD 0 0) 63 61 ∧
      p.getD 5 0 = c.dref ∧ ∀ i, i < 8 → p.getD (8 + i) 0 = BitVec.ofInt 64 (((l.getD (4 + i / 2) 0).extractLsb' (32 * (i % 2)) 32).toInt))) ∧
  (∀ (s : State) (w : Who) (c : Ctx) (d a b : Reg) (i : Instr) (op : MemOp) (k : AccKind) (va x y : Word) (pa : Nat) (r : Access), Issues s w c →
    c.solo → c.cond = none → c.count .ld < 15 → Usable s w c [a, b, d] → va = s.reg w c a.toNat →
    (i = .qpush d a b ∧ op = .qpush ∧ k = .atomic ∧ va.toNat % 64 = 0 ∧ x = s.reg w c b.toNat ∧ y = BitVec.ofNat 64 (coreRet w.core * 2 ^ 58 +
        coreTile w.core * 2 ^ 50 + w.slot * 2 ^ 44 + (s.gen w).toNat * 2 ^ 28 + c.issuedW % 2 ^ 28) ∨
      i = .qpop d a ∧ op = .qpop ∧ k = .atomic ∧ va.toNat % 64 = 0 ∧ x = 0 ∧ y = 0 ∨
      i = .drwait d a ∧ op = .drwait ∧ k = .read ∧ va.toNat % 8 = 0 ∧ x = 0 ∧ y = 0) →
    s.xlate w c va k = .ok pa → s.reachTrap w c pa = none → s.isLocalPa pa = true → s.homeOf pa ≠ w.core → s.hostPort? pa = none →
    r = s.request w c op va pa x y (some d) s.ids →
    ∃ t, exec i s = .next t ∧ Changes { s with
        ids := s.ids + 1, pending := s.pending ++ [(if op = .qpush then .activeMessage r else .conditionalAttempt r)] }
        t w (({ c.add (s.owes c op pa (some d)) with cond := if op = .qpush then none else some r } : Ctx).finished (s.now w.core) 1 8) (c.touches d) ∧
      (d ≠ 0 → (t.regEntry w c d.toNat).pres = .owed)) ∧
  (∀ (s : State) (a : Access) (h k off cap hd tl e : Nat), s.placeOf h = .sram k off → h = lpaOf a.pa → h % 64 = 0 → a.src.core ≠ k → a.src.modn = s.modn →
    (∃ r, a.dst = .reg r) → s.homeBusy k = false → s.mustWait k a (s.core k).blocked = false → s.unmade a = false → s.badMessage k = none →
    s.isLocalPa a.pa = true → s.admits (.sram k off) a.tag .atomic h = true →
    (∀ i, i < 8 → s.poisoned (h + 8 * i) = false ∧ s.corrupt.contains (h + 8 * i) = false) → s.queueHeader h = some (cap, hd, tl) → 0 < cap →
    (a.op = .qpush → s.ev = some (.activeMessage a) → e = h + 64 + 16 * (tl % cap) → (s.core k).waits = [] →
      ((tl + 2 ^ 32 - hd) % 2 ^ 32 = cap → ∃ t, exec .activeMessage s = .next t ∧ t.mem = s.mem ∧
        t.pending = s.pending ∧ (t.core k).jobs = (s.core k).jobs ++ [.answer { acc := a, value := 1, status := .ok }]) ∧
      ((tl + 2 ^ 32 - hd) % 2 ^ 32 ≠ cap → ∃ t, exec .activeMessage s = .next t ∧
        t.pending = s.pending ∧ (t.core k).jobs = (s.core k).jobs ++ [.answer { acc := a, value := 0, status := .ok }] ∧ memRead t.mem e 8 = a.data.toNat ∧
        memRead t.mem (e + 8) 8 = a.cmp.toNat ∧ memRead t.mem (h + 16) 8 = (tl + 1) % 2 ^ 32 ∧ t.full e = true ∧
        ∀ m, ¬(e ≤ m ∧ m < e + 16) → ¬(h + 16 ≤ m ∧ m < h + 24) → memByte t.mem m = memByte s.mem m)) ∧
    (a.op = .qpop → s.ev = some (.conditionalAttempt a) → e = h + 64 + 16 * (hd % cap) → (s.core k).waits = [] → s.full e = true →
      (∀ i, i < 2 → s.poisoned (e + 8 * i) = false ∧ s.corrupt.contains (e + 8 * i) = false) →
      ∃ t, exec .conditionalAttempt s = .next t ∧ t.full e = false ∧ memRead t.mem (h + 8) 8 = (hd + 1) % 2 ^ 32 ∧
        t.pending = s.pending ++ [.stampQuery {
          reply := { acc := a, value := BitVec.ofNat 64 (memRead s.mem e 8), status := .ok }
          stamp := BitVec.ofNat 64 (memRead s.mem (e + 8) 8) }] ∧
        (t.core k).jobs = (s.core k).jobs ++ [.served] ∧ ∀ m, ¬(h + 8 ≤ m ∧ m < h + 16) → memByte t.mem m = memByte s.mem m)) ∧
  (∀ (s : State) (w : Who) (c : Ctx) (a b : Reg) (va : Word) (pa k n : Nat), Issues s w c → c.alone → c.kind ≠ .migrant → Usable s w c [a, b] →
    va = s.reg w c a.toNat → n = (s.reg w c b.toNat).toNat → va.toNat % 8 = 0 → s.xlate w c va .atomic = .ok pa → s.reachTrap w c pa = none →
    s.isLocalPa pa = true → (s.placeOf (lpaOf pa)).isDram = true → k = s.drainCount (.core w.core) (lpaOf pa) →
    (n = 0 → Becomes (.drinc a b) s w (s.after w c)) ∧
    (0 < n → 0 < k → k + n < 2 ^ 32 → s.drainWaits (.core w.core) (lpaOf pa) = [] → ∃ t, exec (.drinc a b) s = .next t ∧ t.ctx? w = some (s.after w c) ∧ Keeps s t w [w.slot] [] ∧ t.pending = s.pending ∧
      t.drainCount (.core w.core) (lpaOf pa) = k + n ∧ ∀ m r, (m, r) ≠ (.core w.core, lpaOf pa) → t.drainCount m r = s.drainCount m r) ∧
    (0 < n → k = 0 → n < 2 ^ 32 → s.drainWaits (.core w.core) (lpaOf pa) = [] → s.drainFull (.core w.core) = false → c.count .st < 15 →
      ∃ t o x, exec (.drinc a b) s = .next t ∧ t.ctx? w = some (s.after w (c.add o)) ∧ o.cls = .st ∧ o.id = s.ids ∧ Keeps s t w [w.slot] [] ∧
        t.drainCount (.core w.core) (lpaOf pa) = 0 ∧ t.drainWaits (.core w.core) (lpaOf pa) = [(.core w.core, x)] ∧ t.pending = s.pending ++
          [.drainUp (.cluster (coreRet w.core) (clusterOf (coreTile w.core))) (.core w.core) (lpaOf pa) x] ∧ x.use = .amount n ∧ x.id = o.id) ∧
    (n ≤ k → 0 < n → c.within 15 15 0 0 = true →
      ∃ t, exec (.drdec a b) s = .next t ∧ t.ctx? w = some (s.after w c) ∧ Keeps s t w [w.slot] [] ∧ t.drainCount (.core w.core) (lpaOf pa) = k - n ∧
        t.pending = s.pending ++ (if k = n then
          [.drainDown (.cluster (coreRet w.core) (clusterOf (coreTile w.core))) (.core w.core) (lpaOf pa) true false false (some (s.src w, c.tag))] else [])) ∧
    (∀ vec, k < n → c.within 15 15 0 0 = true → Delivers s w c vec →
      ∃ t c', exec (.drdec a b) s = .next t ∧ Changes s t w c' [] ∧ Entered s w c c' c.pc va vec .sync .drainerr))

/-- R271 to R276, R372: the drainage tree. A counter that leaves zero passes +1 up and rises with the answer, which any further +1 waits for; one that is
not zero answers its child; a counter that returns to zero passes −1 up; KILL and FAIL go up whatever the counts do and stand in the root word, which
counts its children in LIVE where its home's table admits it. The answer that comes back to the core ends the operation. A counter found bad is
removed with FAIL. A QPOP's answer waits for its producer's stamp. The answer of a node whose table is full is the model's reading (log 43). -/
def Obligations.DrainageTree : Prop :=
  ∀ (s : State) (root : Nat) (n ch : DrainNode) (x : DrainWait) (k : Nat) (wl : List (DrainNode × DrainWait)), k = s.drainCount n root →
    wl = s.drainWaits n root →
    (s.ev = some (.drainUp n ch root x) → n ≠ .root → (∀ q, n ≠ .core q) →
      (wl = [] → 0 < k → k + 1 < 2 ^ 32 → ∃ t, exec .drainUp s = .next t ∧ t.mem = s.mem ∧ t.drainCount n root = k + 1 ∧
        t.pending = s.pending ++ [.drainAck ch root none x]) ∧
      (wl = [] → k = 0 → s.drainFull n = false → ∃ t, exec .drainUp s = .next t ∧ t.mem = s.mem ∧ t.drainCount n root = 0 ∧
        t.drainWaits n root = [(ch, x)] ∧ t.pending = s.pending ++ [.drainUp (drainParent n) n root x]) ∧
      (wl ≠ [] → k + wl.length + 1 < 2 ^ 32 → ∃ t, exec .drainUp s = .next t ∧ t.mem = s.mem ∧ t.drainCount n root = k ∧
        t.drainWaits n root = wl ++ [(ch, x)] ∧ t.pending = s.pending) ∧
      (wl = [] → k = 0 → s.drainFull n = true → ∃ t, exec .drainUp s = .next t ∧ t.mem = s.mem ∧ t.drain = s.drain ∧
        t.pending = s.pending ++ [.drainAck ch root (some .drainerr) x])) ∧
    (s.ev = some (.drainUp n ch root x) → n = .root → s.movedTo root = none →
      (s.admits (s.placeOf root) x.tag .atomic root = true → s.poisoned root = false → s.corrupt.contains root = false →
        ∃ t, exec .drainUp s = .next t ∧ .drainAck ch root none x ∈ t.pending ∧
          memRead t.mem root 2 = (memRead s.mem root 2 + 1) % 2 ^ 16 ∧ ∀ m, ¬(root ≤ m ∧ m < root + 2) → memByte t.mem m = memByte s.mem m) ∧
      (s.admits (s.placeOf root) x.tag .atomic root = false →
        ∃ t, exec .drainUp s = .next t ∧ .drainAck ch root (some .acctbl) x ∈ t.pending ∧ t.mem = s.mem)) ∧
    (∀ w c o m, s.ev = some (.drainAck n root none x) → n = .core x.core → x.use = .amount m → 0 < m → wl = [(n, x)] → s.drainLows n root = 0 → s.srcWho x.src = some w → s.ctx? w = some c →
      c.op? x.id = some o → o.dst = none → ∃ t c', exec .drainAck s = .next t ∧ t.ctx? w = some c' ∧ c'.out = (c.done x.id).out ∧ c'.pend = c.pend ∧
        t.mem = s.mem ∧ t.drainCount n root = m ∧ t.drainWaits n root = []) ∧
    (∀ bad, s.ev = some (.drainAck n root bad x) → n ≠ .root → (∀ q, n ≠ .core q) → wl = [(ch, x)] → s.drainLows n root = 0 →
      ∃ t, exec .drainAck s = .next t ∧ t.mem = s.mem ∧ t.drainWaits n root = [] ∧ t.pending = s.pending ++ [.drainAck ch root bad x] ∧
        (bad = none → t.drainCount n root = 1) ∧ (bad ≠ none → t.drainCount n root = k)) ∧
    (∀ kill fail cause, s.ev = some (.drainDown n ch root true kill fail cause) → n ≠ .root → wl = [] → 0 < k → ∃ t, exec .drainDown s = .next t ∧ t.mem = s.mem ∧
      t.drainCount n root = k - 1 ∧ t.pending = s.pending ++ (if k = 1 ∨ kill = true ∨ fail = true then
        [.drainDown (drainParent n) n root (decide (k = 1)) kill fail cause] else [])) ∧
    (∀ dec kill fail cause, s.ev = some (.drainDown n ch root dec kill fail cause) → n = .root → s.movedTo root = none →
      (∀ sr tg, cause = some (sr, tg) → s.admits (s.placeOf root) tg .atomic root = true) → s.poisoned root = false → s.corrupt.contains root = false →
      ∃ t, exec .drainDown s = .next t ∧
      memRead t.mem root 2 = (memRead s.mem root 2 + if dec then 2 ^ 16 - 1 else 0) % 2 ^ 16 ∧
      (memRead t.mem root 8 / 2 ^ 62 % 2 = 1 ↔ memRead s.mem root 8 / 2 ^ 62 % 2 = 1 ∨ kill = true) ∧
      (memRead t.mem root 8 / 2 ^ 63 = 1 ↔ memRead s.mem root 8 / 2 ^ 63 = 1 ∨ fail = true) ∧
      ∀ m, ¬(root ≤ m ∧ m < root + 8) → memByte t.mem m = memByte s.mem m) ∧
    (s.ev = some (.counterEntryUe n root) → n ≠ .root → 0 < k → s.action (nodeRet n) 9 7 = 0 ∨ s.action (nodeRet n) 9 7 = 1 →
      ∃ t, exec .counterEntryUe s = .next t ∧ t.drainCount n root = 0 ∧ t.pending = s.pending ++ [.drainDown (drainParent n) n root false false true none] ∧
        (∀ v, t.ctx? v = s.ctx? v) ∧ t.mem = s.mem) ∧
    (∀ q w c, s.ev = some (.stampQuery q) → w = { core := coreId (bits q.stamp 63 58) (bits q.stamp 57 50), slot := bits q.stamp 49 44 } →
      s.ctx? w = some c → (s.gen w).toNat = bits q.stamp 43 28 → c.performedW < 2 ^ 27 → bits q.stamp 27 0 < 2 ^ 27 →
      exec .stampQuery s = .next (s.push (if bits q.stamp 27 0 ≤ c.performedW ∧ c.owesWrite (bits q.stamp 27 0) = false then .stampSatisfied q else .stampQuery q))) ∧
    (∀ q d, s.ev = some (.stampSatisfied q) → q.reply.acc.src.modn = s.modn → q.reply.acc.dst = .reg d → q.reply.acc.op = .qpop →
      q.reply.acc.src.core ≠ s.homeOf q.reply.acc.pa → exec .stampSatisfied s = .next (s.push (.loadReply q.reply)))
/-! Power tokens and the broker (spec/15). -/

/-- R277, R278, R318: on a tile, TKREQ raises WANT up to the tile's greatest holding and answers word 0x0200, TKREL gives up what is held, TKLEND moves
tokens to another tile that has room and answers how many, TKQRY answers the word, ECLS sets the context's class. On a rim core each traps TOKENERR;
TKLEND to itself, to a failed tile or to no tile traps LENDERR. R279 to R289: a grant round gives a lone tile of a basin what it wants while pool and
CSL allow it, and under a droop's hold it grants nothing; a notice's expiry takes its tokens; a droop halves every holding and holds the rounds; a
thermal report sets and clears its cap; offers, recalls and returns of loans change the counts of their side. The order of the parts of a round and
what counts as idle are the model's reading (log 45). -/
def Obligations.TokensAndBroker : Prop :=
  (∀ (s : State) (w : Who) (c : Ctx) (d a b : Reg) (x : Tok) (n : Nat), Issues s w c → c.alone → Usable s w c [a, b, d] → x = s.tok w.core →
     n = (s.reg w c a.toNat).toNat →
     (isTile w.core = true →
       Yields (.tkqry d) s w c d (s.cb w.core 0x0200) ∧
       (n < 8 → Becomes (.ecls a) s w (s.after w { c with ecls := BitVec.ofNat 3 n })) ∧
       (∃ t y, exec (.tkreq d a) s = .next t ∧ t.ctx? w = some (s.after w c) ∧ Keeps s t w [w.slot] (c.touches d) ∧ t.tok w.core = y ∧ y.hold = x.hold ∧ y.pend = x.pend ∧
         y.ncnt = x.ncnt ∧ y.want = min (s.kindMax w.core) (x.want + n) ∧
         y.cls = (if x.want = x.hold then c.ecls.toNat else max x.cls c.ecls.toNat) ∧ (d ≠ 0 → t.reg w c d.toNat = t.cb w.core 0x0200)) ∧
       (∃ t y, exec (.tkrel a) s = .next t ∧ t.ctx? w = some (s.after w c) ∧ Keeps s t w [w.slot] [] ∧ t.tok w.core = y ∧ y.cls = x.cls ∧
         y.hold = x.hold - n ∧ y.want = x.want - min n x.hold ∧ y.pend = x.pend - min n x.hold ∧
         y.ncnt = if y.pend = 0 then 0 else x.ncnt) ∧
       (∀ k m z, (s.reg w c b.toNat).toNat < 192 → k = coreId (coreRet w.core) (s.reg w c b.toNat).toNat → k ≠ w.core →
         s.tileFailed (coreRet w.core) (s.reg w c b.toNat).toNat = false → z = s.tok k → m = min (min n (x.hold - x.pend)) (s.kindMax k - z.hold) →
         (s.core w.core).cmds.any (fun y => y.part == .dense) = false →
         (m = 0 → Yields (.tklend d a b) s w c d 0) ∧
         (0 < m → ∃ t, exec (.tklend d a b) s = .next t ∧ t.ctx? w = some (s.after w c) ∧ Keeps s t w [w.slot] (c.touches d) ∧
           (t.tok w.core).hold = x.hold - m ∧ (t.tok w.core).want = x.want - m ∧ (t.tok k).hold = z.hold + m ∧
           (t.tok k).want = max z.want (z.hold + m) ∧ (d ≠ 0 → t.reg w c d.toNat = BitVec.ofNat 64 m)))) ∧
     (∀ vec v, v = s.reg w c b.toNat → Delivers s w c vec →
       (isTile w.core = false → ∀ i, i = .tkreq d a ∨ i = .tkrel a ∨ i = .tklend d a b ∨ i = .tkqry d ∨ i = .ecls a →
         ∃ t c', exec i s = .next t ∧ Changes s t w c' [] ∧ Entered s w c c' c.pc (s.ir.setWidth 64) vec .sync .tokenerr) ∧
       (isTile w.core = true → 7 < n →
         ∃ t c', exec (.ecls a) s = .next t ∧ Changes s t w c' [] ∧ Entered s w c c' c.pc (s.ir.setWidth 64) vec .sync .tokenerr) ∧
       (isTile w.core = true → 192 ≤ v.toNat ∨ s.tileFailed (coreRet w.core) v.toNat = true ∨ v.toNat = coreTile w.core →
         ∃ t c', exec (.tklend d a b) s = .next t ∧ Changes s t w c' [] ∧ Entered s w c c' c.pc v vec .sync .lenderr))) ∧
  (∀ (s : State) (r k : Nat) (x : Tok), x = s.tok k →
     (s.ev = some (.grantRound r) → (s.reticle r).low = .running →
       ((s.reticle r).droopHold ≠ 0 → ∃ t, exec .grantRound s = .next t ∧ t.mem = s.mem ∧ (t.reticle r).droopHold = (s.reticle r).droopHold - 1 ∧
         (∀ v, t.ctx? v = s.ctx? v) ∧ ((s.reticle r).gains = [] → ∀ q, (t.tok q).hold ≤ (s.tok q).hold)) ∧
       ((s.reticle r).droopHold = 0 → (s.reticle r).accepted = none → (s.reticle r).gains = [] → (s.reticle r).recalled = [] →
         (s.reticle r).asked = [] → (s.reticle r).offers = [] → (∀ d, d < 4 → s.passLive r d = false) → bits (s.rcb r 0x0608) 23 16 = 0 → s.tokenTiles r = [k] → x.hold < x.want →
         ((x.want - x.hold : Nat) : Int) ≤ s.tokenPool r → x.want - x.hold ≤ bits (s.rcb r 0x0608) 7 0 →
         ∃ t, exec .grantRound s = .next t ∧ t.mem = s.mem ∧ (t.tok k).hold = x.want ∧ (t.tok k).want = x.want ∧ (t.tok k).pend = x.pend ∧
           ∀ v, t.ctx? v = s.ctx? v)) ∧
     (s.ev = some (.noticeExpiry k) → x.ncnt = 0 → x.pend ≠ 0 →
       ∃ t y, exec .noticeExpiry s = .next t ∧ t.mem = s.mem ∧ y = t.tok k ∧ y.hold = x.hold - x.pend ∧ y.want = x.want - x.pend ∧ y.pend = 0 ∧
         y.ncnt = 0 ∧ y.cls = x.cls ∧ ∀ v, t.ctx? v = s.ctx? v) ∧
     (s.ev = some (.droopAlarm r) → s.pending.contains (.grantRound r) = false →
       ∃ t, exec .droopAlarm s = .next t ∧ t.mem = s.mem ∧ (t.reticle r).droopHold = bits (s.rcb r 0x0608) 11 8 ∧
         bits (t.rcb r 0x0638) 15 0 = min 65535 (bits (s.rcb r 0x0638) 15 0 + 1) ∧
         (coreRet k = r → s.kindMax k ≠ 0 → (t.tok k).hold = x.hold / 2 ∧ (t.tok k).want = x.want ∧ (t.tok k).pend = 0 ∧ (t.tok k).ncnt = 0) ∧
         ∀ w c, s.ctx? w = some c → w.core = k → coreRet k = r → s.kindMax k ≠ 0 → 0 < x.hold → c.mode = .u → c.trapen.getLsbD 8 = true →
           ∃ c' v, t.ctx? w = some c' ∧ c'.pend = { c.pend with droop := some v, tokrevoke := c.pend.tokrevoke.map fun _ => v } ∧ c'.pc = c.pc) ∧
     (∀ on, s.ev = some (.thermalReport r on) → ∃ t, exec .thermalReport s = .next t ∧ t.cores = s.cores ∧ t.mem = s.mem ∧ t.pending = s.pending ∧
       ∀ n, n < 64 → (t.rcb r 0x0618).getLsbD n = if n = 16 then on else (s.rcb r 0x0618).getLsbD n) ∧
     (∀ b d q, b < 192 → coreId r b = k → d < 4 → s.ev = some (.meshFlitRetry r b d 8) → s.tileBeside k d = some q → coreRet q ≠ r → neighbourRet r d = some (coreRet q) →
       s.deadPasses.contains (r, d) = false → s.action r 7 6 = 0 →
       ∃ t, exec .meshFlitRetry s = .next t ∧ t.mem = s.mem ∧ t.passLive r d = false ∧ t.passLive (coreRet q) (opposite d) = false ∧
         d ∈ (t.core k).failedLinks ∧ mget (t.reticle r).loanIn d = none ∧ mget (t.reticle (coreRet q)).loanIn (opposite d) = none ∧
         (t.reticle r).loanOut = (s.reticle r).loanOut) ∧
     (∀ d n, s.passLive r d = false → s.ev = some (.loanOffer r d n) ∨ s.ev = some (.loanRecall r d n) ∨ s.ev = some (.loanReturn r d n) →
       ∃ e, s.ev = some e ∧ exec e.row s = .next s) ∧
     (∀ d n, s.passLive r d = true →
       (s.ev = some (.loanOffer r d n) → ∃ t, exec .loanOffer s = .next t ∧ t.cores = s.cores ∧ t.mem = s.mem ∧
         (mget (t.reticle r).offers d).getD 0 = (mget (s.reticle r).offers d).getD 0 + n) ∧
       (s.ev = some (.loanRecall r d n) → ∃ t, exec .loanRecall s = .next t ∧ t.cores = s.cores ∧ t.mem = s.mem ∧
         (mget (t.reticle r).recalled d).getD 0 = (mget (s.reticle r).recalled d).getD 0 +
           min n ((mget (s.reticle r).loanIn d).getD 0 - (mget (s.reticle r).recalled d).getD 0)) ∧
       (s.ev = some (.loanReturn r d n) → ∃ t, exec .loanReturn s = .next t ∧ t.cores = s.cores ∧ t.mem = s.mem ∧
         (mget (t.reticle r).loanOut d).getD 0 = (mget (s.reticle r).loanOut d).getD 0 - n)))

/-! Redundant pairs (spec/14, spec/18). -/

/-- R319 to R321, R373 to R378: RDNON, with nothing outstanding, gives the context a topcoat with the same registers in another slot, or answers why it
did not; RDNOFF and RDNCHK, which the members of a pair reach together, dissolve it or answer that its members agree, and where they do not agree the
undercoat traps RDNMIS and the topcoat freezes. Outside a pair RDNOFF does nothing and RDNCHK answers 1. The topcoat's LD takes its value from the
queue and accesses nothing. An undercoat's access that is no read enters the queue, counted as issued, and leaves for its home only later. Where a
pair compares and what a mismatch sets back are the model's reading (logs 46, 62). -/
def Obligations.RedundantPairs : Prop :=
  ∀ (s : State) (w : Who) (c : Ctx) (d : Reg), Issues s w c →
    (Usable s w c [d] → c.out = [] → w.slot < 63 →
      (c.role ≠ .single → Yields (.rdnon d) s w c d 1) ∧
      (c.alone → s.holdings w { c with grp := 0 } ≠ 0 → Yields (.rdnon d) s w c d 2) ∧
      (c.alone → s.holdings w { c with grp := 0 } = 0 → (s.core w.core).ringCount ≠ 0 ∨ (s.core w.core).place w.core c.lim = none →
        Yields (.rdnon d) s w c d (BitVec.allOnes 64)) ∧
      (∀ sl base, c.alone → s.holdings w { c with grp := 0 } = 0 → (s.core w.core).ringCount = 0 →
        (s.core w.core).place w.core c.lim = some (sl, base) →
        ∃ t x y, exec (.rdnon d) s = .next t ∧ Keeps s t w [w.slot, sl] ((List.range c.lim).map (base + ·) ++ c.touches d) ∧ t.pending = s.pending ∧ t.ctx? w = some x ∧
          x = { s.after w c with role := .under sl, lvq := [] } ∧ t.ctx? { core := w.core, slot := sl } = some y ∧ y.role = .top w.slot ∧
          y.run = .ready ∧ y.base = base ∧ y.lim = c.lim ∧ y.pc = x.pc ∧ y.pw = c.pw ∧ y.mode = c.mode ∧ y.prv = c.prv ∧ y.part = c.part ∧
          y.asid = c.asid ∧ y.retired = x.retired ∧ y.out = [] ∧ y.dref = 0 ∧ (d ≠ 0 → t.reg w x d.toNat = 0) ∧
          ∀ n, n < c.lim → t.regEntry { core := w.core, slot := sl } y n = t.regEntry w x n)) ∧
    (c.alone → Becomes .rdnoff s w (s.after w c) ∧ (Usable s w c [d] → Yields (.rdnchk d) s w c d 1)) ∧
    (∀ p u x, c.role = .under p → u = { core := w.core, slot := p } → p ≠ w.slot → s.ctx? u = some x → x.run ≠ .frozen → c.lvq = [] →
      x.retired = c.retired → x.pc = c.pc →
      (s.pairAgrees w u c x = true →
        (∃ t, exec .rdnoff s = .next t ∧ t.ctx? u = none ∧ t.gen u = s.gen u + 1 ∧ t.ctx? w = some (s.after w { c with role := .single }) ∧
          t.mem = s.mem ∧ ∀ n, n < x.lim → t.fileEntry w.core (x.base + n) = RegEntry.stripped) ∧
        (Usable s w c [d] → ∃ t y, exec (.rdnchk d) s = .next t ∧ t.mem = s.mem ∧ t.ctx? w = some (s.after w c) ∧ t.ctx? u = some y ∧
          y.pc = (s.after w c).pc ∧ y.retired = c.retired + 1 ∧ (d ≠ 0 → t.reg w c d.toNat = 0 ∧ t.reg u y d.toNat = 0))) ∧
      (∀ vec, s.pairAgrees w u c x = false → c.heldTrap = none → (∀ m ∈ [1, 2, 3, 4], (s.regEntry w c m).bad = false) →
        c.mode ≠ .f → c.inh = false → s.vector w c = some vec → s.owedLow w c = false →
        s.action (coreRet w.core) 10 4 = 0 → Usable s w c [d] → ∀ i, i = .rdnoff ∨ i = .rdnchk d →
        ∃ t c' y, exec i s = .next t ∧ t.mem = s.mem ∧ t.ctx? w = some c' ∧ c'.mode = .s ∧ c'.pc = vec ∧ c'.epc = c.pc ∧
          c'.cause.toNat % 64 = causeCode .rdnmis ∧ c'.tval.toNat % 4 = 3 ∧ t.ctx? u = some y ∧ y.run = .frozen ∧ y.pc = c.pc)) ∧
    (∀ p u x n v rest a (z : BitVec 2) (e : BitVec 1) (o : BitVec 9) va, c.role = .top p → u = { core := w.core, slot := p } → p ≠ w.slot →
      s.ctx? u = some x → Usable s w c [a, d] → va = s.reg w c a.toNat + (o.signExtend 64 <<< z.toNat) →
      x.lvq = .read n va (2 ^ z.toNat) (some v) :: rest →
      ∃ t, exec (.ld d a z e o) s = .next t ∧ t.mem = s.mem ∧ t.pending = s.pending ∧ t.ctx? w = some (s.after w c) ∧
        t.ctx? u = some { x with lvq := rest } ∧ (d ≠ 0 → t.reg w c d.toNat = v)) ∧
    (∀ i op rs va data cmp q pa, accessRow (fun r => s.reg w c r.toNat) i = some (op, rs, va, data, cmp, q) → (∀ z e, op ≠ .load z e) → op ≠ .ldff →
      op ≠ .feget → (s.runningTop w c).isSome = true → c.walking = false → MayAccess c op → Usable s w c rs → Reaches s w c op va pa →
      s.isLocalPa pa = false ∨ s.homeOf pa ≠ w.core → c.lvq.length < 32 →
      ∃ t x h, exec i s = .next t ∧ t.mem = s.mem ∧ t.pending = s.pending ∧ t.outbox = s.outbox ∧ t.ctx? w = some x ∧ x.pc = (s.after w c).pc ∧
        x.retired = c.retired + 1 ∧ x.lvq = c.lvq ++ [.held h] ∧ h.word = s.ir ∧ x.count (clsOf op) = c.count (clsOf op) + 1 ∧
        ∀ v, v ≠ w → t.ctx? v = s.ctx? v)
/-! The launcher (spec/13). -/

/-- R263 to R268: the launcher takes the mailbox's next full record, empties it and advances NEXT; it refuses a record that breaks the rules of its fields
with STATUS 2, and one that it cannot accept with the STATUS of the reason, and lists any other. Placing begins with the head of the list; a share
becomes Placed contexts with index, size and arguments in x1 to x4, and its image is copied to its tiles byte by byte; a whole gang without a root
word is released, one with a root word charged first; a gang that a share does not fit, or that a higher record outranks, is rolled back. Release
writes STATUS 1 and makes the members Ready; a refused charge gives STATUS 4. The order of placement and the slot of the firmware context are the
model's reading (log 44), what a record that cannot be read answers its choice (log 60). -/
def Obligations.LauncherPlacesGangs : Prop :=
  ∀ (s : State) (r : Nat),
    (∀ i a, s.ev = some (.launchRecord r) → i = bits (s.rcb r 0x0510) 15 8 → a = s.mbxRecord r i →
      (s.recordWaits r = false → exec .launchRecord s = .next s) ∧
      (s.recordWaits r = true → (∀ j, j < 16 → s.movedTo (a + 8 * j) = none ∧ s.poisoned (a + 8 * j) = false ∧
          s.corrupt.contains (a + 8 * j) = false) →
        ∃ u : State, u.mem = s.mem ∧ u.full a = false ∧ (u.reticle r).launch = (s.reticle r).launch ∧
          (recordFields (readWords s.mem a 16) = false → u.checkRecord r i (readWords s.mem a 16) = .error 2) ∧
          (∀ st, u.checkRecord r i (readWords s.mem a 16) = .error st →
            ∃ t, exec .launchRecord s = .next t ∧ t.full a = false ∧ memRead t.mem (a + 8) 8 = st % 2 ^ 64 ∧
              (t.reticle r).launch = (s.reticle r).launch ∧ t.pending = s.pending ∧
              bits (t.rcb r 0x0510) 15 8 = (i + 1) % bits (s.rcb r 0x0508) 8 0 % 256 ∧
              ∀ m, m < a + 8 ∨ a + 16 ≤ m → memByte t.mem m = memByte s.mem m) ∧
          (∀ k, u.checkRecord r i (readWords s.mem a 16) = .ok k →
            ∃ t, exec .launchRecord s = .next t ∧ t.full a = false ∧ t.mem = s.mem ∧ t.pending = s.pending ++ [.gangPlace r] ∧
              k ∈ (t.reticle r).launch ∧ (t.reticle r).launch.length = (s.reticle r).launch.length + 1 ∧
              bits (t.rcb r 0x0510) 15 8 = (i + 1) % bits (s.rcb r 0x0508) 8 0 % 256))) ∧
    (s.ev = some (.gangPlace r) → s.hasLauncher r = true →
      (∀ k l, (s.reticle r).gang = none → (s.reticle r).launch = k :: l →
        ∃ t, exec .gangPlace s = .next t ∧ t.mem = s.mem ∧ t.pending = s.pending ++ [.gangPlace r] ∧ t.cores = s.cores ∧
          (t.reticle r).gang = some { rcd := k, members := [], nextRet := 0, placed := false, charges := 0, failed := false }) ∧
      (∀ g, (s.reticle r).gang = some g → g.placed = false → g.tiles = [] → s.recordWaits r = false →
        (∀ k, (s.reticle r).launch.find? (fun y => decide (g.rcd.prio < y.prio)) = some k → s.fitsNow k = false →
          ∃ t, exec .gangPlace s = .next t ∧ (t.reticle r).gang = none ∧ (t.reticle r).launch = (s.reticle r).launch ∧ .gangPlace r ∈ t.pending) ∧
        ((∀ k ∈ (s.reticle r).launch, k.prio ≤ g.rcd.prio) →
          (∀ q, g.rcd.rets.find? (fun y => decide (g.nextRet ≤ y)) = some q → s.shareOf g.rcd q = none →
            ∃ t, exec .gangPlace s = .next t ∧ (t.reticle r).gang = none ∧ (t.reticle r).launch = (s.reticle r).launch) ∧
          (∀ q k sl base w, g.rcd.rets.find? (fun y => decide (g.nextRet ≤ y)) = some q → s.shareOf g.rcd q = some [(k, [(sl, base)])] →
            w = { core := k, slot := sl } →
            ∃ t y, exec .gangPlace s = .next t ∧ t.mem = s.mem ∧ t.pending = s.pending ++ [.gangPlace r] ∧
              (t.reticle r).gang = some { g with members := g.members ++ [(k, sl)], nextRet := q + 1, tiles := [k] } ∧ t.ctx? w = some y ∧ y.kind = .resident ∧
              y.run = .placed ∧ y.mode = .u ∧ y.prv = .u ∧ y.part = s.pid r ∧ y.asid = g.rcd.asid ∧ y.base = base ∧ y.lim = g.rcd.alloc ∧
              y.pc = g.rcd.entry ∧ y.ecls = BitVec.ofNat 3 g.rcd.ecls ∧ y.wdog = BitVec.ofNat 64 (g.rcd.wlim * 2 ^ 48) ∧
              t.reg w y 1 = BitVec.ofNat 64 g.members.length ∧ t.reg w y 2 = BitVec.ofNat 64 g.rcd.size ∧ t.reg w y 3 = g.rcd.arg0 ∧
              t.reg w y 4 = g.rcd.arg1) ∧
          ((∀ q ∈ g.rcd.rets, q < g.nextRet) → g.rcd.root = 0 →
            ∃ t, exec .gangPlace s = .next t ∧ t.mem = s.mem ∧ t.cores = s.cores ∧ t.pending = s.pending ++ [.gangRelease r] ∧
              (t.reticle r).gang = some { g with placed := true, charges := 0 }) ∧
          (∀ m c, (∀ q ∈ g.rcd.rets, q < g.nextRet) → g.rcd.root ≠ 0 → g.members = [m] → s.ctx? { core := m.1, slot := m.2 } = some c →
            ∃ t x, exec .gangPlace s = .next t ∧ t.mem = s.mem ∧ t.pending = s.pending ++ [.drainUp (.core m.1) (.core m.1) g.rcd.root x] ∧
              x.use = .gang r ∧ (t.reticle r).gang = some { g with placed := true, charges := 1 } ∧
              t.ctx? { core := m.1, slot := m.2 } =
                some { c with dref := BitVec.ofNat 64 (2 ^ 63 + coreRet m.1 * 2 ^ 57 + coreTile m.1 * 2 ^ 49 + g.rcd.root / 8) })))) ∧
    (∀ g k l, s.ev = some (.gangPlace r) → s.hasLauncher r = true → (s.reticle r).gang = some g → g.placed = false → g.tiles = k :: l →
      (g.rcd.tlen ≤ g.next → ∃ t, exec .gangPlace s = .next t ∧ t.mem = s.mem ∧ t.cores = s.cores ∧ t.pending = s.pending ++ [.gangPlace r] ∧
        (t.reticle r).gang = some { g with tiles := l, next := 0 }) ∧
      (∀ v, g.next < g.rcd.tlen → g.got = some (some v) → ∃ t, exec .gangPlace s = .next t ∧ t.pending = s.pending ++ [.gangPlace r] ∧
        (t.reticle r).gang = some { g with next := g.next + 1, got := none } ∧
        ∀ m, memByte t.mem m = if m = tileAddr k (g.rcd.toff + g.next) then BitVec.ofNat 8 v.toNat else memByte s.mem m) ∧
      (g.next < g.rcd.tlen → g.got = some none → s.movedTo (g.rcd.pa + 8) = none → s.launcherMay r (g.rcd.pa + 8) = true →
        ∃ t, exec .gangPlace s = .next t ∧ (t.reticle r).gang = none ∧ memRead t.mem (g.rcd.pa + 8) 8 = 2 ∧ .gangPlace r ∈ t.pending ∧
          (t.reticle r).launch = (s.reticle r).launch.filter (fun y => y.pa != g.rcd.pa)) ∧
      (g.next < g.rcd.tlen → g.got = none → ∃ t, exec .gangPlace s = .next t ∧
        (t.reticle r).gang = some { g with asked := some s.ids } ∧ .gangPlace r ∈ t.pending)) ∧
    (∀ g, s.ev = some (.gangRelease r) → (s.reticle r).gang = some g → g.placed = true → g.charges = 0 →
      s.movedTo (g.rcd.pa + 8) = none → s.launcherMay r (g.rcd.pa + 8) = true →
      (g.failed = false → ∃ t, exec .gangRelease s = .next t ∧ t.pending = s.pending ++ g.rcd.rets.map .releaseReceived ∧
        memRead t.mem (g.rcd.pa + 8) 8 = 1 ∧ (t.reticle r).launch = (s.reticle r).launch.filter (fun y => y.pa != g.rcd.pa) ∧
        ∀ m, m < g.rcd.pa + 8 ∨ g.rcd.pa + 16 ≤ m → memByte t.mem m = memByte s.mem m) ∧
      (g.failed = true → ∃ t, exec .gangRelease s = .next t ∧ (t.reticle r).gang = none ∧ memRead t.mem (g.rcd.pa + 8) 8 = 4 ∧
        .gangPlace r ∈ t.pending)) ∧
    (∀ q g, s.ev = some (.releaseReceived q) → r = s.rootRet q → (s.reticle r).gang = some g → (∀ m ∈ g.members, coreRet m.1 = q) →
      ∃ t, exec .releaseReceived s = .next t ∧ t.mem = s.mem ∧ (t.reticle r).gang = none ∧ t.pending = s.pending ++ [.gangPlace r] ∧
        ∀ m c, m ∈ g.members → s.ctx? { core := m.1, slot := m.2 } = some c → c.run = .placed →
          t.ctx? { core := m.1, slot := m.2 } = some { c with run := .ready, spacing := s.now m.1 + 1 })
/-! Control blocks (spec/02, spec/07, spec/08, spec/15, spec/16, spec/17, spec/20). -/

/-- R4, R52, R194, R204, R263, R285, R292, R323, R330, R338, R362, R390, R398, R399, R406, R407: the events that are one write or read of a control-block
register. A write changes the writable bits and does what its rule adds; one that its rule does not perform changes nothing or sets its error bit; a
read of a clearing field answers the word and clears the field. The offset 0x10000, where a partition write's values wait for its scrub, is the
model's own (log 47); that register rows share the operations of accesses, and a route write's time of failing over, are its reading (logs 10, 49); a
write of MBXN above 256 and of a skim register while BUSY are its choice (logs 48, 60). -/
def Obligations.RegisterEvents : Prop :=
  ∀ (s : State) (k r : Nat) (v : Word),
    (∀ off, s.ev = some (.registerWrite (.core k) off v) → off = 0x0800 ∨ off = 0x0808 →
      ∃ x : Word, SetsWord .registerWrite s (.core k) off x ∧
        ∀ n, n < 64 → x.getLsbD n = if n = 1 then (s.cb k off).getLsbD 1 else v.getLsbD n) ∧
    (∀ off, s.ev = some (.registerWrite (.ret r) off v) → off ∈ [0x0638, 0x0C00, 0x0C10, 0x0F08, 0x0F10, 0x0F18] →
      SetsWord .registerWrite s (.ret r) off (s.rcb r off)) ∧
    (s.ev = some (.interleaveWrite r v) →
      (isEdge r = true → (s.reticle r).dramUsed = false → bits v 41 32 ≤ 512 → bits v 6 0 ≤ 116 →
        SetsWord .interleaveWrite s (.ret r) 0x0108 (BitVec.ofNat 64 (bits v 41 32 * 2 ^ 32 + bits v 6 0))) ∧
      (isEdge r = false ∨ (s.reticle r).dramUsed = true ∨ 512 < bits v 41 32 ∨ 116 < bits v 6 0 → exec .interleaveWrite s = .next s)) ∧
    (s.ev = some (.poolWrite r 0x0400 v) →
      ((s.reticle r).pool = [] → bits (s.rcb r 0x0408) 19 0 = 0 → SetsWord .poolWrite s (.ret r) 0x0400 (v &&& ~~~0xFFFF)) ∧
      ((s.reticle r).pool ≠ [] → exec .poolWrite s = .next s)) ∧
    (∀ n pa, s.ev = some (.mailboxWrite r 0x0508 v) → n = bits v 8 0 → pa = bits (s.rcb r 0x0500) 55 7 * 2 ^ 7 → s.pval r = true →
      (s.rootRet r = r → (s.reticle r).gang = none → n ≤ 256 → s.isLocalPa pa = true → dramRange (lpaOf pa) (128 * n) = true →
        (∀ i, i < n → s.movedTo (lpaOf pa + 128 * i) = none ∧ s.movedTo (lpaOf pa + 128 * i + 8) = none ∧ s.launcherMay r (lpaOf pa + 128 * i) = true ∧
          s.launcherMay r (lpaOf pa + 128 * i + 8) = true) →
        ∃ t, exec .mailboxWrite s = .next t ∧ t.pending = s.pending ∧ t.rcb r 0x0508 = BitVec.ofNat 64 n ∧ bits (t.rcb r 0x0510) 15 8 = 0 ∧
          (∀ i, i < n → memRead t.mem (lpaOf pa + 128 * i + 8) 8 = 0xFF ∧ t.full (lpaOf pa + 128 * i) = false) ∧
          ∀ m, (∀ i, i < n → m < lpaOf pa + 128 * i + 8 ∨ lpaOf pa + 128 * i + 16 ≤ m) → memByte t.mem m = memByte s.mem m) ∧
      (s.rootRet r ≠ r ∨ 256 < n → exec .mailboxWrite s = .next s)) ∧
    (∀ n others, s.ev = some (.budgetWrite r v) → n = bits v 9 0 → others = sumOf ((s.liveRets.filter fun q => q != r).map fun q => s.budgetOf q) →
      (n ≤ 640 → others + n ≤ Config.budgetSum → ∃ t, exec .budgetWrite s = .next t ∧ t.mem = s.mem ∧ t.cores = s.cores ∧
        (t.reticle r).budgeted = some n ∧ bits (t.rcb r 0x0600) 9 0 = bits (s.rcb r 0x0600) 9 0) ∧
      (640 < n ∨ Config.budgetSum < others + n → ∃ t, exec .budgetWrite s = .next t ∧ t.mem = s.mem ∧ t.cores = s.cores ∧
        t.budgetOf r = s.budgetOf r ∧ (t.rcb r 0x0600).getLsbD 63 = true)) ∧
    (s.ev = some (.partitionWrite r v) → v.getLsbD 63 ≠ (s.rcb r 0x0700).getLsbD 63 ∨ bits v 5 0 ≠ bits (s.rcb r 0x0700) 5 0 →
      ((s.rcb r 0x0700).getLsbD 62 = false → s.partitionFree r = true →
        ∃ t, exec .partitionWrite s = .next t ∧ t.mem = s.mem ∧ t.pending.length = s.pending.length + 1 ∧ .partitionScrubDone r ∈ t.pending ∧
          (t.rcb r 0x0700).getLsbD 62 = true ∧ bits (t.rcb r 0x0700) 5 0 = bits (s.rcb r 0x0700) 5 0 ∧ t.pval r = s.pval r ∧
          (∀ n, n < 0x100 → t.rcb r (0x8000 + n) = retRegReset (0x8000 + n)) ∧
          ∀ c n, coreRet c = r → (n < 0x400 → t.cb c (0x8000 + n) = coreRegReset (0x8000 + n)) ∧ (t.core c).tlb = []) ∧
      ((s.rcb r 0x0700).getLsbD 62 = true ∨ s.partitionFree r = false →
        ∃ t, exec .partitionWrite s = .next t ∧ t.mem = s.mem ∧ t.pending = s.pending ∧ t.cores = s.cores ∧ (t.rcb r 0x0700).getLsbD 61 = true ∧
          bits (t.rcb r 0x0700) 5 0 = bits (s.rcb r 0x0700) 5 0 ∧ t.pval r = s.pval r)) ∧
    (s.ev = some (.partitionScrubDone r) → (s.rcb r 0x0700).getLsbD 62 = true →
      ∃ t, exec .partitionScrubDone s = .next t ∧ (t.rcb r 0x0700).getLsbD 62 = false ∧ t.pval r = (s.rcb r 0x10000).getLsbD 63 ∧
        t.pid r = bits (s.rcb r 0x10000) 5 0 ∧
        ∀ m, (inTileSram r m = true → memByte t.mem m = 0 ∧ t.full m = true ∧ t.poisoned m = false) ∧
          (inTileSram r m = false → memByte t.mem m = memByte s.mem m ∧ t.full m = s.full m ∧ t.poisoned m = s.poisoned m)) ∧
    (s.ev = some (.hostirqPost k v) →
      SetsWord .hostirqPost s (.core k) 0x0810 (BitVec.ofNat 64 (bits v 63 16 * 2 ^ 16 + 2 ^ 15 + bits v 5 0))) ∧
    (∀ m, s.ev = some (.routeTableWrite r m v) → m < 64 →
      (bit (s.rcb r (0x3000 + 8 * m)) 61 = false ∨ bit (s.rcb r (0x3000 + 8 * m)) 62 = false →
        SetsWord .routeTableWrite s (.ret r) (0x3000 + 8 * m) (v &&& 0xC03FFF003FFF0000)) ∧
      (bit (s.rcb r (0x3000 + 8 * m)) 61 = true → bit (s.rcb r (0x3000 + 8 * m)) 62 = true → exec .routeTableWrite s = .next s)) ∧
    (∀ a b, Asks s b 0x8800 a → s.ev = some (.refusalLogRead b 0x8800 a) → Clears .refusalLogRead s b 0x8800 63 63 a) ∧
    (∀ a b, Asks s b 0x8808 a → s.ev = some (.refusalLogRead b 0x8808 a) → Clears .refusalLogRead s b 0x8808 15 0 a) ∧
    (∀ a, Asks s (.ret r) 0x0638 a → s.ev = some (.brokerCountRead r a) → Clears .brokerCountRead s (.ret r) 0x0638 31 0 a) ∧
    (∀ a, Asks s (.ret r) 0x0C10 a → s.ev = some (.errorLogCountRead r a) → Clears .errorLogCountRead s (.ret r) 0x0C10 31 0 a) ∧
    (∀ a, Asks s (.ret r) 0x0F18 a → s.ev = some (.lnkfRead r a) → Clears .lnkfRead s (.ret r) 0x0F18 15 0 a) ∧
    (∀ a, Asks s (.core k) 0x0A00 a → isLinkCore k = true → s.ev = some (.linkCountRead k a) → Clears .linkCountRead s (.core k) 0x0A00 31 0 a) ∧
    (∀ a, Asks s (.core k) 0x0028 a → isChannelCore k = true → s.ev = some (.hotpgRead k a) →
      ∃ t, exec .hotpgRead s = .next t ∧ t.mem = s.mem ∧ t.pending = s.pending ++ [s.shown (.core k) 0x0028 a] ∧ (t.core k).hot = [])

/-! Repair and scrub (spec/08, spec/18, spec/20). -/

/-- R204, R205, R390, R399, R400: a tier migration starts where its pages allow it and copies word by word with FE and P, a bank sparing line by line;
each is DONE at its end, and a migration that is done ends with RETIRE; an attestation is busy until its signature stands. R357, R367 to R370: a
register entry whose check bits are wrong is corrected where it can be, and otherwise stripped, its reader taking UEREG under action 0. A scrub read
looks at the word of its SRAM bank, or the line of its DRAM channel, that the time gives, corrects what it can and poisons what it finds
uncorrectable. A mesh link's ninth failure takes it out of use; an access that would cross a link out of use is returned to its context as a late
UELINK. What a skim copy does where the manual is silent is the model's choice (log 48), the bank's lines and addresses and the mesh's routes are free
(logs 11, 63), and which bits are wrong comes from outside (log 56). -/
def Obligations.CopiesBehindAccessesScrubAndMesh : Prop :=
  (∀ (s : State) (k r : Nat) (m : Mode),
     (∀ src dst, s.ev = some (.tierMigrationGo k) → src = bits (s.cb k 0x0000) 55 16 * 2 ^ 16 → dst = bits (s.cb k 0x0008) 55 16 * 2 ^ 16 →
       (s.skimBusy k = false → src ≠ dst → s.isLocalPa src = true → s.isLocalPa dst = true → s.inPageRegion (lpaOf src) = true →
         s.inPageRegion (lpaOf dst) = true → s.homeCore (s.placeOf (lpaOf src)) = k →
         ∃ t, exec .tierMigrationGo s = .next t ∧ t.mem = s.mem ∧ t.pending = s.pending ++ [.skimCopyStep k] ∧ t.cb k 0x0018 = 0 ∧
           bits (t.cb k 0x0020) 1 0 = 1 ∧ (t.core k).skim = some (lpaOf src, lpaOf dst)) ∧
       (s.skimBusy k = true ∨ src = dst ∨ s.isLocalPa src = false ∨ s.isLocalPa dst = false →
         ∃ t, exec .tierMigrationGo s = .next t ∧ t.mem = s.mem ∧ t.pending = s.pending ∧ (t.cb k 0x0020).getLsbD 2 = true ∧
           bits (t.cb k 0x0020) 1 0 = bits (s.cb k 0x0020) 1 0)) ∧
     (s.ev = some (.bankSparingGo k m) →
       (m = .f → s.skimBusy k = false → bit (s.cb k 0x0040) (bits (s.cb k 0x0030) 16 16) = false →
         ∃ t, exec .bankSparingGo s = .next t ∧ t.mem = s.mem ∧ t.pending = s.pending ++ [.spareCopyStep k] ∧ t.cb k 0x0038 = 0 ∧
           bits (t.cb k 0x0020) 1 0 = 1 ∧ (t.core k).spare = s.cb k 0x0030) ∧
       (m ≠ .f ∨ s.skimBusy k = true ∨ bit (s.cb k 0x0040) (bits (s.cb k 0x0030) 16 16) = true →
         ∃ t, exec .bankSparingGo s = .next t ∧ t.mem = s.mem ∧ t.pending = s.pending ∧ (t.cb k 0x0020).getLsbD 2 = true)) ∧
     (∀ n x y src dst, s.ev = some (.skimCopyStep k) → (s.core k).skim = some (x, y) → (s.cb k 0x0020).getLsbD 1 = false →
       n = bits (s.cb k 0x0018) 16 0 → n < 2 ^ 16 → n % 8 = 0 → src = x + n → dst = y + n →
       (∀ i, i < 8 → s.corrupt.contains (src / 64 * 64 + 8 * i) = false) → (s.core k).waits = [] →
       ∃ t, exec .skimCopyStep s = .next t ∧ memRead t.mem dst 8 = memRead s.mem src 8 ∧ t.full dst = s.full src ∧ t.poisoned dst = s.poisoned src ∧
         t.cb k 0x0018 = BitVec.ofNat 64 (n + 8) ∧ (∀ b, ¬(dst ≤ b ∧ b < dst + 8) → memByte t.mem b = memByte s.mem b) ∧
         (n + 8 < 2 ^ 16 → t.pending = s.pending ++ [.skimCopyStep k] ∧ t.cb k 0x0020 = s.cb k 0x0020) ∧
         (n + 8 = 2 ^ 16 → t.pending = s.pending ∧ bits (t.cb k 0x0020) 1 0 = 3)) ∧
     (s.ev = some (.skimRetire k) →
       ((s.cb k 0x0020).getLsbD 1 = true → (s.core k).skim ≠ none → ∃ t, exec .skimRetire s = .next t ∧ t.mem = s.mem ∧
         bits (t.cb k 0x0020) 1 0 = 0 ∧ (t.core k).skim = none) ∧
       ((s.cb k 0x0020).getLsbD 1 = false ∨ (s.core k).skim = none → exec .skimRetire s = .next s)) ∧
     (∀ n, s.ev = some (.spareCopyStep k) → s.skimBusy k = true → (s.core k).skim = none → n = bits (s.cb k 0x0038) 31 0 → n + 1 < 2 ^ 32 →
       n < Config.bankLines k →
       (∀ i, i < 8 → s.corrupt.contains (Config.bankAddr k (s.core k).spare n / 64 * 64 + 8 * i) = false) →
       ∃ t, exec .spareCopyStep s = .next t ∧ t.mem = s.mem ∧ t.cb k 0x0038 = BitVec.ofNat 64 (n + 1) ∧
         (n + 1 < Config.bankLines k → t.pending = s.pending ++ [.spareCopyStep k] ∧ t.cb k 0x0020 = s.cb k 0x0020) ∧
         (Config.bankLines k = n + 1 → t.pending = s.pending ∧ bits (t.cb k 0x0020) 1 0 = 2 ∧
           bit (t.cb k 0x0040) (bits (s.core k).spare 16 16) = true)) ∧
     (s.ev = some (.attestGo r) →
       ((s.rcb r 0x0D30).getLsbD 1 = false → ∃ t, exec .attestGo s = .next t ∧ t.mem = s.mem ∧ t.rcb r 0x0D30 = 2 ∧
         t.pending = s.pending ++ [.attestDone r]) ∧
       ((s.rcb r 0x0D30).getLsbD 1 = true → exec .attestGo s = .next s)) ∧
     (s.ev = some (.attestDone r) → (s.rcb r 0x0D30).getLsbD 1 = true →
       ∃ t, exec .attestDone s = .next t ∧ t.mem = s.mem ∧ t.rcb r 0x0D30 = 0 ∧
         ∀ i, i < 12 → t.rcb r (0x0D40 + 8 * i) = Config.signature r (s.quoted r) i)) ∧
  ((∀ (s : State) (w : Who) (c : Ctx) (r : Reg) (e : RegEntry) (k : Out), r ≠ 0 → r.toNat < c.lim → e = s.regEntry w c r.toNat → e.bad = true →
     (∀ n, e.soft = some n → s.action (coreRet w.core) 4 c.srcKind = 0 → ∃ t, needRegs s w c [r] none k = .next t ∧ t.mem = s.mem ∧
       t.regEntry w c r.toNat = { e with bad := false, soft := none } ∧ t.ctx? w = s.ctx? w) ∧
     (e.soft = none → s.action (coreRet w.core) 5 c.srcKind = 0 → c.role = .single → ∃ u : State, u.mem = s.mem ∧ u.ctx? w = s.ctx? w ∧
       u.regEntry w c r.toNat = { val := 0, pres := .present, bad := false } ∧
       needRegs s w c [r] none k = .next (u.trap w c.pc (BitVec.ofNat 64 (r.toNat + c.entry r.toNat * 2 ^ 8)) .sync .uereg))) ∧
   (∀ (s : State) (k b r : Nat),
     (∀ a, s.ev = some (.sramScrubRead k b) → a = s.bankWord k b →
       (b < scrubBanks k → s.hard a = true → ∃ t, exec .sramScrubRead s = .next t ∧ t.mem = s.mem ∧ t.poisoned a = true ∧ t.corrupt.contains a = false) ∧
       (∀ n, b < scrubBanks k → s.corrupt.contains a = true → mget s.soft a = some n →
         ∃ t, exec .sramScrubRead s = .next t ∧ t.mem = s.mem ∧ t.poisoned a = s.poisoned a ∧ t.corrupt.contains a = false) ∧
       (scrubBanks k ≤ b ∨ s.corrupt.contains a = false → exec .sramScrubRead s = .next s)) ∧
     (∀ n, n = s.now k / 1024 % channelLines k → s.ev = some (.dramScrubRead k b) → isChannelCore k = true → b < 2 →
       (s.channelLine k b n = none → exec .dramScrubRead s = .next s) ∧
       (∀ a, s.channelLine k b n = some a →
         ((∀ i, i < 8 → s.corrupt.contains (a / 64 * 64 + 8 * i) = false) → exec .dramScrubRead s = .next s) ∧
         ((∃ i, i < 8 ∧ s.hard (a / 64 * 64 + 8 * i) = true) → (∀ i, i < 8 → (s.placeOf (a / 64 * 64 + 8 * i)).isDram = true) →
           ∃ t, exec .dramScrubRead s = .next t ∧ t.mem = s.mem ∧
             ∀ i, i < 8 → t.poisoned (a / 64 * 64 + 8 * i) = true ∧ t.corrupt.contains (a / 64 * 64 + 8 * i) = false))) ∧
     (∀ d n, s.ev = some (.meshFlitRetry r b d n) → n < 8 → s.action r 6 6 = 0 → exec .meshFlitRetry s = .next s) ∧
     (∀ d n q, s.ev = some (.meshFlitRetry r b d n) → 8 ≤ n → s.action r 7 6 = 0 → s.tileBeside (coreId r b) d = some q → coreRet q = r →
       ∃ t, exec .meshFlitRetry s = .next t ∧ t.mem = s.mem ∧ t.pending = s.pending ∧ d ∈ (t.core (coreId r b)).failedLinks ∧
         ∀ v, t.ctx? v = s.ctx? v) ∧
     (∀ e a w c o, e = .loadRequest a ∨ e = .activeMessage a → s.outbox = [] → a.dst = .reg 0 ∨ a.dst = .notice → a.src.modn = s.modn →
       s.srcWho a.src = some w → s.ctx? w = some c → c.op? a.id = some o → o.dst = none → c.pend.late = none →
       ∃ c', (s.returned e).mem = s.mem ∧ (s.returned e).pending = s.pending ∧ (s.returned e).ctx? w = some c' ∧ c'.out = (c.done a.id).out ∧
         c'.pend.late = some (.uelink, a.va))))

/-! Watershed and Lowland (spec/19). -/

/-- R379 to R389: power-up forgets all contents and begins the tests; a reticle whose tile (0, 0) failed is dark, any other trains its passes and floods a
fresh key; a larger key is kept and sent on, with its side as parent; settled, each reticle sends its reports to its parent; a restart returns to the
election, the fourth leaves the reticle dark; the leader of an island that can be placed posts its summary, the best claims, any other island is dark;
with the coordinates of its last reticle the table is published and firmware starts. Where firmware starts, with which registers, is presumed (log 1);
nonces and keys are free (log 11); what an entry shows of a reticle never heard of, and what a late key does, are the model's reading (logs 53, 64). -/
def Obligations.WatershedPhases : Prop :=
  ∀ (s : State) (r : Nat) (h : Shed), h = s.shedOf r →
    (s.ev = some .powerUp → ∃ t, exec .powerUp s = .next t ∧ t.mem = [] ∧ t.cores = [] ∧ t.topo = [] ∧ t.pending = [] ∧ t.inputs = s.inputs ∧
      t.power.epoch = (if s.power.good then s.power.epoch + 1 else 1) ∧ (r < 49 → (t.shedOf r).phase = 1 ∧ (t.reticle r).cc = 0)) ∧
    (∀ ft fr st, s.ev = some (.bistComplete r ft fr st) → h.phase = 1 →
      (0 ∈ ft ∨ 0 ∈ fr → ∃ t, exec .bistComplete s = .next t ∧ (t.shedOf r).phase = 0 ∧ (t.shedOf r).dark = 1 ∧ t.pending = s.pending) ∧
      (0 ∉ ft → 0 ∉ fr → ∃ t x, exec .bistComplete s = .next t ∧ (t.shedOf r).phase = 2 ∧ (t.shedOf r).reports = [x] ∧ x.ret = r ∧ x.strips = st ∧
        t.pending = s.pending ∧ 0 ∉ x.failTiles ∧ ∀ n, n < 192 → n ∈ ft ∨ n ∈ fr → n ∈ x.failTiles)) ∧
    (∀ sides hosts dev, s.ev = some (.passTrainingEnd r sides hosts dev) → h.phase = 2 →
      ∃ t x, exec .passTrainingEnd s = .next t ∧ x = t.shedOf r ∧ x.phase = 3 ∧ x.best = x.key ∧ x.key = keyOf r h.draws ∧ x.parent = none ∧
        x.hostSides = hosts ∧ x.devices = dev ∧ ∀ d q, d < 4 → d ∈ sides → neighbourRet r d = some q →
          d ∈ x.trained ∧ .electionKey q (opposite d) x.key ∈ t.pending) ∧
    (∀ d key, s.ev = some (.electionKey r d key) →
      (h.phase = 1 ∨ h.phase = 2 → exec .electionKey s = .next (s.push (.electionKey r d key))) ∧
      (h.phase = 3 → d ∈ h.trained →
        (h.best < key → ∃ t, exec .electionKey s = .next t ∧ (t.shedOf r).best = key ∧ (t.shedOf r).parent = some d ∧
          ∀ x q, x ∈ h.trained → x ≠ d → neighbourRet r x = some q → .electionKey q (opposite x) key ∈ t.pending) ∧
        (key ≤ h.best → ∃ t, exec .electionKey s = .next t ∧ (t.shedOf r).best = h.best ∧ (t.shedOf r).parent = h.parent ∧ t.pending = s.pending)) ∧
      (h.phase = 4 → d ∈ h.trained → h.best < key →
        ∃ t, exec .electionKey s = .next t ∧ (t.shedOf r).phase = 3 ∧ (t.shedOf r).best = key ∧ (t.shedOf r).parent = some d)) ∧
    (s.ev = some (.electionSettled r) → h.phase = 3 → s.pending = [] →
      ∃ t, exec .electionSettled s = .next t ∧ (t.shedOf r).phase = 4 ∧ (t.shedOf r).children = s.floodChildren r ∧
        ∀ d q, s.floodChildren r = [] → h.parent = some d → neighbourRet r d = some q → ∃ l, t.pending = [.gatherReport q l] ∧ (l.head?.map (·.ret)) = some r) ∧
    (∀ x l, s.ev = some (.gatherReport r (x :: l)) →
      (h.phase = 3 → exec .gatherReport s = .next (s.push (.gatherReport r (x :: l)))) ∧
      (h.phase = 4 → x.ret ∈ h.children → ∃ t, exec .gatherReport s = .next t ∧ (t.shedOf r).reports = h.reports ++ x :: l ∧
        (t.shedOf r).children = h.children.filter (fun q => q != x.ret))) ∧
    (∀ q, s.ev = some (.gatherTimeout r q) → h.phase = 4 → q ∈ h.children →
      ∃ t, exec .gatherTimeout s = .next t ∧ (t.shedOf r).children = h.children.filter (fun x => x != q) ∧ (t.shedOf r).reports = h.reports) ∧
    (s.ev = some (.electionRestart r) → h.phase = 4 ∨ h.phase = 5 →
      (h.restarts < 3 → ∃ t, exec .electionRestart s = .next t ∧ (t.shedOf r).phase = 3 ∧ (t.shedOf r).restarts = h.restarts + 1 ∧
        (t.shedOf r).key = keyOf r h.draws) ∧
      (3 ≤ h.restarts → ∃ t, exec .electionRestart s = .next t ∧ (t.shedOf r).phase = 0 ∧ (t.shedOf r).dark = 2)) ∧
    (∀ line u, s.ev = some (.islandPlacement r line) → h.phase = 4 → h.children = [] → h.parent = none → u = s.checkPasses r → u.sameKeys r = [] →
      (u.place r = none → ∃ t, exec .islandPlacement s = .next t ∧ t.power = s.power ∧
        ∀ p ∈ u.islandPos r, (t.shedOf p.rep.ret).phase = 0 ∧ (t.shedOf p.rep.ret).dark = 4) ∧
      (∀ i, u.place r = some i → line = true → i.kept ≠ [] → ∃ t m, exec .islandPlacement s = .next t ∧ t.power.lines = s.power.lines ++ [m] ∧
        m.ret = r ∧ m.size = i.kept.length ∧ m.key = h.key ∧ ∀ p ∈ i.kept, (t.shedOf p.rep.ret).phase = 5)) ∧
    (∀ m i, s.ev = some (.summaryCompare r) → s.power.lines.find? (fun n => n.ret == r) = some m → h.dark = 0 → s.power.claimed = none → s.place r = some i →
      ((∀ n ∈ s.power.lines, better (n.size, n.host, n.key) (m.size, m.host, m.key) = false) →
        ∃ t, exec .summaryCompare s = .next t ∧ t.power.claimed = some r ∧
          ∀ p ∈ i.kept, (s.shedOf p.rep.ret).phase = 5 → (t.shedOf p.rep.ret).phase = 6) ∧
      ((∃ n ∈ s.power.lines, better (n.size, n.host, n.key) (m.size, m.host, m.key) = true) →
        ∃ t, exec .summaryCompare s = .next t ∧ t.power.claimed = none ∧ ∀ p ∈ i.kept, (t.shedOf p.rep.ret).phase = 0 ∧ (t.shedOf p.rep.ret).dark = 5)) ∧
    (∀ leader i p n image, s.ev = some (.coordinates r image) → s.power.claimed = some leader → h.phase = 6 → s.place leader = some i → i.kept = [p] →
      p.rep.ret = r → n = posNumber i.shift p →
      (image < 2 → ∃ t, exec .coordinates s = .next t ∧ t.published = true ∧ t.retLive n = true ∧ (t.shedOf r).phase = 7 ∧
        t.ctx? { core := coreId n 0, slot := 62 } = some (firmwareCtx n)) ∧
      (image = 2 → ∃ t, exec .coordinates s = .next t ∧ t.topo = s.topo ∧ (t.shedOf r).phase = 0 ∧ (t.shedOf r).dark = 8) ∧
      (2 < image → ∃ t, exec .coordinates s = .next t ∧ t.topo = s.topo ∧ (t.shedOf r).phase = 0 ∧ (t.shedOf r).dark = 7))

/-- R26, R288, R343, R391 to R398: a power-fail, or the root reticle's firmware, signals every live reticle; a signalled basin drains with every spacing
over, then is retained with its translation buffers and tokens gone and memory as it was; power-good, WAKE or the shelf's pulse ends it, LLCNT rises
and the contexts go on; a lost retention supply loses all contents. Debug freezes and thaws the clocks and makes DEBUG pending. What stops at once and
what does not count in Lowland are the model's reading (log 54). -/
def Obligations.LowlandAndDebug : Prop :=
  ∀ (s : State) (r : Nat),
    (s.ev = some .powerFail → ∃ t, exec .powerFail s = .next t ∧ t.power.good = false ∧ t.mem = s.mem ∧ t.cores = s.cores ∧
      (s.published = true → t.power.lowCause = 1 ∧ ∀ q, s.retLive q = true → .lowlandSignal q ∈ t.pending) ∧
      (s.published = false → t.power.lowCause = s.power.lowCause)) ∧
    (∀ m v, s.ev = some (.lowlandGo r m v) →
      (v.getLsbD 0 = true → m = .f → r = bits (s.topoWord 0x2000) 29 24 → s.published = true → s.lowlandOn = false →
        ∃ t, exec .lowlandGo s = .next t ∧ t.power.lowCause = 2 ∧ t.pending = s.pending ++ s.liveRets.map .lowlandSignal ∧ t.mem = s.mem) ∧
      (v.getLsbD 0 = true → m ≠ .f ∨ r ≠ bits (s.topoWord 0x2000) 29 24 ∨ s.published = false ∨ s.power.lowCause ≠ 0 ∨ (∃ q, (s.reticle q).low ≠ .running) →
        ∃ t, exec .lowlandGo s = .next t ∧ t.power = s.power ∧ t.pending = s.pending ∧ (t.rcb r 0x0F00).getLsbD 1 = true)) ∧
    (s.ev = some (.lowlandSignal r) →
      ((s.reticle r).low ≠ .running → exec .lowlandSignal s = .next s) ∧
      ((s.reticle r).low = .running → bits (s.rcb r 0x0F08) 63 32 = 0 → s.power.lowCause ≠ 0 →
        ∃ t, exec .lowlandSignal s = .next t ∧ t.mem = s.mem ∧ (t.reticle r).low = .draining ∧ (t.reticle r).drained = 0 ∧
          bits (t.rcb r 0x0F08) 1 0 = s.power.lowCause % 4 ∧ ∀ w c, coreRet w.core = r → s.ctx? w = some c →
            ∃ c', t.ctx? w = some c' ∧ c'.spacing = min c.spacing (s.reticle r).cc ∧ c'.pc = c.pc ∧ c'.run = c.run ∧ c'.out = c.out)) ∧
    (s.ev = some (.lowlandRetain r) → (s.reticle r).low = .draining → s.outbox = [] →
      ∃ t, exec .lowlandRetain s = .next t ∧ t.mem = s.mem ∧ (t.reticle r).low = .retained ∧ (∀ v, t.ctx? v = s.ctx? v) ∧
        t.rcb r 0x0F10 = BitVec.ofNat 64 ((s.reticle r).drained % 2 ^ 21) ∧ (s.power.lowCause ≠ 0 → t.pending = s.pending) ∧
        (s.power.lowCause = 0 → t.pending = s.pending ++ [.passRetrainDone r]) ∧
        ∀ k, coreRet k = r → (t.core k).tlb = [] ∧ (t.core k).icache = [] ∧ (t.tok k).hold = 0 ∧ (t.tok k).pend = 0 ∧ (t.tok k).want = (s.tok k).want) ∧
    (s.ev = some .powerGood → ∃ t, exec .powerGood s = .next t ∧ t.power.good = true ∧ t.mem = s.mem ∧ t.cores = s.cores ∧
      (s.power.lowCause = 1 → t.power.lowCause = 0 ∧ ∀ q x, (q, x) ∈ s.rets → x.low = .retained → .passRetrainDone q ∈ t.pending)) ∧
    (∀ e, e = .shelfWake ∨ (∃ p, e = .wake p) → s.ev = some e →
      (s.power.lowCause = 2 → ∃ t, exec e.row s = .next t ∧ t.power.lowCause = 0 ∧ t.mem = s.mem ∧ t.cores = s.cores ∧
        ∀ q x, (q, x) ∈ s.rets → x.low = .retained → .passRetrainDone q ∈ t.pending) ∧
      (s.power.lowCause ≠ 2 → exec e.row s = .next s)) ∧
    (s.ev = some (.passRetrainDone r) →
      ((s.reticle r).low = .retained → ∃ t n, exec .passRetrainDone s = .next t ∧ t.mem = s.mem ∧ (t.reticle r).low = .running ∧
        n = (bits (s.rcb r 0x0F08) 63 32 + 1) % 2 ^ 32 ∧ bits (t.rcb r 0x0F08) 63 32 = n ∧
        ∀ w c, coreRet w.core = r → s.ctx? w = some c → c.kind ≠ .message → ∃ c', t.ctx? w = some c' ∧ c'.spacing = max c.spacing ((s.reticle r).cc + 1) ∧
          c'.pc = c.pc ∧ c'.run = c.run ∧ (c.mode = .u → c.trapen.getLsbD 9 = true → c'.pend = { c.pend with resume := some (BitVec.ofNat 64 n) })) ∧
      ((s.reticle r).low ≠ .retained → exec .passRetrainDone s = .next s)) ∧
    (s.ev = some .retentionLoss →
      (s.rets.any (fun p => p.2.low == .retained) = true → ∃ t, exec .retentionLoss s = .next t ∧ t.mem = [] ∧ t.cores = [] ∧ t.topo = [] ∧
        t.power.good = false) ∧
      (s.rets.any (fun p => p.2.low == .retained) = false → exec .retentionLoss s = .next s)) ∧
    (s.ev = some .debugFreeze → exec .debugFreeze s = .next { s with power := { s.power with frozen := true } }) ∧
    (s.ev = some .debugThaw → exec .debugThaw s = .next { s with power := { s.power with frozen := false } }) ∧
    (∀ w c v, s.ev = some (.debugRequest w.core w.slot v) → s.ctx? w = some c →
      Becomes .debugRequest s w { c with pend := { c.pend with dbg := some v } })
/-! Host ports, links between modules, merge entries (spec/17, spec/20). -/

/-- R333, R401 to R407, R440: a host's request becomes accesses tagged with the port's partition in mode S, its read of BAR0 answers the topology table; a
link comes up with its lanes, rate or peer, and goes down with UP cleared, LDN raised and what it had not answered or acknowledged reported; a bad
flit is counted and the ninth in a row takes the link down; routes with an alternate fail over; a request from another module is retagged by the
over (log 49). -/
def Obligations.HostAndModuleLinks : Prop :=
  ∀ (s : State) (k port : Nat),
    (∀ write off v base p, port < 4 → k = hostCore port → s.ev = some (.hostRequest port false write off 8 v) →
      (s.hostUp port = false → exec .hostRequest s = .next s) ∧
      (s.hostUp port = true → s.asleep k = false → off % 8 = 0 → off + 8 ≤ 2 ^ 36 → base = bits (s.cb k 0x0A10) 51 40 * 2 ^ 36 + off → p = s.placeOf base →
        s.inMailbox (coreRet k) base = false → p ≠ .hole → s.placeLive p = true → s.homeCore p ≠ k →
        ∃ t a, exec .hostRequest s = .next t ∧ t.mem = s.mem ∧ t.pending = s.pending ++ [if write then .activeMessage a else .loadRequest a] ∧
          a.op = (if write then .store 3 else .load 3 false) ∧ a.pa = s.paOf base ∧ a.tag = { part := s.pid (coreRet k), mode := .s } ∧
          a.data = BitVec.ofNat 64 v ∧ a.dst = .nobody ∧ ∀ w, t.ctx? w = s.ctx? w)) ∧
    (∀ off v, port < 4 → s.ev = some (.hostRequest port true false off 8 v) → s.hostUp port = true → off % 8 = 0 → off + 8 ≤ 2 ^ 16 →
      ∃ t, exec .hostRequest s = .next t ∧ t.mem = s.mem ∧ t.pending = s.pending ∧ t.cores = s.cores ∧
        t.hostLog = s.hostLog ++ [(s.ids, .ok, if 0x2000 ≤ off ∧ off < 0x2C80 then s.topoWord off else 0)]) ∧
    (∀ lanes rate, s.ev = some (.hostLinkUp port lanes rate) → port < 4 → k = hostCore port →
      (lanes = 16 ∨ lanes = 8 ∨ lanes = 4 → 1 ≤ rate → rate ≤ 3 → ∃ t, exec .hostLinkUp s = .next t ∧ t.mem = s.mem ∧ t.pending = s.pending ∧
        t.hostUp port = true ∧ bits (t.cb k 0x0A10) 12 8 = lanes ∧ bits (t.cb k 0x0A10) 1 0 = rate) ∧
      (rate = 0 ∨ 3 < rate ∨ lanes ∉ [16, 8, 4] → exec .hostLinkUp s = .next s)) ∧
    (s.ev = some (.hostLinkDown port) → port < 4 → k = hostCore port → s.hostUp port = true →
      (s.outbox = [] → ∃ t, exec .hostLinkDown s = .next t ∧ t.mem = s.mem ∧ t.pending = s.pending ∧ t.hostUp port = false ∧
        bits (t.cb k 0x0A00) 31 16 = min 65535 (bits (s.cb k 0x0A00) 31 16 + 1) ∧ bits (t.cb k 0x0A10) 12 8 = 0 ∧ bits (t.cb k 0x0A10) 1 0 = 0 ∧
        ∀ w, t.ctx? w = s.ctx? w) ∧
      (∀ a w c o, s.outbox = [a] → s.hostPort? a.pa = some port → a.attempt ≠ 255 → a.dst = .notice → s.srcWho a.src = some w → s.ctx? w = some c →
        c.op? a.id = some o → o.dst = none → c.pend.late = none →
        ∃ t c', exec .hostLinkDown s = .next t ∧ t.mem = s.mem ∧ t.hostUp port = false ∧ t.outbox = [] ∧ t.ctx? w = some c' ∧
          c'.out = (c.done a.id).out ∧ c'.pend.late = some (.hostdown, a.va))) ∧
    (∀ n l, isJenoon k = true → (s.cb k 0x0A00).getLsbD 63 = true →
      (s.ev = some (.linkFlit k true n l) → ∃ t, exec .linkFlit s = .next t ∧ t.mem = s.mem ∧ t.pending = s.pending ∧
        (t.core k).replay = (s.core k).replay.filter (fun a => !l.contains a.id) ∧
        (t.core k).awaited = (s.core k).awaited ++ (s.core k).replay.filter (fun a => l.contains a.id) ∧ ∀ w, t.ctx? w = s.ctx? w) ∧
      (s.ev = some (.linkFlit k false n l) → n < 8 → ∃ t, exec .linkFlit s = .next t ∧ t.mem = s.mem ∧ t.pending = s.pending ∧
        bits (t.cb k 0x0A00) 15 0 = min 65535 (bits (s.cb k 0x0A00) 15 0 + 1) ∧ (t.cb k 0x0A00).getLsbD 63 = true ∧ (t.core k).replay = (s.core k).replay) ∧
      (∀ e, s.ev = some e → (e = .linkFlit k false n l ∧ 8 ≤ n) ∨ (e = .ackTimeout k ∧ (s.core k).replay ≠ []) ∨ e = .phyLockLoss k →
        (∃ t, exec e.row s = .next t ∧ t.mem = s.mem ∧ (t.cb k 0x0A00).getLsbD 63 = false ∧ (t.core k).replay = [] ∧
          bits (t.cb k 0x0A00) 31 16 = min 65535 (bits (s.cb k 0x0A00) 31 16 + 1) ∧
          ∀ r m, r < 49 → m < 64 → bit (s.rcb r (0x3000 + 8 * m)) 63 = true → bit (s.rcb r (0x3000 + 8 * m)) 62 = true →
            coreId (bits (s.rcb r (0x3000 + 8 * m)) 53 48) (bits (s.rcb r (0x3000 + 8 * m)) 47 40) = k → bit (t.rcb r (0x3000 + 8 * m)) 61 = true) ∧
        (∀ a w c o, (s.core k).replay = [a] → s.outbox = [a] → a.attempt ≠ 255 → a.dst = .notice → s.srcWho a.src = some w → s.ctx? w = some c →
          c.op? a.id = some o → o.dst = none → c.pend.late = none →
          ∃ t c', exec e.row s = .next t ∧ t.outbox = [] ∧ t.ctx? w = some c' ∧ c'.out = (c.done a.id).out ∧ c'.pend.late = some (.linkdown, a.va)))) ∧
    (∀ m, s.ev = some (.jenoonLinkUp k m) → isJenoon k = true → m < 64 → ∃ t, exec .jenoonLinkUp s = .next t ∧ t.mem = s.mem ∧ t.pending = s.pending ∧
      (t.cb k 0x0A00).getLsbD 63 = true ∧ bits (t.cb k 0x0A00) 55 48 = m ∧ bits (t.cb k 0x0A00) 31 0 = bits (s.cb k 0x0A00) 31 0) ∧
    (∀ a b e, s.ev = some (.importedRequest k a) → isJenoon k = true → (s.cb k 0x0A00).getLsbD 63 = true → s.asleep k = false → a.src.modn ≠ s.modn →
      s.isLocalPa a.pa = true → e = s.cb k 0x9000 → b = { a with
          dst := .via k, tag := { part := s.pid (coreRet k), mode := if bits e 1 0 = 0 ∨ a.tag.mode = Mode.u then Mode.u else Mode.s } } →
      (e.getLsbD 63 = true → bits e 55 48 = a.src.modn → e.getLsbD 62 = true ∨ bits e 61 56 = a.tag.part → (∀ op, a.op ≠ .red op) ∨ s.mergeOver (lpaOf a.pa) = none →
        s.placeLive (s.placeOf (lpaOf a.pa)) = true → s.placeOf (lpaOf a.pa) ≠ .hole →
        ∃ t, exec .importedRequest s = .next t ∧ t.mem = s.mem ∧ t.pending = s.pending ++ [b.event] ∧ t.hostLog = s.hostLog) ∧
      ((∀ i, i < 64 → (s.cb k (0x9000 + 8 * i)).getLsbD 63 = false) →
        ∃ t, exec .importedRequest s = .next t ∧ t.mem = s.mem ∧ t.pending = s.pending ∧ t.hostLog = s.hostLog ++ [(a.id, .failed .acctbl, 0)]))

/-- R408 to R411: a merge entry is armed where its range, its modules and its barrier allow it, and then counts as a child of the barrier; a disarmed one
aborts its phase; a matching reduction is folded into its word, any other refused; a module's CLOSE is counted, and the last one locks the entry as
the barrier's arrival; with its commits done the phase ends and the range is held. That a range may not cross windows is the model's reading (log 51). -/
def Obligations.MergeEntries : Prop :=
  ∀ (s : State) (k e b : Nat) (x : Word), isLinkCore k = true → e < 4 → x = s.cb k (mergeOff e) → b < 48 →
    (∀ v n base, s.ev = some (.mergeArm k e v) → v.getLsbD 63 = true → b = bits v 53 48 → n = bits v 12 0 → base = bits (s.cb k (mergeOff e + 8)) 47 3 * 8 →
      (1 ≤ n → n ≤ 4096 → s.cb k (mergeOff e + 16) ≠ 0 → s.oneWindow base (base + 8 * n) = true → bit (s.cb k (barCfg b)) 63 = false →
        bits (s.cb k (barSt b)) 13 8 = 0 → bits (s.cb k (barSt b)) 31 23 = 0 → bit (s.cb k (barSt b)) 62 = false → (s.core k).children.length < 256 →
        x.getLsbD 63 = false → (∀ q ∈ s.mergesOn k e, (s.mergeRange q.1 q.2).2 ≤ base ∨ base + 8 * n ≤ (s.mergeRange q.1 q.2).1) →
        bits (s.cb k (barCfg b)) 34 26 < 511 →
        ∃ t y, exec .mergeArm s = .next t ∧ t.mem = s.mem ∧ t.pending = s.pending ∧ y = t.cb k (mergeOff e) ∧ y.getLsbD 63 = true ∧ bits y 62 60 = 0 ∧
          bits y 58 56 = bits v 58 56 ∧ bits y 53 48 = b ∧ bits y 12 0 = n ∧ t.cb k (mergeOff e + 0x18) = 0 ∧
          bits (t.cb k (barCfg b)) 34 26 = bits (s.cb k (barCfg b)) 34 26 + 1) ∧
      (n = 0 ∨ 4096 < n ∨ s.cb k (mergeOff e + 16) = 0 ∨ bit (s.cb k (barCfg b)) 63 = true ∨ x.getLsbD 63 = true →
        ∃ t, exec .mergeArm s = .next t ∧ t.mem = s.mem ∧ t.pending = s.pending ∧ (t.cb k (mergeOff e)).getLsbD 59 = true ∧
          (t.cb k (mergeOff e)).getLsbD 63 = x.getLsbD 63 ∧ t.cb k (barCfg b) = s.cb k (barCfg b))) ∧
    (s.ev = some (.mergeDisarm k e) → b = bits x 53 48 →
      (x.getLsbD 63 = false → SetsWord .mergeDisarm s (.core k) (mergeOff e) (setBit x 61 false)) ∧
      (x.getLsbD 63 = true → x.getLsbD 62 = true → SetsWord .mergeDisarm s (.core k) (mergeOff e) (setBit x 59 true)) ∧
      (x.getLsbD 63 = true → x.getLsbD 62 = false → ∃ t y, exec .mergeDisarm s = .next t ∧ t.mem = s.mem ∧ y = t.cb k (mergeOff e) ∧ y.getLsbD 63 = false ∧
        y.getLsbD 61 = false ∧ y.getLsbD 60 = true)) ∧
    (∀ a i l, s.ev = some (.mergeAbsorb k e a) → l = lpaOf a.pa → (s.mergeRange k e).1 ≤ l → l < (s.mergeRange k e).2 → i = (l - (s.mergeRange k e).1) / 8 →
      a.dst = .nobody →
      (x.getLsbD 63 = true → x.getLsbD 62 = false → a.op = .red (bits x 58 56) → a.src.modn < 64 → bit (s.cb k (mergeOff e + 0x10)) a.src.modn = true →
        bit (s.cb k (mergeOff e + 0x18)) a.src.modn = false →
        ∃ t m m', exec .mergeAbsorb s = .next t ∧ t.mem = s.mem ∧ t.pending = s.pending ∧ t.hostLog = s.hostLog ++ [(a.id, .ok, 0)] ∧
          m = (mget (s.core k).merges e).getD { touched := [], committing := 0 } ∧ mget (t.core k).merges e = some m' ∧
          mget m'.touched i = some (amoRow (bits x 58 56) ((mget m.touched i).getD (redIdentity (bits x 58 56))) a.data 0) ∧
          ∀ j, j ≠ i → mget m'.touched j = mget m.touched j) ∧
      (x.getLsbD 63 = true ∨ x.getLsbD 61 = true → x.getLsbD 63 = false ∨ x.getLsbD 62 = true ∨ a.op ≠ .red (bits x 58 56) →
        ∃ t, exec .mergeAbsorb s = .next t ∧ t.mem = s.mem ∧ t.cores = s.cores ∧ t.hostLog = s.hostLog ++ [(a.id, .failed .taskerr, 0)])) ∧
    (∀ m exp got, s.ev = some (.mergeClose k e m) → b = bits x 53 48 → exp = s.cb k (mergeOff e + 0x10) → got = s.cb k (mergeOff e + 0x18) → m < 64 →
      (bit exp m = false ∨ bit got m = true ∨ x.getLsbD 63 = false → exec .mergeClose s = .next s) ∧
      (x.getLsbD 63 = true → bit exp m = true → bit got m = false →
        (setBit got m true ≠ exp → SetsWord .mergeClose s (.core k) (mergeOff e + 0x18) (setBit got m true)) ∧
        (setBit got m true = exp → bits (s.cb k (barSt b)) 13 8 ≠ bits (s.cb k (barSt b)) 5 0 → bits (s.cb k (barSt b)) 31 23 < 511 →
          ∃ t, exec .mergeClose s = .next t ∧ t.mem = s.mem ∧ t.pending = s.pending ∧ (t.cb k (mergeOff e)).getLsbD 62 = true ∧
            t.cb k (mergeOff e + 0x18) = exp ∧ bits (t.cb k (barSt b)) 31 23 = bits (s.cb k (barSt b)) 31 23 + 1))) ∧
    (∀ m, s.ev = some (.mergeCommitDone k e) → b = bits x 53 48 → s.armedAt k b = [e] → x.getLsbD 62 = true → mget (s.core k).merges e = some m →
      m.committing = 1 → s.childrenOf k b = [] → (∀ y ∈ (s.core k).members, y.bar = b → y.joining = false) →
      ∃ t, exec .mergeCommitDone s = .next t ∧ t.mem = s.mem ∧ (t.cb k (mergeOff e)).getLsbD 63 = false ∧ (t.cb k (mergeOff e)).getLsbD 62 = false ∧
        (t.cb k (mergeOff e)).getLsbD 61 = true ∧ bits (t.cb k (barSt b)) 47 32 = (bits (s.cb k (barSt b)) 47 32 + 1) % 2 ^ 16)
/-! Combining, cancels, timeouts (spec/06, spec/07, spec/09, spec/16). -/

/-- R195, R196, R227, R343: a fetch-and-add joins the open entry of its word or opens one, whose sum goes to the home, and each member is answered with
the value it would have found in its turn; a cancel takes a waiting access away and answers whether it had performed, and the answer lets a freeze
take effect, with the access recorded to be sent again; a request that is never answered fails with TIMEOUTMEM. A cancel that goes to another module
leaves through `outbox` (log 52). -/
def Obligations.CombiningAndCancels : Prop :=
  ∀ (s : State) (r n : Nat) (w : Who) (c : Ctx) (a : Access),
    (∀ k : Combine, s.ev = some (.combineJoin r n a) →
      ((s.reticle r).combine = [k] → k.node = n → k.sent = false → k.word = a.pa → (k.members.head?.map (·.tag)) = some a.tag →
        ∃ t, exec .combineJoin s = .next t ∧ t.mem = s.mem ∧ t.pending = s.pending ∧ (t.reticle r).combine = [{ k with members := k.members ++ [a] }]) ∧
      ((s.reticle r).combine = [] →
        ∃ t, exec .combineJoin s = .next t ∧ t.mem = s.mem ∧ t.pending = s.pending ++ [.combineClose r s.ids] ∧
          (t.reticle r).combine = [{ node := n, word := a.pa, members := [a], sent := false, id := s.ids }])) ∧
    (∀ (k : Combine) m, s.ev = some (.combineClose r n) → (s.reticle r).combine = [k] → k.id = n → k.sent = false → k.members = [a, m] →
      ∃ t, exec .combineClose s = .next t ∧ t.mem = s.mem ∧ (t.reticle r).combine = [{ k with sent := true }] ∧
        t.pending = .activeMessage { a with
          id := n, op := .amo 0 true, data := a.data + m.data, dst := .combine r n, attempt := 0 } :: s.pending) ∧
    (∀ (k : Combine) m v st, s.ev = some (.combineReply r n { acc := a, value := v, status := st }) → (s.reticle r).combine = [k] → k.id = n →
      k.members = [a, m] → a.op = .amo 0 true → m.op = .red 0 →
      ∃ t, exec .combineReply s = .next t ∧ t.mem = s.mem ∧ (t.reticle r).combine = [] ∧
        t.pending = s.pending ++ [.loadReply { acc := a, value := v, status := st }, .performedNotice { acc := m, value := v + a.data, status := st }]) ∧
    (∀ why, s.ctx? w = some c → s.ev = some (.cancel w.core w.slot why) → (∀ d, why ≠ .kill d) →
      (c.cond = none → exec .cancel s = .next (s.push (.cancelAnswer w.core w.slot true why))) ∧
      (∀ x, c.cond = some a → s.outbox = [x] → x.id = a.id → x.src.core = w.core → ∃ t, exec .cancel s = .next t ∧ t.pending = s.pending ∧
        t.cores = s.cores ∧ t.outbox = s.outbox ++ [{ x with attempt := 255 }]) ∧
      (∀ (mine : Access → Prop) (at_ : Core → Access → Prop), c.cond = some a → (∀ x ∈ s.outbox, x.id ≠ a.id ∨ x.src.core ≠ w.core) →
        (∀ k x, at_ k x ↔ x ∈ k.waits ∨ x ∈ k.blocked ∨ x ∈ k.ready ∨ .again x ∈ k.jobs ∨ .forward x ∈ k.jobs) → (∀ x, mine x ↔ x.id = a.id ∧ x.src.modn = s.modn ∧ x.src.core = w.core) →
        ∃ t done, exec .cancel s = .next t ∧ t.mem = s.mem ∧ (∀ v, t.ctx? v = s.ctx? v) ∧ .cancelAnswer w.core w.slot done why ∈ t.pending ∧
          (done = false ↔ (∃ e ∈ s.pending, ∃ x, attemptOf e = some x ∧ mine x) ∨ ∃ p ∈ s.cores, ∃ x, at_ p.2 x ∧ mine x) ∧
          (∀ e ∈ t.pending, ∀ x, attemptOf e = some x → ¬mine x) ∧ ∀ k x, at_ (t.core k) x → ¬mine x)) ∧
    (∀ done why, s.ctx? w = some c → s.ev = some (.cancelAnswer w.core w.slot done why) → (∀ d, why ≠ .kill d) →
      (c.cancelling = none → exec .cancelAnswer s = .next s) ∧
      (∀ o, c.cancelling = some .freeze → why = .freeze → done = false → c.run = .ready → c.busy = none → c.cond = some a → c.op? a.id = some o →
        o.both = false → ∃ t c', exec .cancelAnswer s = .next t ∧ t.mem = s.mem ∧ t.ctx? w = some c' ∧ c'.run = .frozen ∧ c'.cond = none ∧
          c'.out = (c.done a.id).out ∧ c'.resend = some { a with attempt := 9, cmp := BitVec.ofNat 64 o.nth } ∧ c'.cancelling = none ∧ c'.pc = c.pc ∧
          ∀ q, o.dst = some q → q ≠ 0 → t.regEntry w c' q = { s.regEntry w c q with pres := .present }) ∧
      (c.cancelling = some .freeze → why = .freeze → done = true → c.run = .ready → c.busy = none →
        ∃ t, exec .cancelAnswer s = .next t ∧ Changes s t w { c with run := .frozen, cancelling := none } [])) ∧
    (∀ o, s.ev = some (.memoryTimeout a) → s.outbox = [] → a.dst = .notice → s.srcWho a.src = some w → s.ctx? w = some c → c.op? a.id = some o →
      o.dst = none → c.pend.late = none →
      ∃ t c', exec .memoryTimeout s = .next t ∧ t.mem = s.mem ∧ t.pending = s.pending ∧ t.ctx? w = some c' ∧ c'.out = (c.done a.id).out ∧
        c'.pend.late = some (.timeoutmem, a.va) ∧ c'.pc = c.pc ∧ c'.run = c.run)
/-! Encodings, steps, reset (spec/02, spec/03, spec/06). -/

/-- R30: x0 reads as zero and present, and a write to it is discarded. A load with destination x0 is still issued and counted in ctr.LD, and performed at its
home; its reply lowers the counter and writes no register. -/
def Obligations.RegisterZero : Prop :=
  ∀ (s : State) (w : Who) (c : Ctx) (op : MemOp) (pa : Nat) (r : Access),
    s.reg w c 0 = 0 ∧ (s.regEntry w c 0).pres = .present ∧ (∀ v, s.setReg w c 0 v = s) ∧
    (∀ (a : Reg) (z : BitVec 2) (e : BitVec 1) (o : BitVec 9) (va : Word), Issues s w c → c.solo → Usable s w c [a, 0] →
      va = s.reg w c a.toNat + (o.signExtend 64 <<< z.toNat) → op = .load z.toNat (e == 1) → MayAccess c op → Reaches s w c op va pa →
      s.isLocalPa pa = true → s.homeOf pa ≠ w.core → r = s.request w c op va pa 0 0 (some 0) s.ids →
      ∃ t c', exec (.ld 0 a z e o) s = .next t ∧ t.pending = s.pending ++ [.loadRequest r] ∧ t.ctx? w = some c' ∧ c'.count .ld = c.count .ld + 1 ∧
        ∀ k n, t.fileEntry k n = s.fileEntry k n) ∧
    (∀ st f v, s.ev = some (.loadRequest r) → AtHome s r → r.fwd = false → (∃ z e, r.op = .load z e) → lpaOf r.pa % r.op.bytes = 0 → r.dst = .reg 0 →
      r.src.modn = s.modn → r.src.core ≠ s.homeCore (s.placeOf (lpaOf r.pa)) →
      opRow s.mem (lpaOf r.pa) r.data r.cmp (s.full (wordAt (lpaOf r.pa))) r.op = some (st, f, v) →
      ∃ t, exec .loadRequest s = .next t ∧ t.pending = s.pending ++ [.loadReply { acc := r, value := v, status := .ok }]) ∧
    (∀ v o, s.ev = some (.loadReply { acc := r, value := v, status := .ok }) → s.arrived { acc := r, value := v, status := .ok } =
        { acc := r, value := v, status := .ok } → s.inboundShut r = false → r.dst = .reg 0 → s.srcWho r.src = some w → s.ctx? w = some c →
      c.op? r.id = some o → o.dst = some 0 →
      ∃ t c', exec .loadReply s = .next t ∧ t.ctx? w = some c' ∧ c'.out = (c.done r.id).out ∧ ∀ k n, t.fileEntry k n = s.fileEntry k n)

/-- R150: FCLASS answers one bit, by sign, exponent and fraction of its operand, and raises no flag. -/
def Obligations.FloatClasses : Prop :=
  ∀ (s : State) (w : Who) (c : Ctx) (d a : Reg) (x n e f : Nat), Issues s w c → Usable s w c [a, d] → x = (s.reg w c a.toNat).toNat % 2 ^ 32 →
    n = x / 2 ^ 31 → e = x / 2 ^ 23 % 2 ^ 8 → f = x % 2 ^ 23 →
    ∃ k, Yields (.fclass d a) s w c d (BitVec.ofNat 64 (2 ^ k)) ∧
      (k = 0 ↔ n = 1 ∧ e = 255 ∧ f = 0) ∧ (k = 1 ↔ n = 1 ∧ 0 < e ∧ e < 255) ∧ (k = 2 ↔ n = 1 ∧ e = 0 ∧ f ≠ 0) ∧ (k = 3 ↔ n = 1 ∧ e = 0 ∧ f = 0) ∧
      (k = 4 ↔ n = 0 ∧ e = 0 ∧ f = 0) ∧ (k = 5 ↔ n = 0 ∧ e = 0 ∧ f ≠ 0) ∧ (k = 6 ↔ n = 0 ∧ 0 < e ∧ e < 255) ∧ (k = 7 ↔ n = 0 ∧ e = 255 ∧ f = 0) ∧
      (k = 8 ↔ e = 255 ∧ f ≠ 0 ∧ f < 2 ^ 22) ∧ (k = 9 ↔ e = 255 ∧ 2 ^ 22 ≤ f)

/-- R60: in a word of major 0x08, bits [11:8] select SHLI, SHRI, SARI or ROLI, 4 to 15 trapping ILLOP; bits [7:6] are reserved and trap RSVFLD unless zero; bits
[5:0] are the amount. -/
def Obligations.ShiftImmediates : Prop :=
  ∀ (s : State) (w : Who) (c : Ctx) (v : BitVec 32) (d a : Reg) (sh : BitVec 6), v.extractLsb' 26 6 = 0x08 → d = v.extractLsb' 19 7 →
    a = v.extractLsb' 12 7 → sh = v.extractLsb' 0 6 →
    (v.extractLsb' 6 2 = 0 →
      (v.extractLsb' 8 4 = 0 → decodeWord v.toNat 0 = .ok (.shli d a sh)) ∧ (v.extractLsb' 8 4 = 1 → decodeWord v.toNat 0 = .ok (.shri d a sh)) ∧
      (v.extractLsb' 8 4 = 2 → decodeWord v.toNat 0 = .ok (.sari d a sh)) ∧ (v.extractLsb' 8 4 = 3 → decodeWord v.toNat 0 = .ok (.roli d a sh))) ∧
    (4 ≤ (v.extractLsb' 8 4).toNat → s.decodeAt w c v 0 = .ended (trapNow { s with cur := w, ir := v } w c .illop (v.setWidth 64))) ∧
    ((v.extractLsb' 8 4).toNat < 4 → v.extractLsb' 6 2 ≠ 0 →
      s.decodeAt w c v 0 = .ended (trapNow { s with cur := w, ir := v } w c .rsvfld (v.setWidth 64)))

/-- R54 to R74: the decoder reads back every well-formed instruction that the encoder writes, whatever follows it, and a word that decodes is the one
that the encoder writes for its instruction. -/
def Obligations.DecodeEncodeRoundTrip : Prop :=
  (∀ (i : Instr) (rest : List Byte), i.wellFormed = true → decode (wordBytes (encode i) ++ rest) = .ok (i, rest)) ∧
  (∀ (v v2 : BitVec 32) (i : Instr), decodeWord v.toNat v2.toNat = .ok i →
    i.wellFormed = true ∧ encode i = if isLong v.toNat then [v.toNat, v2.toNat] else [v.toNat])

/-- R55 to R74: words written out from the encodings of spec/03, and the words that spec/03, spec/10, spec/14, spec/15 and spec/16 give with their instructions. -/
def Obligations.DecodingWords : Prop :=
  decodeWord 0x10282FFD 0 = .ok (.addi 5 2 0xFFD) ∧ decodeWord 0x04286060 0 = .ok (.add 5 6 3) ∧ decodeWord 0x5C0E0004 0 = .ok (.repfConstant 0 1 6 4) ∧
    decodeWord 0x5C960064 0 = .ok (.repfConstant 2 2 6 100) ∧ decodeWord 0xB8280000 0 = .ok (.rdnon 5) ∧ decodeWord 0xB8000001 0 = .ok .rdnoff ∧
    decodeWord 0xB8280002 0 = .ok (.rdnchk 5) ∧ decodeWord 0x60000000 0 = .ok .nop ∧ decodeWord 0x04000010 0 = .error .illop ∧
    decodeWord 0x60080000 0 = .error .rsvfld ∧ decodeWord 0 0 = .error .illop ∧ decodeWord 0xBC000000 0 = .error .illop ∧
    decodeWord 0x50100000 0 = .error .rsvfld ∧ decodeWord 0x64484C02 0 = .ok (.ld 9 4 3 0 2) ∧ decodeWord 0x441840A1 0 = .ok (.fadd 3 4 5 1) ∧
    decodeWord 0xFC101234 0x56789ABC = .ok (.ldi 2 0x123456789ABC) ∧
  decodeWord 0x702860E1 0 = .ok (.amoF 5 6 7 0) ∧ decodeWord 0x702860F3 0 = .ok (.amoCasF 5 6 7) ∧ decodeWord 0x740060E0 0 = .ok (.red 6 7 0) ∧
  decodeWord 0x7BFC3C03 0 = .ok (.waitc 15 15 0 15) ∧ decodeWord 0x80484020 0 = .ok (.nwr 9 4 1) ∧ decodeWord 0x80480001 0 = .ok (.narm 9) ∧
  decodeWord 0x504FFFFE 0 = .ok (.br 1 0 0xFFFFE) ∧ decodeWord 0x54B80004 0 = .ok (.call 23 4) ∧ decodeWord 0x58017000 0 = .ok (.jr 0 23 0) ∧
  decodeWord 0x602860E3 0 = .ok (.tstart 5 6 7) ∧ decodeWord 0x60006004 0 = .ok (.tstop 6) ∧ decodeWord 0xAC005000 0 = .ok (.gjoin 5) ∧
  decodeWord 0xAC003004 0 = .ok (.barw 3) ∧ decodeWord 0xAC3030E5 0 = .ok (.bwaitt 6 3 7) ∧ decodeWord 0xB0286000 0 = .ok (.spawn 5 6) ∧
  decodeWord 0xB02860E1 0 = .ok (.qpush 5 6 7) ∧ decodeWord 0xB0388002 0 = .ok (.qpop 7 8) ∧ decodeWord 0xB048A005 0 = .ok (.drwait 9 10) ∧
  decodeWord 0xB4286000 0 = .ok (.tkreq 5 6) ∧ decodeWord 0xB42860E2 0 = .ok (.tklend 5 6 7) ∧ decodeWord 0xB4280003 0 = .ok (.tkqry 5) ∧
  decodeWord 0xF0000007 0 = .ok (.trap 7) ∧ decodeWord 0xF0000403 0 = .ok (.hcall 3) ∧ decodeWord 0xF0000800 0 = .ok .eret ∧
  decodeWord 0xF42860E0 0 = .ok (.ctxsv 5 6 7) ∧ decodeWord 0xF4286001 0 = .ok (.ctxld 5 6) ∧ decodeWord 0xF40060E2 0 = .ok (.tlbi 6 7) ∧
  decodeWord 0xF4286003 0 = .ok (.prd 5 6) ∧ decodeWord 0xF40060E4 0 = .ok (.pwr 6 7) ∧ decodeWord 0xF4006005 0 = .ok (.strip 6) ∧
  decodeWord 0xF40060E6 0 = .ok (.freeze 6 7) ∧ decodeWord 0xF40060E7 0 = .ok (.sevset 6 7)

/-- R58, R207, R252, R298: a step whose turn is an issue fetches the word at the context's PC, decodes it and runs the instruction in the state the fetch
leaves, an LDI with its second word, in a frame with its register fields raised; one that issued nothing leaves the cc to others; a step whose turn is
an event runs that event's row, and leaves no event behind, unless the message would cross a link out of use (R370). The fetch reads the four bytes at
the PC's physical address where nothing is cached, or asks their home for them (R188). Which turn comes next, and whether a cached word is still held,
are free (logs 5, 7); a slot without a Ready context stops as the model's own fault (log 57). -/
def Obligations.StepRunsDecodedInstruction : Prop :=
  (∀ (s s1 s2 s3 : State) (k sl : Nat) (w : Who) (c : Ctx) (v : BitVec 32) (i : Instr), s.turn? = (some (.issue k sl), s1) →
    s2 = s1.atIssue k sl → w = { core := k, slot := sl } → s2.ctx? w = some c → c.kind ≠ .message → c.heldTrap = none → s2.due? w c = none →
    c.resend = none → c.frameBad = false →
    (c.framing = false → s2.fetch w c c.pc = (s3, .word v) →
      (startsLdi v = false → decodeWord v.toNat 0 = .ok i → step s = issued s1 w (exec i { s3 with cur := w, ir := v })) ∧
      (∀ s4 v2, startsLdi v = true → s3.fetch w c (c.pc + 4) = (s4, .word v2) → decodeWord v.toNat v2.toNat = .ok i →
        step s = issued s1 w (exec i { s4 with cur := w, ir := v }))) ∧
    (c.framing = true → bits c.repst 41 38 ≠ 0 → s2.fetch w c c.pc = (s3, .word v) → startsLdi v = false → decodeWord v.toNat 0 = .ok i →
      Instr.overLimit i (bits c.repst 15 0) (bits c.repst 57 55) (bits c.repst 54 52) c.lim = false →
      step s = issued s1 w (exec (stepped c.repst i) { s3 with cur := w, ir := v })) ∧
    (∀ t : State, (∀ x, t.ctx? w = some x → x.spacing ≠ c.spacing ∨ x.run ≠ .ready) → issued s1 w (.next t) = .next t) ∧
    (∀ pa a, s2.xlate w c c.pc .execute = .ok pa → s2.cached w c c.pc = none → c.fetchEnd c.pc = none → c.fetching = none → s2.isLocalPa pa = true →
      s2.reachTrap w c pa = none → a = s2.fetchRequest w c c.pc pa →
      (s2.homeOf pa = k → s2.forwarded a = none → s2.fillsPage a = false → (s2.placeOf (lpaOf pa)).isCtl = false →
        s2.admits (s2.placeOf (lpaOf pa)) c.tag .execute (lpaOf pa) = true →
        (∀ h off, s2.placeOf (lpaOf pa) = .sram h off → s2.bytesWait h off (off + 4) = false) →
        s2.poisoned (wordAt (lpaOf pa)) = false → s2.corrupt.contains (wordAt (lpaOf pa)) = false →
        ∃ u, s2.fetch w c c.pc = (u, .word (BitVec.ofNat 32 (memRead s2.mem (lpaOf pa) 4)))) ∧
      (s2.homeOf pa ≠ k → ∃ u, s2.fetch w c c.pc = (u, .miss) ∧ u.pending = s2.pending ++ [a.event] ∧
        u.ctx? w = some { c with fetching := some a.id }))) ∧
  (∀ (s s1 u t : State) (e : Ev),
    (∀ n, s.turn? = (some (.pending n), s1) → s1.pending[n]? = some e → u = ({ s1 with pending := s1.pending.eraseIdx n } : State).noted e →
      (u.cutBy e = true → step s = .next (u.returned e)) ∧
      (u.cutBy e = false → exec e.row { u with ev := some e } = .next t → step s = .next { t with ev := none })) ∧
    (∀ r, s.turn? = (some .input, s1) → s1.inputs = e :: r → u = ({ s1 with inputs := r } : State).noted e →
      exec e.row { u with ev := some e } = .next t → step s = .next { t with ev := none }) ∧
    (s.turn? = (some (.standing e), s1) → u = s1.noted e → exec e.row { u with ev := some e } = .next t → step s = .next { t with ev := none }) ∧
    (∀ k, s.turn? = (some (.home k), s1) → step s = .next (s1.homeTakes k)) ∧
    (∀ r, s.turn? = (some (.tick r), s1) → step s = .next (s1.elapse r)))

/-- R190, R191: no step leaves memory out of its canonical form: addresses rise and no entry holds what an address that is not listed reads. The canonical
form, in which an address that is not listed reads 0, is the model's choice (log 2). -/
def Obligations.StepKeepsMemoryCanonical : Prop :=
  ∀ s t : State, Safe s → step s = .next t → Safe t

/-- R27, R191, R277, R327, R386: the machine at reset. No table is published, no slot but the message contexts' is occupied, nothing is under way, the
first entry of every access table admits mode F alone to everything; memory is canonical and lists nothing. The model's choice, not a rule's: an
address that nothing has written reads 0 (log 2). The generations that start at 0 (log 3) and the model's own fields (log 4) are its choice too. -/
def Obligations.ResetState : Prop :=
  Safe State.reset ∧ State.reset.mem = [] ∧ State.reset.pending = [] ∧ State.reset.inputs = [] ∧ State.reset.ev = none ∧ State.reset.published = false ∧
    (∀ w, State.reset.ctx? w = if w.slot = 63 then some Ctx.message else none) ∧ (∀ w, State.reset.gen w = 0) ∧
    (∀ a, State.reset.full a = true ∧ State.reset.poisoned a = false) ∧
    (∀ (p : Place) (part lpa : Nat) (m : Mode) (k : AccKind),
      State.reset.admits p { part := part, mode := m } k lpa = decide (m = .f)) ∧
    ∀ k, (State.reset.tok k).hold = 0 ∧ (State.reset.tok k).want = 0
end

