-- ==== Sys2Proof/Laws/Contexts.lean ====
section
/-! SUPPORT. Field by field, what each update of a context leaves alone. -/
namespace Sys2Proof.Machine

/-! setPred -/
@[simp] theorem setPred_kind (c : Ctx) (p : Nat) (b : Bool) : (c.setPred p b).kind = c.kind := by unfold Ctx.setPred; split <;> rfl
@[simp] theorem setPred_run (c : Ctx) (p : Nat) (b : Bool) : (c.setPred p b).run = c.run := by unfold Ctx.setPred; split <;> rfl
@[simp] theorem setPred_prv (c : Ctx) (p : Nat) (b : Bool) : (c.setPred p b).prv = c.prv := by unfold Ctx.setPred; split <;> rfl
@[simp] theorem setPred_mode (c : Ctx) (p : Nat) (b : Bool) : (c.setPred p b).mode = c.mode := by unfold Ctx.setPred; split <;> rfl
@[simp] theorem setPred_part (c : Ctx) (p : Nat) (b : Bool) : (c.setPred p b).part = c.part := by unfold Ctx.setPred; split <;> rfl
@[simp] theorem setPred_asid (c : Ctx) (p : Nat) (b : Bool) : (c.setPred p b).asid = c.asid := by unfold Ctx.setPred; split <;> rfl
@[simp] theorem setPred_base (c : Ctx) (p : Nat) (b : Bool) : (c.setPred p b).base = c.base := by unfold Ctx.setPred; split <;> rfl
@[simp] theorem setPred_lim (c : Ctx) (p : Nat) (b : Bool) : (c.setPred p b).lim = c.lim := by unfold Ctx.setPred; split <;> rfl
@[simp] theorem setPred_pc (c : Ctx) (p : Nat) (b : Bool) : (c.setPred p b).pc = c.pc := by unfold Ctx.setPred; split <;> rfl
@[simp] theorem setPred_prec (c : Ctx) (p : Nat) (b : Bool) : (c.setPred p b).prec = c.prec := by unfold Ctx.setPred; split <;> rfl
@[simp] theorem setPred_ecls (c : Ctx) (p : Nat) (b : Bool) : (c.setPred p b).ecls = c.ecls := by unfold Ctx.setPred; split <;> rfl
@[simp] theorem setPred_fmta (c : Ctx) (p : Nat) (b : Bool) : (c.setPred p b).fmta = c.fmta := by unfold Ctx.setPred; split <;> rfl
@[simp] theorem setPred_fmtb (c : Ctx) (p : Nat) (b : Bool) : (c.setPred p b).fmtb = c.fmtb := by unfold Ctx.setPred; split <;> rfl
@[simp] theorem setPred_wdog (c : Ctx) (p : Nat) (b : Bool) : (c.setPred p b).wdog = c.wdog := by unfold Ctx.setPred; split <;> rfl
@[simp] theorem setPred_thrc (c : Ctx) (p : Nat) (b : Bool) : (c.setPred p b).thrc = c.thrc := by unfold Ctx.setPred; split <;> rfl
@[simp] theorem setPred_trapen (c : Ctx) (p : Nat) (b : Bool) : (c.setPred p b).trapen = c.trapen := by unfold Ctx.setPred; split <;> rfl
@[simp] theorem setPred_cause (c : Ctx) (p : Nat) (b : Bool) : (c.setPred p b).cause = c.cause := by unfold Ctx.setPred; split <;> rfl
@[simp] theorem setPred_epc (c : Ctx) (p : Nat) (b : Bool) : (c.setPred p b).epc = c.epc := by unfold Ctx.setPred; split <;> rfl
@[simp] theorem setPred_tval (c : Ctx) (p : Nat) (b : Bool) : (c.setPred p b).tval = c.tval := by unfold Ctx.setPred; split <;> rfl
@[simp] theorem setPred_repst (c : Ctx) (p : Nat) (b : Bool) : (c.setPred p b).repst = c.repst := by unfold Ctx.setPred; split <;> rfl
@[simp] theorem setPred_grp (c : Ctx) (p : Nat) (b : Bool) : (c.setPred p b).grp = c.grp := by unfold Ctx.setPred; split <;> rfl
@[simp] theorem setPred_tsv (c : Ctx) (p : Nat) (b : Bool) : (c.setPred p b).tsv = c.tsv := by unfold Ctx.setPred; split <;> rfl
@[simp] theorem setPred_dref (c : Ctx) (p : Nat) (b : Bool) : (c.setPred p b).dref = c.dref := by unfold Ctx.setPred; split <;> rfl
@[simp] theorem setPred_ovix (c : Ctx) (p : Nat) (b : Bool) : (c.setPred p b).ovix = c.ovix := by unfold Ctx.setPred; split <;> rfl
@[simp] theorem setPred_out (c : Ctx) (p : Nat) (b : Bool) : (c.setPred p b).out = c.out := by unfold Ctx.setPred; split <;> rfl
@[simp] theorem setPred_cond (c : Ctx) (p : Nat) (b : Bool) : (c.setPred p b).cond = c.cond := by unfold Ctx.setPred; split <;> rfl
@[simp] theorem setPred_resend (c : Ctx) (p : Nat) (b : Bool) : (c.setPred p b).resend = c.resend := by unfold Ctx.setPred; split <;> rfl
@[simp] theorem setPred_pend (c : Ctx) (p : Nat) (b : Bool) : (c.setPred p b).pend = c.pend := by unfold Ctx.setPred; split <;> rfl
@[simp] theorem setPred_issuedW (c : Ctx) (p : Nat) (b : Bool) : (c.setPred p b).issuedW = c.issuedW := by unfold Ctx.setPred; split <;> rfl
@[simp] theorem setPred_performedW (c : Ctx) (p : Nat) (b : Bool) : (c.setPred p b).performedW = c.performedW := by unfold Ctx.setPred; split <;> rfl
@[simp] theorem setPred_nwrOut (c : Ctx) (p : Nat) (b : Bool) : (c.setPred p b).nwrOut = c.nwrOut := by unfold Ctx.setPred; split <;> rfl
@[simp] theorem setPred_sets (c : Ctx) (p : Nat) (b : Bool) : (c.setPred p b).sets = c.sets := by unfold Ctx.setPred; split <;> rfl
@[simp] theorem setPred_spacing (c : Ctx) (p : Nat) (b : Bool) : (c.setPred p b).spacing = c.spacing := by unfold Ctx.setPred; split <;> rfl
@[simp] theorem setPred_yielded (c : Ctx) (p : Nat) (b : Bool) : (c.setPred p b).yielded = c.yielded := by unfold Ctx.setPred; split <;> rfl
@[simp] theorem setPred_retired (c : Ctx) (p : Nat) (b : Bool) : (c.setPred p b).retired = c.retired := by unfold Ctx.setPred; split <;> rfl
@[simp] theorem setPred_role (c : Ctx) (p : Nat) (b : Bool) : (c.setPred p b).role = c.role := by unfold Ctx.setPred; split <;> rfl
@[simp] theorem setPred_lvq (c : Ctx) (p : Nat) (b : Bool) : (c.setPred p b).lvq = c.lvq := by unfold Ctx.setPred; split <;> rfl
@[simp] theorem setPred_walkFault (c : Ctx) (p : Nat) (b : Bool) : (c.setPred p b).walkFault = c.walkFault := by unfold Ctx.setPred; split <;> rfl
@[simp] theorem setPred_walkHit (c : Ctx) (p : Nat) (b : Bool) : (c.setPred p b).walkHit = c.walkHit := by unfold Ctx.setPred; split <;> rfl
@[simp] theorem setPred_walking (c : Ctx) (p : Nat) (b : Bool) : (c.setPred p b).walking = c.walking := by unfold Ctx.setPred; split <;> rfl
@[simp] theorem setPred_busy (c : Ctx) (p : Nat) (b : Bool) : (c.setPred p b).busy = c.busy := by unfold Ctx.setPred; split <;> rfl
@[simp] theorem setPred_flush (c : Ctx) (p : Nat) (b : Bool) : (c.setPred p b).flush = c.flush := by unfold Ctx.setPred; split <;> rfl
@[simp] theorem setPred_stall (c : Ctx) (p : Nat) (b : Bool) : (c.setPred p b).stall = c.stall := by unfold Ctx.setPred; split <;> rfl
@[simp] theorem setPred_frameBad (c : Ctx) (p : Nat) (b : Bool) : (c.setPred p b).frameBad = c.frameBad := by unfold Ctx.setPred; split <;> rfl
@[simp] theorem setPred_cancelling (c : Ctx) (p : Nat) (b : Bool) : (c.setPred p b).cancelling = c.cancelling := by unfold Ctx.setPred; split <;> rfl
@[simp] theorem setPred_hcall (c : Ctx) (p : Nat) (b : Bool) : (c.setPred p b).hcall = c.hcall := by unfold Ctx.setPred; split <;> rfl

/-! raise -/
@[simp] theorem raise_kind (c : Ctx) (f : BitVec 6) : (c.raise f).kind = c.kind := rfl
@[simp] theorem raise_run (c : Ctx) (f : BitVec 6) : (c.raise f).run = c.run := rfl
@[simp] theorem raise_prv (c : Ctx) (f : BitVec 6) : (c.raise f).prv = c.prv := rfl
@[simp] theorem raise_mode (c : Ctx) (f : BitVec 6) : (c.raise f).mode = c.mode := rfl
@[simp] theorem raise_part (c : Ctx) (f : BitVec 6) : (c.raise f).part = c.part := rfl
@[simp] theorem raise_asid (c : Ctx) (f : BitVec 6) : (c.raise f).asid = c.asid := rfl
@[simp] theorem raise_base (c : Ctx) (f : BitVec 6) : (c.raise f).base = c.base := rfl
@[simp] theorem raise_lim (c : Ctx) (f : BitVec 6) : (c.raise f).lim = c.lim := rfl
@[simp] theorem raise_pc (c : Ctx) (f : BitVec 6) : (c.raise f).pc = c.pc := rfl
@[simp] theorem raise_prec (c : Ctx) (f : BitVec 6) : (c.raise f).prec = c.prec := rfl
@[simp] theorem raise_ecls (c : Ctx) (f : BitVec 6) : (c.raise f).ecls = c.ecls := rfl
@[simp] theorem raise_fmta (c : Ctx) (f : BitVec 6) : (c.raise f).fmta = c.fmta := rfl
@[simp] theorem raise_fmtb (c : Ctx) (f : BitVec 6) : (c.raise f).fmtb = c.fmtb := rfl
@[simp] theorem raise_wdog (c : Ctx) (f : BitVec 6) : (c.raise f).wdog = c.wdog := rfl
@[simp] theorem raise_thrc (c : Ctx) (f : BitVec 6) : (c.raise f).thrc = c.thrc := rfl
@[simp] theorem raise_trapen (c : Ctx) (f : BitVec 6) : (c.raise f).trapen = c.trapen := rfl
@[simp] theorem raise_cause (c : Ctx) (f : BitVec 6) : (c.raise f).cause = c.cause := rfl
@[simp] theorem raise_epc (c : Ctx) (f : BitVec 6) : (c.raise f).epc = c.epc := rfl
@[simp] theorem raise_tval (c : Ctx) (f : BitVec 6) : (c.raise f).tval = c.tval := rfl
@[simp] theorem raise_repst (c : Ctx) (f : BitVec 6) : (c.raise f).repst = c.repst := rfl
@[simp] theorem raise_grp (c : Ctx) (f : BitVec 6) : (c.raise f).grp = c.grp := rfl
@[simp] theorem raise_tsv (c : Ctx) (f : BitVec 6) : (c.raise f).tsv = c.tsv := rfl
@[simp] theorem raise_dref (c : Ctx) (f : BitVec 6) : (c.raise f).dref = c.dref := rfl
@[simp] theorem raise_ovix (c : Ctx) (f : BitVec 6) : (c.raise f).ovix = c.ovix := rfl
@[simp] theorem raise_out (c : Ctx) (f : BitVec 6) : (c.raise f).out = c.out := rfl
@[simp] theorem raise_cond (c : Ctx) (f : BitVec 6) : (c.raise f).cond = c.cond := rfl
@[simp] theorem raise_resend (c : Ctx) (f : BitVec 6) : (c.raise f).resend = c.resend := rfl
@[simp] theorem raise_pend (c : Ctx) (f : BitVec 6) : (c.raise f).pend = c.pend := rfl
@[simp] theorem raise_issuedW (c : Ctx) (f : BitVec 6) : (c.raise f).issuedW = c.issuedW := rfl
@[simp] theorem raise_performedW (c : Ctx) (f : BitVec 6) : (c.raise f).performedW = c.performedW := rfl
@[simp] theorem raise_nwrOut (c : Ctx) (f : BitVec 6) : (c.raise f).nwrOut = c.nwrOut := rfl
@[simp] theorem raise_sets (c : Ctx) (f : BitVec 6) : (c.raise f).sets = c.sets := rfl
@[simp] theorem raise_spacing (c : Ctx) (f : BitVec 6) : (c.raise f).spacing = c.spacing := rfl
@[simp] theorem raise_yielded (c : Ctx) (f : BitVec 6) : (c.raise f).yielded = c.yielded := rfl
@[simp] theorem raise_retired (c : Ctx) (f : BitVec 6) : (c.raise f).retired = c.retired := rfl
@[simp] theorem raise_role (c : Ctx) (f : BitVec 6) : (c.raise f).role = c.role := rfl
@[simp] theorem raise_lvq (c : Ctx) (f : BitVec 6) : (c.raise f).lvq = c.lvq := rfl
@[simp] theorem raise_walkFault (c : Ctx) (f : BitVec 6) : (c.raise f).walkFault = c.walkFault := rfl
@[simp] theorem raise_walkHit (c : Ctx) (f : BitVec 6) : (c.raise f).walkHit = c.walkHit := rfl
@[simp] theorem raise_walking (c : Ctx) (f : BitVec 6) : (c.raise f).walking = c.walking := rfl
@[simp] theorem raise_busy (c : Ctx) (f : BitVec 6) : (c.raise f).busy = c.busy := rfl
@[simp] theorem raise_flush (c : Ctx) (f : BitVec 6) : (c.raise f).flush = c.flush := rfl
@[simp] theorem raise_stall (c : Ctx) (f : BitVec 6) : (c.raise f).stall = c.stall := rfl
@[simp] theorem raise_frameBad (c : Ctx) (f : BitVec 6) : (c.raise f).frameBad = c.frameBad := rfl
@[simp] theorem raise_cancelling (c : Ctx) (f : BitVec 6) : (c.raise f).cancelling = c.cancelling := rfl
@[simp] theorem raise_hcall (c : Ctx) (f : BitVec 6) : (c.raise f).hcall = c.hcall := rfl

/-! add -/
@[simp] theorem add_kind (c : Ctx) (o : OutOp) : (c.add o).kind = c.kind := rfl
@[simp] theorem add_run (c : Ctx) (o : OutOp) : (c.add o).run = c.run := rfl
@[simp] theorem add_prv (c : Ctx) (o : OutOp) : (c.add o).prv = c.prv := rfl
@[simp] theorem add_mode (c : Ctx) (o : OutOp) : (c.add o).mode = c.mode := rfl
@[simp] theorem add_part (c : Ctx) (o : OutOp) : (c.add o).part = c.part := rfl
@[simp] theorem add_asid (c : Ctx) (o : OutOp) : (c.add o).asid = c.asid := rfl
@[simp] theorem add_base (c : Ctx) (o : OutOp) : (c.add o).base = c.base := rfl
@[simp] theorem add_lim (c : Ctx) (o : OutOp) : (c.add o).lim = c.lim := rfl
@[simp] theorem add_pc (c : Ctx) (o : OutOp) : (c.add o).pc = c.pc := rfl
@[simp] theorem add_pw (c : Ctx) (o : OutOp) : (c.add o).pw = c.pw := rfl
@[simp] theorem add_prec (c : Ctx) (o : OutOp) : (c.add o).prec = c.prec := rfl
@[simp] theorem add_ecls (c : Ctx) (o : OutOp) : (c.add o).ecls = c.ecls := rfl
@[simp] theorem add_fmta (c : Ctx) (o : OutOp) : (c.add o).fmta = c.fmta := rfl
@[simp] theorem add_fmtb (c : Ctx) (o : OutOp) : (c.add o).fmtb = c.fmtb := rfl
@[simp] theorem add_wdog (c : Ctx) (o : OutOp) : (c.add o).wdog = c.wdog := rfl
@[simp] theorem add_thrc (c : Ctx) (o : OutOp) : (c.add o).thrc = c.thrc := rfl
@[simp] theorem add_trapen (c : Ctx) (o : OutOp) : (c.add o).trapen = c.trapen := rfl
@[simp] theorem add_cause (c : Ctx) (o : OutOp) : (c.add o).cause = c.cause := rfl
@[simp] theorem add_epc (c : Ctx) (o : OutOp) : (c.add o).epc = c.epc := rfl
@[simp] theorem add_tval (c : Ctx) (o : OutOp) : (c.add o).tval = c.tval := rfl
@[simp] theorem add_repst (c : Ctx) (o : OutOp) : (c.add o).repst = c.repst := rfl
@[simp] theorem add_grp (c : Ctx) (o : OutOp) : (c.add o).grp = c.grp := rfl
@[simp] theorem add_tsv (c : Ctx) (o : OutOp) : (c.add o).tsv = c.tsv := rfl
@[simp] theorem add_dref (c : Ctx) (o : OutOp) : (c.add o).dref = c.dref := rfl
@[simp] theorem add_ovix (c : Ctx) (o : OutOp) : (c.add o).ovix = c.ovix := rfl
@[simp] theorem add_cond (c : Ctx) (o : OutOp) : (c.add o).cond = c.cond := rfl
@[simp] theorem add_resend (c : Ctx) (o : OutOp) : (c.add o).resend = c.resend := rfl
@[simp] theorem add_pend (c : Ctx) (o : OutOp) : (c.add o).pend = c.pend := rfl
@[simp] theorem add_issuedW (c : Ctx) (o : OutOp) : (c.add o).issuedW = c.issuedW := rfl
@[simp] theorem add_performedW (c : Ctx) (o : OutOp) : (c.add o).performedW = c.performedW := rfl
@[simp] theorem add_nwrOut (c : Ctx) (o : OutOp) : (c.add o).nwrOut = c.nwrOut := rfl
@[simp] theorem add_sets (c : Ctx) (o : OutOp) : (c.add o).sets = c.sets := rfl
@[simp] theorem add_spacing (c : Ctx) (o : OutOp) : (c.add o).spacing = c.spacing := rfl
@[simp] theorem add_yielded (c : Ctx) (o : OutOp) : (c.add o).yielded = c.yielded := rfl
@[simp] theorem add_retired (c : Ctx) (o : OutOp) : (c.add o).retired = c.retired := rfl
@[simp] theorem add_role (c : Ctx) (o : OutOp) : (c.add o).role = c.role := rfl
@[simp] theorem add_lvq (c : Ctx) (o : OutOp) : (c.add o).lvq = c.lvq := rfl
@[simp] theorem add_walkFault (c : Ctx) (o : OutOp) : (c.add o).walkFault = c.walkFault := rfl
@[simp] theorem add_walkHit (c : Ctx) (o : OutOp) : (c.add o).walkHit = c.walkHit := rfl
@[simp] theorem add_walking (c : Ctx) (o : OutOp) : (c.add o).walking = c.walking := rfl
@[simp] theorem add_busy (c : Ctx) (o : OutOp) : (c.add o).busy = c.busy := rfl
@[simp] theorem add_flush (c : Ctx) (o : OutOp) : (c.add o).flush = c.flush := rfl
@[simp] theorem add_stall (c : Ctx) (o : OutOp) : (c.add o).stall = c.stall := rfl
@[simp] theorem add_frameBad (c : Ctx) (o : OutOp) : (c.add o).frameBad = c.frameBad := rfl
@[simp] theorem add_cancelling (c : Ctx) (o : OutOp) : (c.add o).cancelling = c.cancelling := rfl
@[simp] theorem add_hcall (c : Ctx) (o : OutOp) : (c.add o).hcall = c.hcall := rfl

/-! done -/
@[simp] theorem done_kind (c : Ctx) (n : Nat) : (c.done n).kind = c.kind := rfl
@[simp] theorem done_run (c : Ctx) (n : Nat) : (c.done n).run = c.run := rfl
@[simp] theorem done_prv (c : Ctx) (n : Nat) : (c.done n).prv = c.prv := rfl
@[simp] theorem done_mode (c : Ctx) (n : Nat) : (c.done n).mode = c.mode := rfl
@[simp] theorem done_part (c : Ctx) (n : Nat) : (c.done n).part = c.part := rfl
@[simp] theorem done_asid (c : Ctx) (n : Nat) : (c.done n).asid = c.asid := rfl
@[simp] theorem done_base (c : Ctx) (n : Nat) : (c.done n).base = c.base := rfl
@[simp] theorem done_lim (c : Ctx) (n : Nat) : (c.done n).lim = c.lim := rfl
@[simp] theorem done_pc (c : Ctx) (n : Nat) : (c.done n).pc = c.pc := rfl
@[simp] theorem done_pw (c : Ctx) (n : Nat) : (c.done n).pw = c.pw := rfl
@[simp] theorem done_prec (c : Ctx) (n : Nat) : (c.done n).prec = c.prec := rfl
@[simp] theorem done_ecls (c : Ctx) (n : Nat) : (c.done n).ecls = c.ecls := rfl
@[simp] theorem done_fmta (c : Ctx) (n : Nat) : (c.done n).fmta = c.fmta := rfl
@[simp] theorem done_fmtb (c : Ctx) (n : Nat) : (c.done n).fmtb = c.fmtb := rfl
@[simp] theorem done_wdog (c : Ctx) (n : Nat) : (c.done n).wdog = c.wdog := rfl
@[simp] theorem done_thrc (c : Ctx) (n : Nat) : (c.done n).thrc = c.thrc := rfl
@[simp] theorem done_trapen (c : Ctx) (n : Nat) : (c.done n).trapen = c.trapen := rfl
@[simp] theorem done_cause (c : Ctx) (n : Nat) : (c.done n).cause = c.cause := rfl
@[simp] theorem done_epc (c : Ctx) (n : Nat) : (c.done n).epc = c.epc := rfl
@[simp] theorem done_tval (c : Ctx) (n : Nat) : (c.done n).tval = c.tval := rfl
@[simp] theorem done_repst (c : Ctx) (n : Nat) : (c.done n).repst = c.repst := rfl
@[simp] theorem done_grp (c : Ctx) (n : Nat) : (c.done n).grp = c.grp := rfl
@[simp] theorem done_tsv (c : Ctx) (n : Nat) : (c.done n).tsv = c.tsv := rfl
@[simp] theorem done_dref (c : Ctx) (n : Nat) : (c.done n).dref = c.dref := rfl
@[simp] theorem done_ovix (c : Ctx) (n : Nat) : (c.done n).ovix = c.ovix := rfl
@[simp] theorem done_cond (c : Ctx) (n : Nat) : (c.done n).cond = c.cond := rfl
@[simp] theorem done_resend (c : Ctx) (n : Nat) : (c.done n).resend = c.resend := rfl
@[simp] theorem done_pend (c : Ctx) (n : Nat) : (c.done n).pend = c.pend := rfl
@[simp] theorem done_issuedW (c : Ctx) (n : Nat) : (c.done n).issuedW = c.issuedW := rfl
@[simp] theorem done_performedW (c : Ctx) (n : Nat) : (c.done n).performedW = c.performedW := rfl
@[simp] theorem done_nwrOut (c : Ctx) (n : Nat) : (c.done n).nwrOut = c.nwrOut := rfl
@[simp] theorem done_sets (c : Ctx) (n : Nat) : (c.done n).sets = c.sets := rfl
@[simp] theorem done_spacing (c : Ctx) (n : Nat) : (c.done n).spacing = c.spacing := rfl
@[simp] theorem done_yielded (c : Ctx) (n : Nat) : (c.done n).yielded = c.yielded := rfl
@[simp] theorem done_retired (c : Ctx) (n : Nat) : (c.done n).retired = c.retired := rfl
@[simp] theorem done_role (c : Ctx) (n : Nat) : (c.done n).role = c.role := rfl
@[simp] theorem done_lvq (c : Ctx) (n : Nat) : (c.done n).lvq = c.lvq := rfl
@[simp] theorem done_walkFault (c : Ctx) (n : Nat) : (c.done n).walkFault = c.walkFault := rfl
@[simp] theorem done_walkHit (c : Ctx) (n : Nat) : (c.done n).walkHit = c.walkHit := rfl
@[simp] theorem done_walking (c : Ctx) (n : Nat) : (c.done n).walking = c.walking := rfl
@[simp] theorem done_busy (c : Ctx) (n : Nat) : (c.done n).busy = c.busy := rfl
@[simp] theorem done_flush (c : Ctx) (n : Nat) : (c.done n).flush = c.flush := rfl
@[simp] theorem done_stall (c : Ctx) (n : Nat) : (c.done n).stall = c.stall := rfl
@[simp] theorem done_frameBad (c : Ctx) (n : Nat) : (c.done n).frameBad = c.frameBad := rfl
@[simp] theorem done_cancelling (c : Ctx) (n : Nat) : (c.done n).cancelling = c.cancelling := rfl
@[simp] theorem done_hcall (c : Ctx) (n : Nat) : (c.done n).hcall = c.hcall := rfl

/-! stepDue -/
@[simp] theorem stepDue_kind (a c : Ctx) : (stepDue a c).kind = c.kind := by unfold stepDue; split <;> rfl
@[simp] theorem stepDue_run (a c : Ctx) : (stepDue a c).run = c.run := by unfold stepDue; split <;> rfl
@[simp] theorem stepDue_prv (a c : Ctx) : (stepDue a c).prv = c.prv := by unfold stepDue; split <;> rfl
@[simp] theorem stepDue_mode (a c : Ctx) : (stepDue a c).mode = c.mode := by unfold stepDue; split <;> rfl
@[simp] theorem stepDue_part (a c : Ctx) : (stepDue a c).part = c.part := by unfold stepDue; split <;> rfl
@[simp] theorem stepDue_asid (a c : Ctx) : (stepDue a c).asid = c.asid := by unfold stepDue; split <;> rfl
@[simp] theorem stepDue_base (a c : Ctx) : (stepDue a c).base = c.base := by unfold stepDue; split <;> rfl
@[simp] theorem stepDue_lim (a c : Ctx) : (stepDue a c).lim = c.lim := by unfold stepDue; split <;> rfl
@[simp] theorem stepDue_pc (a c : Ctx) : (stepDue a c).pc = c.pc := by unfold stepDue; split <;> rfl
@[simp] theorem stepDue_pw (a c : Ctx) : (stepDue a c).pw = c.pw := by unfold stepDue; split <;> rfl
@[simp] theorem stepDue_prec (a c : Ctx) : (stepDue a c).prec = c.prec := by unfold stepDue; split <;> rfl
@[simp] theorem stepDue_ecls (a c : Ctx) : (stepDue a c).ecls = c.ecls := by unfold stepDue; split <;> rfl
@[simp] theorem stepDue_fmta (a c : Ctx) : (stepDue a c).fmta = c.fmta := by unfold stepDue; split <;> rfl
@[simp] theorem stepDue_fmtb (a c : Ctx) : (stepDue a c).fmtb = c.fmtb := by unfold stepDue; split <;> rfl
@[simp] theorem stepDue_wdog (a c : Ctx) : (stepDue a c).wdog = c.wdog := by unfold stepDue; split <;> rfl
@[simp] theorem stepDue_thrc (a c : Ctx) : (stepDue a c).thrc = c.thrc := by unfold stepDue; split <;> rfl
@[simp] theorem stepDue_trapen (a c : Ctx) : (stepDue a c).trapen = c.trapen := by unfold stepDue; split <;> rfl
@[simp] theorem stepDue_cause (a c : Ctx) : (stepDue a c).cause = c.cause := by unfold stepDue; split <;> rfl
@[simp] theorem stepDue_epc (a c : Ctx) : (stepDue a c).epc = c.epc := by unfold stepDue; split <;> rfl
@[simp] theorem stepDue_tval (a c : Ctx) : (stepDue a c).tval = c.tval := by unfold stepDue; split <;> rfl
@[simp] theorem stepDue_repst (a c : Ctx) : (stepDue a c).repst = c.repst := by unfold stepDue; split <;> rfl
@[simp] theorem stepDue_grp (a c : Ctx) : (stepDue a c).grp = c.grp := by unfold stepDue; split <;> rfl
@[simp] theorem stepDue_tsv (a c : Ctx) : (stepDue a c).tsv = c.tsv := by unfold stepDue; split <;> rfl
@[simp] theorem stepDue_dref (a c : Ctx) : (stepDue a c).dref = c.dref := by unfold stepDue; split <;> rfl
@[simp] theorem stepDue_ovix (a c : Ctx) : (stepDue a c).ovix = c.ovix := by unfold stepDue; split <;> rfl
@[simp] theorem stepDue_out (a c : Ctx) : (stepDue a c).out = c.out := by unfold stepDue; split <;> rfl
@[simp] theorem stepDue_cond (a c : Ctx) : (stepDue a c).cond = c.cond := by unfold stepDue; split <;> rfl
@[simp] theorem stepDue_resend (a c : Ctx) : (stepDue a c).resend = c.resend := by unfold stepDue; split <;> rfl
@[simp] theorem stepDue_issuedW (a c : Ctx) : (stepDue a c).issuedW = c.issuedW := by unfold stepDue; split <;> rfl
@[simp] theorem stepDue_performedW (a c : Ctx) : (stepDue a c).performedW = c.performedW := by unfold stepDue; split <;> rfl
@[simp] theorem stepDue_nwrOut (a c : Ctx) : (stepDue a c).nwrOut = c.nwrOut := by unfold stepDue; split <;> rfl
@[simp] theorem stepDue_sets (a c : Ctx) : (stepDue a c).sets = c.sets := by unfold stepDue; split <;> rfl
@[simp] theorem stepDue_spacing (a c : Ctx) : (stepDue a c).spacing = c.spacing := by unfold stepDue; split <;> rfl
@[simp] theorem stepDue_yielded (a c : Ctx) : (stepDue a c).yielded = c.yielded := by unfold stepDue; split <;> rfl
@[simp] theorem stepDue_retired (a c : Ctx) : (stepDue a c).retired = c.retired := by unfold stepDue; split <;> rfl
@[simp] theorem stepDue_role (a c : Ctx) : (stepDue a c).role = c.role := by unfold stepDue; split <;> rfl
@[simp] theorem stepDue_lvq (a c : Ctx) : (stepDue a c).lvq = c.lvq := by unfold stepDue; split <;> rfl
@[simp] theorem stepDue_walkFault (a c : Ctx) : (stepDue a c).walkFault = c.walkFault := by unfold stepDue; split <;> rfl
@[simp] theorem stepDue_walkHit (a c : Ctx) : (stepDue a c).walkHit = c.walkHit := by unfold stepDue; split <;> rfl
@[simp] theorem stepDue_walking (a c : Ctx) : (stepDue a c).walking = c.walking := by unfold stepDue; split <;> rfl
@[simp] theorem stepDue_busy (a c : Ctx) : (stepDue a c).busy = c.busy := by unfold stepDue; split <;> rfl
@[simp] theorem stepDue_flush (a c : Ctx) : (stepDue a c).flush = c.flush := by unfold stepDue; split <;> rfl
@[simp] theorem stepDue_stall (a c : Ctx) : (stepDue a c).stall = c.stall := by unfold stepDue; split <;> rfl
@[simp] theorem stepDue_frameBad (a c : Ctx) : (stepDue a c).frameBad = c.frameBad := by unfold stepDue; split <;> rfl
@[simp] theorem stepDue_cancelling (a c : Ctx) : (stepDue a c).cancelling = c.cancelling := by unfold stepDue; split <;> rfl
@[simp] theorem stepDue_hcall (a c : Ctx) : (stepDue a c).hcall = c.hcall := by unfold stepDue; split <;> rfl

/-! finished -/
@[simp] theorem finished_kind (c : Ctx) (t n k : Nat) : (c.finished t n k).kind = c.kind := stepDue_kind _ _
@[simp] theorem finished_run (c : Ctx) (t n k : Nat) : (c.finished t n k).run = c.run := stepDue_run _ _
@[simp] theorem finished_prv (c : Ctx) (t n k : Nat) : (c.finished t n k).prv = c.prv := stepDue_prv _ _
@[simp] theorem finished_mode (c : Ctx) (t n k : Nat) : (c.finished t n k).mode = c.mode := stepDue_mode _ _
@[simp] theorem finished_part (c : Ctx) (t n k : Nat) : (c.finished t n k).part = c.part := stepDue_part _ _
@[simp] theorem finished_asid (c : Ctx) (t n k : Nat) : (c.finished t n k).asid = c.asid := stepDue_asid _ _
@[simp] theorem finished_base (c : Ctx) (t n k : Nat) : (c.finished t n k).base = c.base := stepDue_base _ _
@[simp] theorem finished_lim (c : Ctx) (t n k : Nat) : (c.finished t n k).lim = c.lim := stepDue_lim _ _
@[simp] theorem finished_pw (c : Ctx) (t n k : Nat) : (c.finished t n k).pw = c.pw := stepDue_pw _ _
@[simp] theorem finished_prec (c : Ctx) (t n k : Nat) : (c.finished t n k).prec = c.prec := stepDue_prec _ _
@[simp] theorem finished_ecls (c : Ctx) (t n k : Nat) : (c.finished t n k).ecls = c.ecls := stepDue_ecls _ _
@[simp] theorem finished_fmta (c : Ctx) (t n k : Nat) : (c.finished t n k).fmta = c.fmta := stepDue_fmta _ _
@[simp] theorem finished_fmtb (c : Ctx) (t n k : Nat) : (c.finished t n k).fmtb = c.fmtb := stepDue_fmtb _ _
@[simp] theorem finished_wdog (c : Ctx) (t n k : Nat) : (c.finished t n k).wdog = c.wdog := stepDue_wdog _ _
@[simp] theorem finished_thrc (c : Ctx) (t n k : Nat) : (c.finished t n k).thrc = c.thrc := stepDue_thrc _ _
@[simp] theorem finished_trapen (c : Ctx) (t n k : Nat) : (c.finished t n k).trapen = c.trapen := stepDue_trapen _ _
@[simp] theorem finished_cause (c : Ctx) (t n k : Nat) : (c.finished t n k).cause = c.cause := stepDue_cause _ _
@[simp] theorem finished_epc (c : Ctx) (t n k : Nat) : (c.finished t n k).epc = c.epc := stepDue_epc _ _
@[simp] theorem finished_tval (c : Ctx) (t n k : Nat) : (c.finished t n k).tval = c.tval := stepDue_tval _ _
@[simp] theorem finished_grp (c : Ctx) (t n k : Nat) : (c.finished t n k).grp = c.grp := stepDue_grp _ _
@[simp] theorem finished_tsv (c : Ctx) (t n k : Nat) : (c.finished t n k).tsv = c.tsv := stepDue_tsv _ _
@[simp] theorem finished_dref (c : Ctx) (t n k : Nat) : (c.finished t n k).dref = c.dref := stepDue_dref _ _
@[simp] theorem finished_ovix (c : Ctx) (t n k : Nat) : (c.finished t n k).ovix = c.ovix := stepDue_ovix _ _
@[simp] theorem finished_out (c : Ctx) (t n k : Nat) : (c.finished t n k).out = c.out := stepDue_out _ _
@[simp] theorem finished_cond (c : Ctx) (t n k : Nat) : (c.finished t n k).cond = c.cond := stepDue_cond _ _
@[simp] theorem finished_resend (c : Ctx) (t n k : Nat) : (c.finished t n k).resend = c.resend := stepDue_resend _ _
@[simp] theorem finished_issuedW (c : Ctx) (t n k : Nat) : (c.finished t n k).issuedW = c.issuedW := stepDue_issuedW _ _
@[simp] theorem finished_performedW (c : Ctx) (t n k : Nat) : (c.finished t n k).performedW = c.performedW := stepDue_performedW _ _
@[simp] theorem finished_nwrOut (c : Ctx) (t n k : Nat) : (c.finished t n k).nwrOut = c.nwrOut := stepDue_nwrOut _ _
@[simp] theorem finished_sets (c : Ctx) (t n k : Nat) : (c.finished t n k).sets = c.sets := stepDue_sets _ _
@[simp] theorem finished_role (c : Ctx) (t n k : Nat) : (c.finished t n k).role = c.role := stepDue_role _ _
@[simp] theorem finished_lvq (c : Ctx) (t n k : Nat) : (c.finished t n k).lvq = c.lvq := stepDue_lvq _ _
@[simp] theorem finished_walking (c : Ctx) (t n k : Nat) : (c.finished t n k).walking = c.walking := stepDue_walking _ _
@[simp] theorem finished_busy (c : Ctx) (t n k : Nat) : (c.finished t n k).busy = c.busy := stepDue_busy _ _
@[simp] theorem finished_flush (c : Ctx) (t n k : Nat) : (c.finished t n k).flush = c.flush := stepDue_flush _ _
@[simp] theorem finished_frameBad (c : Ctx) (t n k : Nat) : (c.finished t n k).frameBad = c.frameBad := stepDue_frameBad _ _
@[simp] theorem finished_cancelling (c : Ctx) (t n k : Nat) : (c.finished t n k).cancelling = c.cancelling := stepDue_cancelling _ _
@[simp] theorem finished_hcall (c : Ctx) (t n k : Nat) : (c.finished t n k).hcall = c.hcall := stepDue_hcall _ _
@[simp] theorem finished_retired (c : Ctx) (t n k : Nat) : (c.finished t n k).retired = c.retired + 1 := stepDue_retired _ _
@[simp] theorem finished_spacing (c : Ctx) (t n k : Nat) : (c.finished t n k).spacing = t + k := stepDue_spacing _ _
theorem finished_pc (c : Ctx) (t n k : Nat) :
    (c.finished t n k).pc = if c.framing then (nextInFrame c n).1 else c.pc + BitVec.ofNat 64 (4 * n) := by
  refine (stepDue_pc _ _).trans ?_
  dsimp only
  split <;> rfl
theorem finished_repst (c : Ctx) (t n k : Nat) :
    (c.finished t n k).repst = if c.framing then (nextInFrame c n).2 else c.repst := by
  refine (stepDue_repst _ _).trans ?_
  dsimp only
  split <;> rfl

end Sys2Proof.Machine
end

