-- ==== Sys2Proof/Laws/Maps.lean ====
section
/-! SUPPORT. Laws of keyed data and of rising lists: reading after writing, in every list, and the canonical form that writing keeps. -/
namespace Sys2Proof.Machine

variable {α : Type}

@[simp] theorem mget_mput_self (k : Nat) (v : α) (m : Map α) : mget (mput k v m) k = some v := by
  induction m with
  | nil => simp [mput, mget]
  | cons p r ih => simp only [mput]; (repeat' split) <;> simp_all [mget]

theorem mget_mput_ne {j k : Nat} (h : j ≠ k) (v : α) (m : Map α) : mget (mput k v m) j = mget m j := by
  induction m with
  | nil => simp [mput, mget, h]
  | cons p r ih => simp only [mput]; (repeat' split) <;> simp_all [mget]

@[simp] theorem mget_mdel_self (k : Nat) (m : Map α) : mget (mdel k m) k = none := by
  induction m with
  | nil => rfl
  | cons p r ih => simp only [mdel]; split <;> simp_all [mget]

theorem mget_mdel_ne {j k : Nat} (h : j ≠ k) (m : Map α) : mget (mdel k m) j = mget m j := by
  induction m with
  | nil => rfl
  | cons p r ih => simp only [mdel]; split <;> simp_all [mget]

/-- What a key reads as after a write where an absent key stands for `d`. -/
theorem getD_mget_mset [DecidableEq α] (d : α) (j k : Nat) (v : α) (m : Map α) :
    (mget (mset d k v m) j).getD d = if j = k then v else (mget m j).getD d := by
  unfold mset
  split <;> rename_i hv <;> by_cases h : j = k <;> simp [h, hv, mget_mput_ne, mget_mdel_ne]

theorem getD_mget_mset_ne [DecidableEq α] (d e : α) {j k : Nat} (h : j ≠ k) (v : α) (m : Map α) :
    (mget (mset d k v m) j).getD e = (mget m j).getD e := by
  unfold mset
  split <;> simp [h, mget_mput_ne, mget_mdel_ne]

/-- A lower bound of every key. -/
def mfloor (n : Nat) (m : Map α) : Prop := ∀ p ∈ m, n < p.1

theorem mrising_cons {p : Nat × α} {m : Map α} : mrising (p :: m) = true ↔ mfloor p.1 m ∧ mrising m = true := by
  induction m generalizing p with
  | nil => simp [mrising, mfloor]
  | cons q r ih =>
    simp only [mrising, Bool.and_eq_true, decide_eq_true_eq]
    constructor
    · rintro ⟨h, hr⟩
      refine ⟨?_, hr⟩
      intro x hx
      rcases List.mem_cons.1 hx with rfl | hx
      · exact h
      · exact Nat.lt_trans h ((ih.1 hr).1 x hx)
    · rintro ⟨h, hr⟩
      exact ⟨h q List.mem_cons_self, hr⟩

theorem mem_mput {k : Nat} {v : α} {m : Map α} {p : Nat × α} (h : p ∈ mput k v m) : p = (k, v) ∨ p ∈ m := by
  induction m with
  | nil => simpa [mput] using h
  | cons q r ih =>
    simp only [mput] at h
    split at h
    · simpa using h
    · split at h
      · rcases List.mem_cons.1 h with h | h <;> simp [h]
      · rcases List.mem_cons.1 h with h | h
        · simp [h]
        · rcases ih h with h | h <;> simp [h]

theorem mem_mdel {k : Nat} {m : Map α} {p : Nat × α} (h : p ∈ mdel k m) : p ∈ m ∧ p.1 ≠ k := by
  induction m with
  | nil => simp [mdel] at h
  | cons q r ih =>
    simp only [mdel] at h
    split at h
    · exact ⟨List.mem_cons_of_mem _ (ih h).1, (ih h).2⟩
    · rename_i hk
      rcases List.mem_cons.1 h with h | h
      · subst h; exact ⟨List.mem_cons_self, fun e => hk e.symm⟩
      · exact ⟨List.mem_cons_of_mem _ (ih h).1, (ih h).2⟩

theorem mrising_mput {k : Nat} {v : α} {m : Map α} (h : mrising m = true) : mrising (mput k v m) = true := by
  induction m with
  | nil => rfl
  | cons q r ih =>
    have hq := mrising_cons.1 h
    simp only [mput]
    split
    · exact mrising_cons.2 ⟨fun p hp => by
        rcases List.mem_cons.1 hp with rfl | hp
        · assumption
        · exact Nat.lt_trans ‹_› (hq.1 p hp), h⟩
    · split
      · rename_i hk; subst hk; exact mrising_cons.2 hq
      · refine mrising_cons.2 ⟨fun p hp => ?_, ih hq.2⟩
        rcases mem_mput hp with rfl | hp
        · simp only; omega
        · exact hq.1 p hp

theorem mrising_mdel {k : Nat} {m : Map α} (h : mrising m = true) : mrising (mdel k m) = true := by
  induction m with
  | nil => rfl
  | cons q r ih =>
    have hq := mrising_cons.1 h
    simp only [mdel]
    split
    · exact ih hq.2
    · exact mrising_cons.2 ⟨fun p hp => hq.1 p (mem_mdel hp).1, ih hq.2⟩

theorem mrising_filter {f : Nat × α → Bool} {m : Map α} (h : mrising m = true) : mrising (m.filter f) = true := by
  induction m with
  | nil => rfl
  | cons q r ih =>
    have hq := mrising_cons.1 h
    rw [List.filter_cons]
    split
    · exact mrising_cons.2 ⟨fun p hp => hq.1 p (List.mem_filter.1 hp).1, ih hq.2⟩
    · exact ih hq.2

theorem mem_sadd {j k : Nat} {l : List Nat} : j ∈ sadd k l ↔ j = k ∨ j ∈ l := by
  induction l with
  | nil => simp [sadd]
  | cons x r ih => simp only [sadd]; (repeat' split) <;> grind

theorem mem_sdel {j k : Nat} {l : List Nat} : j ∈ sdel k l ↔ j ≠ k ∧ j ∈ l := by
  induction l with
  | nil => simp [sdel]
  | cons x r ih => simp only [sdel]; split <;> grind

/-- Membership after a put or a removal. -/
theorem mem_sset {j k : Nat} {on : Bool} {l : List Nat} : j ∈ sset k on l ↔ if j = k then on = true else j ∈ l := by
  unfold sset
  cases on <;> by_cases h : j = k <;> simp [h, mem_sadd, mem_sdel]

end Sys2Proof.Machine
end

