-- ==== Sys2Proof/Laws/Memory.lean ====
section
/-! SUPPORT. Memory: what each operation on its list of bytes leaves at an address, and that each keeps the canonical form. -/
namespace Sys2Proof.Machine

theorem memWf_iff (m : List Host.Cell) : memWf m = true ↔ mrising m = true ∧ ∀ p ∈ m, p.2 ≠ 0 := by
  simp [memWf]

/-! The canonical form is kept. -/

theorem memWf_nil : memWf [] = true := rfl

theorem memWf_memPut {m : List Host.Cell} (h : memWf m = true) (a : Nat) (b : Byte) : memWf (memPut m a b) = true := by
  rw [memWf_iff] at *
  unfold memPut mset
  split
  · exact ⟨mrising_mdel h.1, fun p hp => h.2 p (mem_mdel hp).1⟩
  · rename_i hb
    refine ⟨mrising_mput h.1, fun p hp => ?_⟩
    rcases mem_mput hp with rfl | hp
    · exact hb
    · exact h.2 p hp

theorem memWf_memWrite {m : List Host.Cell} (h : memWf m = true) (a n v : Nat) : memWf (memWrite m a n v) = true := by
  induction n generalizing m a v with
  | zero => exact h
  | succ n ih => exact ih (memWf_memPut h _ _) _ _

theorem memWf_memWords {m : List Host.Cell} (h : memWf m = true) (a : Nat) (l : List Word) : memWf (memWords m a l) = true := by
  induction l generalizing m a with
  | nil => exact h
  | cons w l ih => exact ih (memWf_memWrite h _ _ _) _

theorem memWf_filter {m : List Host.Cell} (h : memWf m = true) (f : Host.Cell → Bool) : memWf (m.filter f) = true := by
  rw [memWf_iff] at *
  exact ⟨mrising_filter h.1, fun p hp => h.2 p (List.mem_filter.1 hp).1⟩

theorem memWf_memClear {m : List Host.Cell} (h : memWf m = true) (lo hi : Nat) : memWf (memClear m lo hi) = true := memWf_filter h _

/-! What an address reads. -/

theorem memByte_memPut (m : List Host.Cell) (a j : Nat) (b : Byte) : memByte (memPut m a b) j = if j = a then b else memByte m j := by
  unfold memByte memPut
  by_cases h : j = a
  · subst h; rw [if_pos rfl, getD_mget_mset, if_pos rfl]
  · rw [if_neg h, getD_mget_mset, if_neg h]

/-- A write leaves each byte of its range as its part of the value, every other byte as it was. -/
theorem memByte_memWrite (m : List Host.Cell) (a n v j : Nat) :
    memByte (memWrite m a n v) j = if a ≤ j ∧ j < a + n then BitVec.ofNat 8 (v / 256 ^ (j - a)) else memByte m j := by
  induction n generalizing m a v with
  | zero => rw [if_neg (by omega)]; rfl
  | succ n ih =>
    show memByte (memWrite (memPut m a (BitVec.ofNat 8 v)) (a + 1) n (v / 256)) j = _
    rw [ih, memByte_memPut]
    by_cases h : j = a
    · subst h; rw [if_neg (by omega)]; simp
    · by_cases h1 : a + 1 ≤ j ∧ j < a + 1 + n
      · rw [if_pos h1, if_pos (by omega), Nat.div_div_eq_div_mul, ← Nat.pow_succ', Nat.succ_eq_add_one, show j - (a + 1) + 1 = j - a by omega]
      · rw [if_neg h1, if_neg h, if_neg (by omega)]

/-- A read depends on the bytes of its range alone. -/
theorem memRead_congr {m m' : List Host.Cell} (n : Nat) : ∀ {a : Nat}, (∀ j, a ≤ j → j < a + n → memByte m' j = memByte m j) →
    memRead m' a n = memRead m a n := by
  induction n with
  | zero => intro a _; rfl
  | succ n ih =>
    intro a h
    show (memByte m' a).toNat + 256 * memRead m' (a + 1) n = (memByte m a).toNat + 256 * memRead m (a + 1) n
    rw [h a (by omega) (by omega), ih fun j h1 h2 => h j (by omega) (by omega)]

/-- A read after a write to the same place gives the value written. -/
theorem memRead_memWrite (m : List Host.Cell) (n : Nat) : ∀ a v, memRead (memWrite m a n v) a n = v % 256 ^ n := by
  induction n generalizing m with
  | zero => intro a v; simp [memRead, Nat.mod_one]
  | succ n ih =>
    intro a v
    have hb : memByte (memWrite m a (n + 1) v) a = BitVec.ofNat 8 v := by rw [memByte_memWrite, if_pos (by omega)]; simp
    show (memByte (memWrite m a (n + 1) v) a).toNat + 256 * memRead (memWrite (memPut m a _) (a + 1) n (v / 256)) (a + 1) n = _
    rw [hb, ih, BitVec.toNat_ofNat, show (256 : Nat) ^ (n + 1) = 256 * 256 ^ n from Nat.pow_succ', Nat.mod_mul]

/-- A write leaves a read elsewhere alone. -/
theorem memRead_memWrite_ne (m : List Host.Cell) {a n v b k : Nat} (h : b + k ≤ a ∨ a + n ≤ b) :
    memRead (memWrite m a n v) b k = memRead m b k :=
  memRead_congr k fun j h1 h2 => by rw [memByte_memWrite, if_neg (by omega)]

end Sys2Proof.Machine
end

