-- ==== Sys2Proof/Laws/Perform.lean ====
section
/-! SUPPORT. What plain loads and stores do at a word of a tile's SRAM, the lines of a save area, and what a table admits to mode F. -/
namespace Sys2Proof.Machine

/-- A trusted word of SRAM that the table admits a plain load to: the load changes nothing and answers the bytes. -/
theorem performAt_load {s : State} {a : Access} {z c off : Nat} (hop : a.op = .load z false) (hp : s.placeOf (lpaOf a.pa) = .sram c off)
    (ha : s.admits (.sram c off) a.tag .read (lpaOf a.pa) = true) (ht : s.poisoned (wordAt (lpaOf a.pa)) = false)
    (hc : s.corrupt.contains (wordAt (lpaOf a.pa)) = false) :
    s.performAt a = (s, .ok (BitVec.ofNat 64 (memRead s.mem (lpaOf a.pa) (2 ^ z))) none) := by
  have hk : (MemOp.load z false).kind = .read := rfl
  simp only [State.performAt, hp, State.noteDram, hk, ha, Bool.not_true, Bool.and_false, Bool.false_eq_true, if_false, Place.isCtl, State.memEffect, hop,
    MemOp.overwrites, State.checkWord, ht, hc, extend]

/-- A word of SRAM that the table admits a store of a double word to: the bytes are stored and the word is trusted from then on. -/
theorem performAt_store {s : State} {a : Access} {c off : Nat} (hop : a.op = .store 3) (hp : s.placeOf (lpaOf a.pa) = .sram c off)
    (ha : s.admits (.sram c off) a.tag .write (lpaOf a.pa) = true) :
    s.performAt a = ((s.storeBytes (lpaOf a.pa) 8 a.data.toNat).freshWord (wordAt (lpaOf a.pa)), .ok 0 none) := by
  have hk : (MemOp.store 3).kind = .write := rfl
  simp only [State.performAt, hp, State.noteDram, hk, ha, Bool.not_true, Bool.and_false, Bool.false_eq_true, if_false, Place.isCtl, State.memEffect, hop,
    MemOp.overwrites, beq_self_eq_true, if_true] <;> rfl

/-- An area that lies in one page: its lines follow one another from the physical address of its first byte. -/
theorem areaLines_page {s : State} {w : Who} {c : Ctx} {va : Word} {k : AccKind} {pa : Nat} (hx : s.xlate w c va k = .ok pa)
    (hr : s.reachTrap w c pa = none) (hp : va.toNat % 2 ^ 16 + 6144 ≤ 2 ^ 16) (go : List Nat → Out) :
    areaLines s w c va k go = go ((List.range 96).map fun i => pa + 64 * i) := by
  simp only [areaLines, reached, xlated, hx, hr, if_pos hp]
  refine congrArg go (List.map_congr_left fun i hi => if_pos ?_)
  have := List.mem_range.1 hi
  omega

/-- A table whose first entry is that of reset admits everything of mode F (R327, R328). -/
theorem admits_f {s : State} {p : Place} {tag : Tag} {k : AccKind} {lpa : Nat} (h0 : s.blk (blockOf p) accOff = 0xC0F8000000000000)
    (h1 : s.blk (blockOf p) (accOff + 8) = 0x0000FFFFFFFFFFC0) (hm : tag.mode = .f) : s.admits p tag k lpa = true := by
  obtain ⟨n, hn⟩ : ∃ n, accEntries (blockOf p) = n + 1 := by
    cases blockOf p with
    | core c =>
      simp only [accEntries]
      split
      · exact ⟨31, rfl⟩
      · split
        · exact ⟨63, rfl⟩
        · exact ⟨15, rfl⟩
    | ret r => exact ⟨15, rfl⟩
  have hl : nbits lpa 47 6 ≤ 2 ^ 42 - 1 := Nat.le_sub_one_of_lt (Nat.mod_lt _ (by decide))
  have he : entryMatches (s.blk (blockOf p) (accOff + 16 * 0)) (s.blk (blockOf p) (accOff + 16 * 0 + 8)) tag lpa = true := by
    rw [Nat.mul_zero, Nat.add_zero, h0, h1]
    simp only [entryMatches, hm, Bool.and_eq_true, decide_eq_true_eq, Bool.or_eq_true]
    exact ⟨⟨⟨⟨by decide, Nat.le_trans (by decide) (Nat.zero_le _)⟩, Nat.le_trans hl (by decide)⟩, Or.inl (by decide)⟩, by decide⟩
  have hf : (List.range (accEntries (blockOf p))).find? (fun i =>
      entryMatches (s.blk (blockOf p) (accOff + 16 * i)) (s.blk (blockOf p) (accOff + 16 * i + 8)) tag lpa) = some 0 := by
    rw [hn, List.range_succ_eq_map, List.find?_cons]
    simp only [he]
  simp only [State.admits, hm, bne_self_eq_false, Bool.and_false, Bool.not_false, Bool.true_and, State.tableAdmits, hf, Nat.mul_zero, Nat.add_zero, h0]
  cases k <;> decide

end Sys2Proof.Machine
end

