-- ==== Sys2Proof/Laws/State.lean ====
section
/-! SUPPORT. Field by field, what each update of the state leaves alone; what a core, a reticle, a context and a register read as after one. -/
namespace Sys2Proof.Machine

/-! setCore -/
@[simp] theorem setCore_rets (s : State) (c : Nat) (k : Core) : (s.setCore c k).rets = s.rets := rfl
@[simp] theorem setCore_mem (s : State) (c : Nat) (k : Core) : (s.setCore c k).mem = s.mem := rfl
@[simp] theorem setCore_empties (s : State) (c : Nat) (k : Core) : (s.setCore c k).empties = s.empties := rfl
@[simp] theorem setCore_poison (s : State) (c : Nat) (k : Core) : (s.setCore c k).poison = s.poison := rfl
@[simp] theorem setCore_corrupt (s : State) (c : Nat) (k : Core) : (s.setCore c k).corrupt = s.corrupt := rfl
@[simp] theorem setCore_soft (s : State) (c : Nat) (k : Core) : (s.setCore c k).soft = s.soft := rfl
@[simp] theorem setCore_topo (s : State) (c : Nat) (k : Core) : (s.setCore c k).topo = s.topo := rfl
@[simp] theorem setCore_deadPasses (s : State) (c : Nat) (k : Core) : (s.setCore c k).deadPasses = s.deadPasses := rfl
@[simp] theorem setCore_drain (s : State) (c : Nat) (k : Core) : (s.setCore c k).drain = s.drain := rfl
@[simp] theorem setCore_power (s : State) (c : Nat) (k : Core) : (s.setCore c k).power = s.power := rfl
@[simp] theorem setCore_outbox (s : State) (c : Nat) (k : Core) : (s.setCore c k).outbox = s.outbox := rfl
@[simp] theorem setCore_hostLog (s : State) (c : Nat) (k : Core) : (s.setCore c k).hostLog = s.hostLog := rfl
@[simp] theorem setCore_departed (s : State) (c : Nat) (k : Core) : (s.setCore c k).departed = s.departed := rfl
@[simp] theorem setCore_inputs (s : State) (c : Nat) (k : Core) : (s.setCore c k).inputs = s.inputs := rfl
@[simp] theorem setCore_pending (s : State) (c : Nat) (k : Core) : (s.setCore c k).pending = s.pending := rfl
@[simp] theorem setCore_ev (s : State) (c : Nat) (k : Core) : (s.setCore c k).ev = s.ev := rfl
@[simp] theorem setCore_cur (s : State) (c : Nat) (k : Core) : (s.setCore c k).cur = s.cur := rfl
@[simp] theorem setCore_ir (s : State) (c : Nat) (k : Core) : (s.setCore c k).ir = s.ir := rfl
@[simp] theorem setCore_ids (s : State) (c : Nat) (k : Core) : (s.setCore c k).ids = s.ids := rfl
@[simp] theorem setCore_picks (s : State) (c : Nat) (k : Core) : (s.setCore c k).picks = s.picks := rfl

/-! modCore -/
@[simp] theorem modCore_rets (s : State) (c : Nat) (f : Core → Core) : (s.modCore c f).rets = s.rets := rfl
@[simp] theorem modCore_mem (s : State) (c : Nat) (f : Core → Core) : (s.modCore c f).mem = s.mem := rfl
@[simp] theorem modCore_empties (s : State) (c : Nat) (f : Core → Core) : (s.modCore c f).empties = s.empties := rfl
@[simp] theorem modCore_poison (s : State) (c : Nat) (f : Core → Core) : (s.modCore c f).poison = s.poison := rfl
@[simp] theorem modCore_corrupt (s : State) (c : Nat) (f : Core → Core) : (s.modCore c f).corrupt = s.corrupt := rfl
@[simp] theorem modCore_soft (s : State) (c : Nat) (f : Core → Core) : (s.modCore c f).soft = s.soft := rfl
@[simp] theorem modCore_topo (s : State) (c : Nat) (f : Core → Core) : (s.modCore c f).topo = s.topo := rfl
@[simp] theorem modCore_deadPasses (s : State) (c : Nat) (f : Core → Core) : (s.modCore c f).deadPasses = s.deadPasses := rfl
@[simp] theorem modCore_drain (s : State) (c : Nat) (f : Core → Core) : (s.modCore c f).drain = s.drain := rfl
@[simp] theorem modCore_power (s : State) (c : Nat) (f : Core → Core) : (s.modCore c f).power = s.power := rfl
@[simp] theorem modCore_outbox (s : State) (c : Nat) (f : Core → Core) : (s.modCore c f).outbox = s.outbox := rfl
@[simp] theorem modCore_hostLog (s : State) (c : Nat) (f : Core → Core) : (s.modCore c f).hostLog = s.hostLog := rfl
@[simp] theorem modCore_departed (s : State) (c : Nat) (f : Core → Core) : (s.modCore c f).departed = s.departed := rfl
@[simp] theorem modCore_inputs (s : State) (c : Nat) (f : Core → Core) : (s.modCore c f).inputs = s.inputs := rfl
@[simp] theorem modCore_pending (s : State) (c : Nat) (f : Core → Core) : (s.modCore c f).pending = s.pending := rfl
@[simp] theorem modCore_ev (s : State) (c : Nat) (f : Core → Core) : (s.modCore c f).ev = s.ev := rfl
@[simp] theorem modCore_cur (s : State) (c : Nat) (f : Core → Core) : (s.modCore c f).cur = s.cur := rfl
@[simp] theorem modCore_ir (s : State) (c : Nat) (f : Core → Core) : (s.modCore c f).ir = s.ir := rfl
@[simp] theorem modCore_ids (s : State) (c : Nat) (f : Core → Core) : (s.modCore c f).ids = s.ids := rfl
@[simp] theorem modCore_picks (s : State) (c : Nat) (f : Core → Core) : (s.modCore c f).picks = s.picks := rfl

/-! setRet -/
@[simp] theorem setRet_cores (s : State) (r : Nat) (k : Ret) : (s.setRet r k).cores = s.cores := rfl
@[simp] theorem setRet_mem (s : State) (r : Nat) (k : Ret) : (s.setRet r k).mem = s.mem := rfl
@[simp] theorem setRet_empties (s : State) (r : Nat) (k : Ret) : (s.setRet r k).empties = s.empties := rfl
@[simp] theorem setRet_poison (s : State) (r : Nat) (k : Ret) : (s.setRet r k).poison = s.poison := rfl
@[simp] theorem setRet_corrupt (s : State) (r : Nat) (k : Ret) : (s.setRet r k).corrupt = s.corrupt := rfl
@[simp] theorem setRet_soft (s : State) (r : Nat) (k : Ret) : (s.setRet r k).soft = s.soft := rfl
@[simp] theorem setRet_topo (s : State) (r : Nat) (k : Ret) : (s.setRet r k).topo = s.topo := rfl
@[simp] theorem setRet_deadPasses (s : State) (r : Nat) (k : Ret) : (s.setRet r k).deadPasses = s.deadPasses := rfl
@[simp] theorem setRet_drain (s : State) (r : Nat) (k : Ret) : (s.setRet r k).drain = s.drain := rfl
@[simp] theorem setRet_power (s : State) (r : Nat) (k : Ret) : (s.setRet r k).power = s.power := rfl
@[simp] theorem setRet_outbox (s : State) (r : Nat) (k : Ret) : (s.setRet r k).outbox = s.outbox := rfl
@[simp] theorem setRet_hostLog (s : State) (r : Nat) (k : Ret) : (s.setRet r k).hostLog = s.hostLog := rfl
@[simp] theorem setRet_departed (s : State) (r : Nat) (k : Ret) : (s.setRet r k).departed = s.departed := rfl
@[simp] theorem setRet_inputs (s : State) (r : Nat) (k : Ret) : (s.setRet r k).inputs = s.inputs := rfl
@[simp] theorem setRet_pending (s : State) (r : Nat) (k : Ret) : (s.setRet r k).pending = s.pending := rfl
@[simp] theorem setRet_ev (s : State) (r : Nat) (k : Ret) : (s.setRet r k).ev = s.ev := rfl
@[simp] theorem setRet_cur (s : State) (r : Nat) (k : Ret) : (s.setRet r k).cur = s.cur := rfl
@[simp] theorem setRet_ir (s : State) (r : Nat) (k : Ret) : (s.setRet r k).ir = s.ir := rfl
@[simp] theorem setRet_ids (s : State) (r : Nat) (k : Ret) : (s.setRet r k).ids = s.ids := rfl
@[simp] theorem setRet_picks (s : State) (r : Nat) (k : Ret) : (s.setRet r k).picks = s.picks := rfl

/-! modRet -/
@[simp] theorem modRet_cores (s : State) (r : Nat) (f : Ret → Ret) : (s.modRet r f).cores = s.cores := rfl
@[simp] theorem modRet_mem (s : State) (r : Nat) (f : Ret → Ret) : (s.modRet r f).mem = s.mem := rfl
@[simp] theorem modRet_empties (s : State) (r : Nat) (f : Ret → Ret) : (s.modRet r f).empties = s.empties := rfl
@[simp] theorem modRet_poison (s : State) (r : Nat) (f : Ret → Ret) : (s.modRet r f).poison = s.poison := rfl
@[simp] theorem modRet_corrupt (s : State) (r : Nat) (f : Ret → Ret) : (s.modRet r f).corrupt = s.corrupt := rfl
@[simp] theorem modRet_soft (s : State) (r : Nat) (f : Ret → Ret) : (s.modRet r f).soft = s.soft := rfl
@[simp] theorem modRet_topo (s : State) (r : Nat) (f : Ret → Ret) : (s.modRet r f).topo = s.topo := rfl
@[simp] theorem modRet_deadPasses (s : State) (r : Nat) (f : Ret → Ret) : (s.modRet r f).deadPasses = s.deadPasses := rfl
@[simp] theorem modRet_drain (s : State) (r : Nat) (f : Ret → Ret) : (s.modRet r f).drain = s.drain := rfl
@[simp] theorem modRet_power (s : State) (r : Nat) (f : Ret → Ret) : (s.modRet r f).power = s.power := rfl
@[simp] theorem modRet_outbox (s : State) (r : Nat) (f : Ret → Ret) : (s.modRet r f).outbox = s.outbox := rfl
@[simp] theorem modRet_hostLog (s : State) (r : Nat) (f : Ret → Ret) : (s.modRet r f).hostLog = s.hostLog := rfl
@[simp] theorem modRet_departed (s : State) (r : Nat) (f : Ret → Ret) : (s.modRet r f).departed = s.departed := rfl
@[simp] theorem modRet_inputs (s : State) (r : Nat) (f : Ret → Ret) : (s.modRet r f).inputs = s.inputs := rfl
@[simp] theorem modRet_pending (s : State) (r : Nat) (f : Ret → Ret) : (s.modRet r f).pending = s.pending := rfl
@[simp] theorem modRet_ev (s : State) (r : Nat) (f : Ret → Ret) : (s.modRet r f).ev = s.ev := rfl
@[simp] theorem modRet_cur (s : State) (r : Nat) (f : Ret → Ret) : (s.modRet r f).cur = s.cur := rfl
@[simp] theorem modRet_ir (s : State) (r : Nat) (f : Ret → Ret) : (s.modRet r f).ir = s.ir := rfl
@[simp] theorem modRet_ids (s : State) (r : Nat) (f : Ret → Ret) : (s.modRet r f).ids = s.ids := rfl
@[simp] theorem modRet_picks (s : State) (r : Nat) (f : Ret → Ret) : (s.modRet r f).picks = s.picks := rfl

/-! setCtx -/
@[simp] theorem setCtx_rets (s : State) (w : Who) (c : Ctx) : (s.setCtx w c).rets = s.rets := rfl
@[simp] theorem setCtx_mem (s : State) (w : Who) (c : Ctx) : (s.setCtx w c).mem = s.mem := rfl
@[simp] theorem setCtx_empties (s : State) (w : Who) (c : Ctx) : (s.setCtx w c).empties = s.empties := rfl
@[simp] theorem setCtx_poison (s : State) (w : Who) (c : Ctx) : (s.setCtx w c).poison = s.poison := rfl
@[simp] theorem setCtx_corrupt (s : State) (w : Who) (c : Ctx) : (s.setCtx w c).corrupt = s.corrupt := rfl
@[simp] theorem setCtx_soft (s : State) (w : Who) (c : Ctx) : (s.setCtx w c).soft = s.soft := rfl
@[simp] theorem setCtx_topo (s : State) (w : Who) (c : Ctx) : (s.setCtx w c).topo = s.topo := rfl
@[simp] theorem setCtx_deadPasses (s : State) (w : Who) (c : Ctx) : (s.setCtx w c).deadPasses = s.deadPasses := rfl
@[simp] theorem setCtx_drain (s : State) (w : Who) (c : Ctx) : (s.setCtx w c).drain = s.drain := rfl
@[simp] theorem setCtx_power (s : State) (w : Who) (c : Ctx) : (s.setCtx w c).power = s.power := rfl
@[simp] theorem setCtx_outbox (s : State) (w : Who) (c : Ctx) : (s.setCtx w c).outbox = s.outbox := rfl
@[simp] theorem setCtx_hostLog (s : State) (w : Who) (c : Ctx) : (s.setCtx w c).hostLog = s.hostLog := rfl
@[simp] theorem setCtx_departed (s : State) (w : Who) (c : Ctx) : (s.setCtx w c).departed = s.departed := rfl
@[simp] theorem setCtx_inputs (s : State) (w : Who) (c : Ctx) : (s.setCtx w c).inputs = s.inputs := rfl
@[simp] theorem setCtx_pending (s : State) (w : Who) (c : Ctx) : (s.setCtx w c).pending = s.pending := rfl
@[simp] theorem setCtx_ev (s : State) (w : Who) (c : Ctx) : (s.setCtx w c).ev = s.ev := rfl
@[simp] theorem setCtx_cur (s : State) (w : Who) (c : Ctx) : (s.setCtx w c).cur = s.cur := rfl
@[simp] theorem setCtx_ir (s : State) (w : Who) (c : Ctx) : (s.setCtx w c).ir = s.ir := rfl
@[simp] theorem setCtx_ids (s : State) (w : Who) (c : Ctx) : (s.setCtx w c).ids = s.ids := rfl
@[simp] theorem setCtx_picks (s : State) (w : Who) (c : Ctx) : (s.setCtx w c).picks = s.picks := rfl

/-! bumpGen -/
@[simp] theorem bumpGen_rets (s : State) (w : Who) : (s.bumpGen w).rets = s.rets := rfl
@[simp] theorem bumpGen_mem (s : State) (w : Who) : (s.bumpGen w).mem = s.mem := rfl
@[simp] theorem bumpGen_empties (s : State) (w : Who) : (s.bumpGen w).empties = s.empties := rfl
@[simp] theorem bumpGen_poison (s : State) (w : Who) : (s.bumpGen w).poison = s.poison := rfl
@[simp] theorem bumpGen_corrupt (s : State) (w : Who) : (s.bumpGen w).corrupt = s.corrupt := rfl
@[simp] theorem bumpGen_soft (s : State) (w : Who) : (s.bumpGen w).soft = s.soft := rfl
@[simp] theorem bumpGen_topo (s : State) (w : Who) : (s.bumpGen w).topo = s.topo := rfl
@[simp] theorem bumpGen_deadPasses (s : State) (w : Who) : (s.bumpGen w).deadPasses = s.deadPasses := rfl
@[simp] theorem bumpGen_drain (s : State) (w : Who) : (s.bumpGen w).drain = s.drain := rfl
@[simp] theorem bumpGen_power (s : State) (w : Who) : (s.bumpGen w).power = s.power := rfl
@[simp] theorem bumpGen_outbox (s : State) (w : Who) : (s.bumpGen w).outbox = s.outbox := rfl
@[simp] theorem bumpGen_hostLog (s : State) (w : Who) : (s.bumpGen w).hostLog = s.hostLog := rfl
@[simp] theorem bumpGen_departed (s : State) (w : Who) : (s.bumpGen w).departed = s.departed := rfl
@[simp] theorem bumpGen_inputs (s : State) (w : Who) : (s.bumpGen w).inputs = s.inputs := rfl
@[simp] theorem bumpGen_pending (s : State) (w : Who) : (s.bumpGen w).pending = s.pending := rfl
@[simp] theorem bumpGen_ev (s : State) (w : Who) : (s.bumpGen w).ev = s.ev := rfl
@[simp] theorem bumpGen_cur (s : State) (w : Who) : (s.bumpGen w).cur = s.cur := rfl
@[simp] theorem bumpGen_ir (s : State) (w : Who) : (s.bumpGen w).ir = s.ir := rfl
@[simp] theorem bumpGen_ids (s : State) (w : Who) : (s.bumpGen w).ids = s.ids := rfl
@[simp] theorem bumpGen_picks (s : State) (w : Who) : (s.bumpGen w).picks = s.picks := rfl

/-! setCb -/
@[simp] theorem setCb_rets (s : State) (c o : Nat) (v : Word) : (s.setCb c o v).rets = s.rets := rfl
@[simp] theorem setCb_mem (s : State) (c o : Nat) (v : Word) : (s.setCb c o v).mem = s.mem := rfl
@[simp] theorem setCb_empties (s : State) (c o : Nat) (v : Word) : (s.setCb c o v).empties = s.empties := rfl
@[simp] theorem setCb_poison (s : State) (c o : Nat) (v : Word) : (s.setCb c o v).poison = s.poison := rfl
@[simp] theorem setCb_corrupt (s : State) (c o : Nat) (v : Word) : (s.setCb c o v).corrupt = s.corrupt := rfl
@[simp] theorem setCb_soft (s : State) (c o : Nat) (v : Word) : (s.setCb c o v).soft = s.soft := rfl
@[simp] theorem setCb_topo (s : State) (c o : Nat) (v : Word) : (s.setCb c o v).topo = s.topo := rfl
@[simp] theorem setCb_deadPasses (s : State) (c o : Nat) (v : Word) : (s.setCb c o v).deadPasses = s.deadPasses := rfl
@[simp] theorem setCb_drain (s : State) (c o : Nat) (v : Word) : (s.setCb c o v).drain = s.drain := rfl
@[simp] theorem setCb_power (s : State) (c o : Nat) (v : Word) : (s.setCb c o v).power = s.power := rfl
@[simp] theorem setCb_outbox (s : State) (c o : Nat) (v : Word) : (s.setCb c o v).outbox = s.outbox := rfl
@[simp] theorem setCb_hostLog (s : State) (c o : Nat) (v : Word) : (s.setCb c o v).hostLog = s.hostLog := rfl
@[simp] theorem setCb_departed (s : State) (c o : Nat) (v : Word) : (s.setCb c o v).departed = s.departed := rfl
@[simp] theorem setCb_inputs (s : State) (c o : Nat) (v : Word) : (s.setCb c o v).inputs = s.inputs := rfl
@[simp] theorem setCb_pending (s : State) (c o : Nat) (v : Word) : (s.setCb c o v).pending = s.pending := rfl
@[simp] theorem setCb_ev (s : State) (c o : Nat) (v : Word) : (s.setCb c o v).ev = s.ev := rfl
@[simp] theorem setCb_cur (s : State) (c o : Nat) (v : Word) : (s.setCb c o v).cur = s.cur := rfl
@[simp] theorem setCb_ir (s : State) (c o : Nat) (v : Word) : (s.setCb c o v).ir = s.ir := rfl
@[simp] theorem setCb_ids (s : State) (c o : Nat) (v : Word) : (s.setCb c o v).ids = s.ids := rfl
@[simp] theorem setCb_picks (s : State) (c o : Nat) (v : Word) : (s.setCb c o v).picks = s.picks := rfl

/-! setRcb -/
@[simp] theorem setRcb_cores (s : State) (r o : Nat) (v : Word) : (s.setRcb r o v).cores = s.cores := rfl
@[simp] theorem setRcb_mem (s : State) (r o : Nat) (v : Word) : (s.setRcb r o v).mem = s.mem := rfl
@[simp] theorem setRcb_empties (s : State) (r o : Nat) (v : Word) : (s.setRcb r o v).empties = s.empties := rfl
@[simp] theorem setRcb_poison (s : State) (r o : Nat) (v : Word) : (s.setRcb r o v).poison = s.poison := rfl
@[simp] theorem setRcb_corrupt (s : State) (r o : Nat) (v : Word) : (s.setRcb r o v).corrupt = s.corrupt := rfl
@[simp] theorem setRcb_soft (s : State) (r o : Nat) (v : Word) : (s.setRcb r o v).soft = s.soft := rfl
@[simp] theorem setRcb_topo (s : State) (r o : Nat) (v : Word) : (s.setRcb r o v).topo = s.topo := rfl
@[simp] theorem setRcb_deadPasses (s : State) (r o : Nat) (v : Word) : (s.setRcb r o v).deadPasses = s.deadPasses := rfl
@[simp] theorem setRcb_drain (s : State) (r o : Nat) (v : Word) : (s.setRcb r o v).drain = s.drain := rfl
@[simp] theorem setRcb_power (s : State) (r o : Nat) (v : Word) : (s.setRcb r o v).power = s.power := rfl
@[simp] theorem setRcb_outbox (s : State) (r o : Nat) (v : Word) : (s.setRcb r o v).outbox = s.outbox := rfl
@[simp] theorem setRcb_hostLog (s : State) (r o : Nat) (v : Word) : (s.setRcb r o v).hostLog = s.hostLog := rfl
@[simp] theorem setRcb_departed (s : State) (r o : Nat) (v : Word) : (s.setRcb r o v).departed = s.departed := rfl
@[simp] theorem setRcb_inputs (s : State) (r o : Nat) (v : Word) : (s.setRcb r o v).inputs = s.inputs := rfl
@[simp] theorem setRcb_pending (s : State) (r o : Nat) (v : Word) : (s.setRcb r o v).pending = s.pending := rfl
@[simp] theorem setRcb_ev (s : State) (r o : Nat) (v : Word) : (s.setRcb r o v).ev = s.ev := rfl
@[simp] theorem setRcb_cur (s : State) (r o : Nat) (v : Word) : (s.setRcb r o v).cur = s.cur := rfl
@[simp] theorem setRcb_ir (s : State) (r o : Nat) (v : Word) : (s.setRcb r o v).ir = s.ir := rfl
@[simp] theorem setRcb_ids (s : State) (r o : Nat) (v : Word) : (s.setRcb r o v).ids = s.ids := rfl
@[simp] theorem setRcb_picks (s : State) (r o : Nat) (v : Word) : (s.setRcb r o v).picks = s.picks := rfl

/-! push -/
@[simp] theorem push_cores (s : State) (e : Ev) : (s.push e).cores = s.cores := rfl
@[simp] theorem push_rets (s : State) (e : Ev) : (s.push e).rets = s.rets := rfl
@[simp] theorem push_mem (s : State) (e : Ev) : (s.push e).mem = s.mem := rfl
@[simp] theorem push_empties (s : State) (e : Ev) : (s.push e).empties = s.empties := rfl
@[simp] theorem push_poison (s : State) (e : Ev) : (s.push e).poison = s.poison := rfl
@[simp] theorem push_corrupt (s : State) (e : Ev) : (s.push e).corrupt = s.corrupt := rfl
@[simp] theorem push_soft (s : State) (e : Ev) : (s.push e).soft = s.soft := rfl
@[simp] theorem push_topo (s : State) (e : Ev) : (s.push e).topo = s.topo := rfl
@[simp] theorem push_deadPasses (s : State) (e : Ev) : (s.push e).deadPasses = s.deadPasses := rfl
@[simp] theorem push_drain (s : State) (e : Ev) : (s.push e).drain = s.drain := rfl
@[simp] theorem push_power (s : State) (e : Ev) : (s.push e).power = s.power := rfl
@[simp] theorem push_outbox (s : State) (e : Ev) : (s.push e).outbox = s.outbox := rfl
@[simp] theorem push_hostLog (s : State) (e : Ev) : (s.push e).hostLog = s.hostLog := rfl
@[simp] theorem push_departed (s : State) (e : Ev) : (s.push e).departed = s.departed := rfl
@[simp] theorem push_inputs (s : State) (e : Ev) : (s.push e).inputs = s.inputs := rfl
@[simp] theorem push_ev (s : State) (e : Ev) : (s.push e).ev = s.ev := rfl
@[simp] theorem push_cur (s : State) (e : Ev) : (s.push e).cur = s.cur := rfl
@[simp] theorem push_ir (s : State) (e : Ev) : (s.push e).ir = s.ir := rfl
@[simp] theorem push_ids (s : State) (e : Ev) : (s.push e).ids = s.ids := rfl
@[simp] theorem push_picks (s : State) (e : Ev) : (s.push e).picks = s.picks := rfl

/-! pushAll -/
@[simp] theorem pushAll_cores (s : State) (l : List Ev) : (s.pushAll l).cores = s.cores := rfl
@[simp] theorem pushAll_rets (s : State) (l : List Ev) : (s.pushAll l).rets = s.rets := rfl
@[simp] theorem pushAll_mem (s : State) (l : List Ev) : (s.pushAll l).mem = s.mem := rfl
@[simp] theorem pushAll_empties (s : State) (l : List Ev) : (s.pushAll l).empties = s.empties := rfl
@[simp] theorem pushAll_poison (s : State) (l : List Ev) : (s.pushAll l).poison = s.poison := rfl
@[simp] theorem pushAll_corrupt (s : State) (l : List Ev) : (s.pushAll l).corrupt = s.corrupt := rfl
@[simp] theorem pushAll_soft (s : State) (l : List Ev) : (s.pushAll l).soft = s.soft := rfl
@[simp] theorem pushAll_topo (s : State) (l : List Ev) : (s.pushAll l).topo = s.topo := rfl
@[simp] theorem pushAll_deadPasses (s : State) (l : List Ev) : (s.pushAll l).deadPasses = s.deadPasses := rfl
@[simp] theorem pushAll_drain (s : State) (l : List Ev) : (s.pushAll l).drain = s.drain := rfl
@[simp] theorem pushAll_power (s : State) (l : List Ev) : (s.pushAll l).power = s.power := rfl
@[simp] theorem pushAll_outbox (s : State) (l : List Ev) : (s.pushAll l).outbox = s.outbox := rfl
@[simp] theorem pushAll_hostLog (s : State) (l : List Ev) : (s.pushAll l).hostLog = s.hostLog := rfl
@[simp] theorem pushAll_departed (s : State) (l : List Ev) : (s.pushAll l).departed = s.departed := rfl
@[simp] theorem pushAll_inputs (s : State) (l : List Ev) : (s.pushAll l).inputs = s.inputs := rfl
@[simp] theorem pushAll_ev (s : State) (l : List Ev) : (s.pushAll l).ev = s.ev := rfl
@[simp] theorem pushAll_cur (s : State) (l : List Ev) : (s.pushAll l).cur = s.cur := rfl
@[simp] theorem pushAll_ir (s : State) (l : List Ev) : (s.pushAll l).ir = s.ir := rfl
@[simp] theorem pushAll_ids (s : State) (l : List Ev) : (s.pushAll l).ids = s.ids := rfl
@[simp] theorem pushAll_picks (s : State) (l : List Ev) : (s.pushAll l).picks = s.picks := rfl

/-! setFull -/
@[simp] theorem setFull_cores (s : State) (a : Nat) (b : Bool) : (s.setFull a b).cores = s.cores := rfl
@[simp] theorem setFull_rets (s : State) (a : Nat) (b : Bool) : (s.setFull a b).rets = s.rets := rfl
@[simp] theorem setFull_mem (s : State) (a : Nat) (b : Bool) : (s.setFull a b).mem = s.mem := rfl
@[simp] theorem setFull_poison (s : State) (a : Nat) (b : Bool) : (s.setFull a b).poison = s.poison := rfl
@[simp] theorem setFull_corrupt (s : State) (a : Nat) (b : Bool) : (s.setFull a b).corrupt = s.corrupt := rfl
@[simp] theorem setFull_soft (s : State) (a : Nat) (b : Bool) : (s.setFull a b).soft = s.soft := rfl
@[simp] theorem setFull_topo (s : State) (a : Nat) (b : Bool) : (s.setFull a b).topo = s.topo := rfl
@[simp] theorem setFull_deadPasses (s : State) (a : Nat) (b : Bool) : (s.setFull a b).deadPasses = s.deadPasses := rfl
@[simp] theorem setFull_drain (s : State) (a : Nat) (b : Bool) : (s.setFull a b).drain = s.drain := rfl
@[simp] theorem setFull_power (s : State) (a : Nat) (b : Bool) : (s.setFull a b).power = s.power := rfl
@[simp] theorem setFull_outbox (s : State) (a : Nat) (b : Bool) : (s.setFull a b).outbox = s.outbox := rfl
@[simp] theorem setFull_hostLog (s : State) (a : Nat) (b : Bool) : (s.setFull a b).hostLog = s.hostLog := rfl
@[simp] theorem setFull_departed (s : State) (a : Nat) (b : Bool) : (s.setFull a b).departed = s.departed := rfl
@[simp] theorem setFull_inputs (s : State) (a : Nat) (b : Bool) : (s.setFull a b).inputs = s.inputs := rfl
@[simp] theorem setFull_pending (s : State) (a : Nat) (b : Bool) : (s.setFull a b).pending = s.pending := rfl
@[simp] theorem setFull_ev (s : State) (a : Nat) (b : Bool) : (s.setFull a b).ev = s.ev := rfl
@[simp] theorem setFull_cur (s : State) (a : Nat) (b : Bool) : (s.setFull a b).cur = s.cur := rfl
@[simp] theorem setFull_ir (s : State) (a : Nat) (b : Bool) : (s.setFull a b).ir = s.ir := rfl
@[simp] theorem setFull_ids (s : State) (a : Nat) (b : Bool) : (s.setFull a b).ids = s.ids := rfl
@[simp] theorem setFull_picks (s : State) (a : Nat) (b : Bool) : (s.setFull a b).picks = s.picks := rfl

/-! modCtx -/
@[simp] theorem modCtx_rets (s : State) (w : Who) (f : Ctx → Ctx) : (s.modCtx w f).rets = s.rets := by unfold State.modCtx; split <;> rfl
@[simp] theorem modCtx_mem (s : State) (w : Who) (f : Ctx → Ctx) : (s.modCtx w f).mem = s.mem := by unfold State.modCtx; split <;> rfl
@[simp] theorem modCtx_empties (s : State) (w : Who) (f : Ctx → Ctx) : (s.modCtx w f).empties = s.empties := by unfold State.modCtx; split <;> rfl
@[simp] theorem modCtx_poison (s : State) (w : Who) (f : Ctx → Ctx) : (s.modCtx w f).poison = s.poison := by unfold State.modCtx; split <;> rfl
@[simp] theorem modCtx_corrupt (s : State) (w : Who) (f : Ctx → Ctx) : (s.modCtx w f).corrupt = s.corrupt := by unfold State.modCtx; split <;> rfl
@[simp] theorem modCtx_soft (s : State) (w : Who) (f : Ctx → Ctx) : (s.modCtx w f).soft = s.soft := by unfold State.modCtx; split <;> rfl
@[simp] theorem modCtx_topo (s : State) (w : Who) (f : Ctx → Ctx) : (s.modCtx w f).topo = s.topo := by unfold State.modCtx; split <;> rfl
@[simp] theorem modCtx_deadPasses (s : State) (w : Who) (f : Ctx → Ctx) : (s.modCtx w f).deadPasses = s.deadPasses := by unfold State.modCtx; split <;> rfl
@[simp] theorem modCtx_drain (s : State) (w : Who) (f : Ctx → Ctx) : (s.modCtx w f).drain = s.drain := by unfold State.modCtx; split <;> rfl
@[simp] theorem modCtx_power (s : State) (w : Who) (f : Ctx → Ctx) : (s.modCtx w f).power = s.power := by unfold State.modCtx; split <;> rfl
@[simp] theorem modCtx_outbox (s : State) (w : Who) (f : Ctx → Ctx) : (s.modCtx w f).outbox = s.outbox := by unfold State.modCtx; split <;> rfl
@[simp] theorem modCtx_hostLog (s : State) (w : Who) (f : Ctx → Ctx) : (s.modCtx w f).hostLog = s.hostLog := by unfold State.modCtx; split <;> rfl
@[simp] theorem modCtx_departed (s : State) (w : Who) (f : Ctx → Ctx) : (s.modCtx w f).departed = s.departed := by unfold State.modCtx; split <;> rfl
@[simp] theorem modCtx_inputs (s : State) (w : Who) (f : Ctx → Ctx) : (s.modCtx w f).inputs = s.inputs := by unfold State.modCtx; split <;> rfl
@[simp] theorem modCtx_pending (s : State) (w : Who) (f : Ctx → Ctx) : (s.modCtx w f).pending = s.pending := by unfold State.modCtx; split <;> rfl
@[simp] theorem modCtx_ev (s : State) (w : Who) (f : Ctx → Ctx) : (s.modCtx w f).ev = s.ev := by unfold State.modCtx; split <;> rfl
@[simp] theorem modCtx_cur (s : State) (w : Who) (f : Ctx → Ctx) : (s.modCtx w f).cur = s.cur := by unfold State.modCtx; split <;> rfl
@[simp] theorem modCtx_ir (s : State) (w : Who) (f : Ctx → Ctx) : (s.modCtx w f).ir = s.ir := by unfold State.modCtx; split <;> rfl
@[simp] theorem modCtx_ids (s : State) (w : Who) (f : Ctx → Ctx) : (s.modCtx w f).ids = s.ids := by unfold State.modCtx; split <;> rfl
@[simp] theorem modCtx_picks (s : State) (w : Who) (f : Ctx → Ctx) : (s.modCtx w f).picks = s.picks := by unfold State.modCtx; split <;> rfl

/-! setEntry -/
@[simp] theorem setEntry_rets (s : State) (w : Who) (c : Ctx) (r : Nat) (e : RegEntry) : (s.setEntry w c r e).rets = s.rets := by unfold State.setEntry; split <;> rfl
@[simp] theorem setEntry_mem (s : State) (w : Who) (c : Ctx) (r : Nat) (e : RegEntry) : (s.setEntry w c r e).mem = s.mem := by unfold State.setEntry; split <;> rfl
@[simp] theorem setEntry_empties (s : State) (w : Who) (c : Ctx) (r : Nat) (e : RegEntry) : (s.setEntry w c r e).empties = s.empties := by unfold State.setEntry; split <;> rfl
@[simp] theorem setEntry_poison (s : State) (w : Who) (c : Ctx) (r : Nat) (e : RegEntry) : (s.setEntry w c r e).poison = s.poison := by unfold State.setEntry; split <;> rfl
@[simp] theorem setEntry_corrupt (s : State) (w : Who) (c : Ctx) (r : Nat) (e : RegEntry) : (s.setEntry w c r e).corrupt = s.corrupt := by unfold State.setEntry; split <;> rfl
@[simp] theorem setEntry_soft (s : State) (w : Who) (c : Ctx) (r : Nat) (e : RegEntry) : (s.setEntry w c r e).soft = s.soft := by unfold State.setEntry; split <;> rfl
@[simp] theorem setEntry_topo (s : State) (w : Who) (c : Ctx) (r : Nat) (e : RegEntry) : (s.setEntry w c r e).topo = s.topo := by unfold State.setEntry; split <;> rfl
@[simp] theorem setEntry_deadPasses (s : State) (w : Who) (c : Ctx) (r : Nat) (e : RegEntry) : (s.setEntry w c r e).deadPasses = s.deadPasses := by unfold State.setEntry; split <;> rfl
@[simp] theorem setEntry_drain (s : State) (w : Who) (c : Ctx) (r : Nat) (e : RegEntry) : (s.setEntry w c r e).drain = s.drain := by unfold State.setEntry; split <;> rfl
@[simp] theorem setEntry_power (s : State) (w : Who) (c : Ctx) (r : Nat) (e : RegEntry) : (s.setEntry w c r e).power = s.power := by unfold State.setEntry; split <;> rfl
@[simp] theorem setEntry_outbox (s : State) (w : Who) (c : Ctx) (r : Nat) (e : RegEntry) : (s.setEntry w c r e).outbox = s.outbox := by unfold State.setEntry; split <;> rfl
@[simp] theorem setEntry_hostLog (s : State) (w : Who) (c : Ctx) (r : Nat) (e : RegEntry) : (s.setEntry w c r e).hostLog = s.hostLog := by unfold State.setEntry; split <;> rfl
@[simp] theorem setEntry_departed (s : State) (w : Who) (c : Ctx) (r : Nat) (e : RegEntry) : (s.setEntry w c r e).departed = s.departed := by unfold State.setEntry; split <;> rfl
@[simp] theorem setEntry_inputs (s : State) (w : Who) (c : Ctx) (r : Nat) (e : RegEntry) : (s.setEntry w c r e).inputs = s.inputs := by unfold State.setEntry; split <;> rfl
@[simp] theorem setEntry_pending (s : State) (w : Who) (c : Ctx) (r : Nat) (e : RegEntry) : (s.setEntry w c r e).pending = s.pending := by unfold State.setEntry; split <;> rfl
@[simp] theorem setEntry_ev (s : State) (w : Who) (c : Ctx) (r : Nat) (e : RegEntry) : (s.setEntry w c r e).ev = s.ev := by unfold State.setEntry; split <;> rfl
@[simp] theorem setEntry_cur (s : State) (w : Who) (c : Ctx) (r : Nat) (e : RegEntry) : (s.setEntry w c r e).cur = s.cur := by unfold State.setEntry; split <;> rfl
@[simp] theorem setEntry_ir (s : State) (w : Who) (c : Ctx) (r : Nat) (e : RegEntry) : (s.setEntry w c r e).ir = s.ir := by unfold State.setEntry; split <;> rfl
@[simp] theorem setEntry_ids (s : State) (w : Who) (c : Ctx) (r : Nat) (e : RegEntry) : (s.setEntry w c r e).ids = s.ids := by unfold State.setEntry; split <;> rfl
@[simp] theorem setEntry_picks (s : State) (w : Who) (c : Ctx) (r : Nat) (e : RegEntry) : (s.setEntry w c r e).picks = s.picks := by unfold State.setEntry; split <;> rfl

/-! setReg -/
@[simp] theorem setReg_rets (s : State) (w : Who) (c : Ctx) (r : Nat) (v : Word) : (s.setReg w c r v).rets = s.rets := setEntry_rets _ _ _ _ _
@[simp] theorem setReg_mem (s : State) (w : Who) (c : Ctx) (r : Nat) (v : Word) : (s.setReg w c r v).mem = s.mem := setEntry_mem _ _ _ _ _
@[simp] theorem setReg_empties (s : State) (w : Who) (c : Ctx) (r : Nat) (v : Word) : (s.setReg w c r v).empties = s.empties := setEntry_empties _ _ _ _ _
@[simp] theorem setReg_poison (s : State) (w : Who) (c : Ctx) (r : Nat) (v : Word) : (s.setReg w c r v).poison = s.poison := setEntry_poison _ _ _ _ _
@[simp] theorem setReg_corrupt (s : State) (w : Who) (c : Ctx) (r : Nat) (v : Word) : (s.setReg w c r v).corrupt = s.corrupt := setEntry_corrupt _ _ _ _ _
@[simp] theorem setReg_soft (s : State) (w : Who) (c : Ctx) (r : Nat) (v : Word) : (s.setReg w c r v).soft = s.soft := setEntry_soft _ _ _ _ _
@[simp] theorem setReg_topo (s : State) (w : Who) (c : Ctx) (r : Nat) (v : Word) : (s.setReg w c r v).topo = s.topo := setEntry_topo _ _ _ _ _
@[simp] theorem setReg_deadPasses (s : State) (w : Who) (c : Ctx) (r : Nat) (v : Word) : (s.setReg w c r v).deadPasses = s.deadPasses := setEntry_deadPasses _ _ _ _ _
@[simp] theorem setReg_drain (s : State) (w : Who) (c : Ctx) (r : Nat) (v : Word) : (s.setReg w c r v).drain = s.drain := setEntry_drain _ _ _ _ _
@[simp] theorem setReg_power (s : State) (w : Who) (c : Ctx) (r : Nat) (v : Word) : (s.setReg w c r v).power = s.power := setEntry_power _ _ _ _ _
@[simp] theorem setReg_outbox (s : State) (w : Who) (c : Ctx) (r : Nat) (v : Word) : (s.setReg w c r v).outbox = s.outbox := setEntry_outbox _ _ _ _ _
@[simp] theorem setReg_hostLog (s : State) (w : Who) (c : Ctx) (r : Nat) (v : Word) : (s.setReg w c r v).hostLog = s.hostLog := setEntry_hostLog _ _ _ _ _
@[simp] theorem setReg_departed (s : State) (w : Who) (c : Ctx) (r : Nat) (v : Word) : (s.setReg w c r v).departed = s.departed := setEntry_departed _ _ _ _ _
@[simp] theorem setReg_inputs (s : State) (w : Who) (c : Ctx) (r : Nat) (v : Word) : (s.setReg w c r v).inputs = s.inputs := setEntry_inputs _ _ _ _ _
@[simp] theorem setReg_pending (s : State) (w : Who) (c : Ctx) (r : Nat) (v : Word) : (s.setReg w c r v).pending = s.pending := setEntry_pending _ _ _ _ _
@[simp] theorem setReg_ev (s : State) (w : Who) (c : Ctx) (r : Nat) (v : Word) : (s.setReg w c r v).ev = s.ev := setEntry_ev _ _ _ _ _
@[simp] theorem setReg_cur (s : State) (w : Who) (c : Ctx) (r : Nat) (v : Word) : (s.setReg w c r v).cur = s.cur := setEntry_cur _ _ _ _ _
@[simp] theorem setReg_ir (s : State) (w : Who) (c : Ctx) (r : Nat) (v : Word) : (s.setReg w c r v).ir = s.ir := setEntry_ir _ _ _ _ _
@[simp] theorem setReg_ids (s : State) (w : Who) (c : Ctx) (r : Nat) (v : Word) : (s.setReg w c r v).ids = s.ids := setEntry_ids _ _ _ _ _
@[simp] theorem setReg_picks (s : State) (w : Who) (c : Ctx) (r : Nat) (v : Word) : (s.setReg w c r v).picks = s.picks := setEntry_picks _ _ _ _ _

/-! owe -/
@[simp] theorem owe_rets (s : State) (w : Who) (c : Ctx) (r : Nat) : (s.owe w c r).rets = s.rets := setEntry_rets _ _ _ _ _
@[simp] theorem owe_mem (s : State) (w : Who) (c : Ctx) (r : Nat) : (s.owe w c r).mem = s.mem := setEntry_mem _ _ _ _ _
@[simp] theorem owe_empties (s : State) (w : Who) (c : Ctx) (r : Nat) : (s.owe w c r).empties = s.empties := setEntry_empties _ _ _ _ _
@[simp] theorem owe_poison (s : State) (w : Who) (c : Ctx) (r : Nat) : (s.owe w c r).poison = s.poison := setEntry_poison _ _ _ _ _
@[simp] theorem owe_corrupt (s : State) (w : Who) (c : Ctx) (r : Nat) : (s.owe w c r).corrupt = s.corrupt := setEntry_corrupt _ _ _ _ _
@[simp] theorem owe_soft (s : State) (w : Who) (c : Ctx) (r : Nat) : (s.owe w c r).soft = s.soft := setEntry_soft _ _ _ _ _
@[simp] theorem owe_topo (s : State) (w : Who) (c : Ctx) (r : Nat) : (s.owe w c r).topo = s.topo := setEntry_topo _ _ _ _ _
@[simp] theorem owe_deadPasses (s : State) (w : Who) (c : Ctx) (r : Nat) : (s.owe w c r).deadPasses = s.deadPasses := setEntry_deadPasses _ _ _ _ _
@[simp] theorem owe_drain (s : State) (w : Who) (c : Ctx) (r : Nat) : (s.owe w c r).drain = s.drain := setEntry_drain _ _ _ _ _
@[simp] theorem owe_power (s : State) (w : Who) (c : Ctx) (r : Nat) : (s.owe w c r).power = s.power := setEntry_power _ _ _ _ _
@[simp] theorem owe_outbox (s : State) (w : Who) (c : Ctx) (r : Nat) : (s.owe w c r).outbox = s.outbox := setEntry_outbox _ _ _ _ _
@[simp] theorem owe_hostLog (s : State) (w : Who) (c : Ctx) (r : Nat) : (s.owe w c r).hostLog = s.hostLog := setEntry_hostLog _ _ _ _ _
@[simp] theorem owe_departed (s : State) (w : Who) (c : Ctx) (r : Nat) : (s.owe w c r).departed = s.departed := setEntry_departed _ _ _ _ _
@[simp] theorem owe_inputs (s : State) (w : Who) (c : Ctx) (r : Nat) : (s.owe w c r).inputs = s.inputs := setEntry_inputs _ _ _ _ _
@[simp] theorem owe_pending (s : State) (w : Who) (c : Ctx) (r : Nat) : (s.owe w c r).pending = s.pending := setEntry_pending _ _ _ _ _
@[simp] theorem owe_ev (s : State) (w : Who) (c : Ctx) (r : Nat) : (s.owe w c r).ev = s.ev := setEntry_ev _ _ _ _ _
@[simp] theorem owe_cur (s : State) (w : Who) (c : Ctx) (r : Nat) : (s.owe w c r).cur = s.cur := setEntry_cur _ _ _ _ _
@[simp] theorem owe_ir (s : State) (w : Who) (c : Ctx) (r : Nat) : (s.owe w c r).ir = s.ir := setEntry_ir _ _ _ _ _
@[simp] theorem owe_ids (s : State) (w : Who) (c : Ctx) (r : Nat) : (s.owe w c r).ids = s.ids := setEntry_ids _ _ _ _ _
@[simp] theorem owe_picks (s : State) (w : Who) (c : Ctx) (r : Nat) : (s.owe w c r).picks = s.picks := setEntry_picks _ _ _ _ _

/-! unowe -/
@[simp] theorem unowe_rets (s : State) (w : Who) (c : Ctx) (r : Nat) : (s.unowe w c r).rets = s.rets := setEntry_rets _ _ _ _ _
@[simp] theorem unowe_mem (s : State) (w : Who) (c : Ctx) (r : Nat) : (s.unowe w c r).mem = s.mem := setEntry_mem _ _ _ _ _
@[simp] theorem unowe_empties (s : State) (w : Who) (c : Ctx) (r : Nat) : (s.unowe w c r).empties = s.empties := setEntry_empties _ _ _ _ _
@[simp] theorem unowe_poison (s : State) (w : Who) (c : Ctx) (r : Nat) : (s.unowe w c r).poison = s.poison := setEntry_poison _ _ _ _ _
@[simp] theorem unowe_corrupt (s : State) (w : Who) (c : Ctx) (r : Nat) : (s.unowe w c r).corrupt = s.corrupt := setEntry_corrupt _ _ _ _ _
@[simp] theorem unowe_soft (s : State) (w : Who) (c : Ctx) (r : Nat) : (s.unowe w c r).soft = s.soft := setEntry_soft _ _ _ _ _
@[simp] theorem unowe_topo (s : State) (w : Who) (c : Ctx) (r : Nat) : (s.unowe w c r).topo = s.topo := setEntry_topo _ _ _ _ _
@[simp] theorem unowe_deadPasses (s : State) (w : Who) (c : Ctx) (r : Nat) : (s.unowe w c r).deadPasses = s.deadPasses := setEntry_deadPasses _ _ _ _ _
@[simp] theorem unowe_drain (s : State) (w : Who) (c : Ctx) (r : Nat) : (s.unowe w c r).drain = s.drain := setEntry_drain _ _ _ _ _
@[simp] theorem unowe_power (s : State) (w : Who) (c : Ctx) (r : Nat) : (s.unowe w c r).power = s.power := setEntry_power _ _ _ _ _
@[simp] theorem unowe_outbox (s : State) (w : Who) (c : Ctx) (r : Nat) : (s.unowe w c r).outbox = s.outbox := setEntry_outbox _ _ _ _ _
@[simp] theorem unowe_hostLog (s : State) (w : Who) (c : Ctx) (r : Nat) : (s.unowe w c r).hostLog = s.hostLog := setEntry_hostLog _ _ _ _ _
@[simp] theorem unowe_departed (s : State) (w : Who) (c : Ctx) (r : Nat) : (s.unowe w c r).departed = s.departed := setEntry_departed _ _ _ _ _
@[simp] theorem unowe_inputs (s : State) (w : Who) (c : Ctx) (r : Nat) : (s.unowe w c r).inputs = s.inputs := setEntry_inputs _ _ _ _ _
@[simp] theorem unowe_pending (s : State) (w : Who) (c : Ctx) (r : Nat) : (s.unowe w c r).pending = s.pending := setEntry_pending _ _ _ _ _
@[simp] theorem unowe_ev (s : State) (w : Who) (c : Ctx) (r : Nat) : (s.unowe w c r).ev = s.ev := setEntry_ev _ _ _ _ _
@[simp] theorem unowe_cur (s : State) (w : Who) (c : Ctx) (r : Nat) : (s.unowe w c r).cur = s.cur := setEntry_cur _ _ _ _ _
@[simp] theorem unowe_ir (s : State) (w : Who) (c : Ctx) (r : Nat) : (s.unowe w c r).ir = s.ir := setEntry_ir _ _ _ _ _
@[simp] theorem unowe_ids (s : State) (w : Who) (c : Ctx) (r : Nat) : (s.unowe w c r).ids = s.ids := setEntry_ids _ _ _ _ _
@[simp] theorem unowe_picks (s : State) (w : Who) (c : Ctx) (r : Nat) : (s.unowe w c r).picks = s.picks := setEntry_picks _ _ _ _ _

/-! finish -/
@[simp] theorem finish_rets (s : State) (w : Who) (n k : Nat) : (s.finish w n k).rets = s.rets := modCtx_rets _ _ _
@[simp] theorem finish_mem (s : State) (w : Who) (n k : Nat) : (s.finish w n k).mem = s.mem := modCtx_mem _ _ _
@[simp] theorem finish_empties (s : State) (w : Who) (n k : Nat) : (s.finish w n k).empties = s.empties := modCtx_empties _ _ _
@[simp] theorem finish_poison (s : State) (w : Who) (n k : Nat) : (s.finish w n k).poison = s.poison := modCtx_poison _ _ _
@[simp] theorem finish_corrupt (s : State) (w : Who) (n k : Nat) : (s.finish w n k).corrupt = s.corrupt := modCtx_corrupt _ _ _
@[simp] theorem finish_soft (s : State) (w : Who) (n k : Nat) : (s.finish w n k).soft = s.soft := modCtx_soft _ _ _
@[simp] theorem finish_topo (s : State) (w : Who) (n k : Nat) : (s.finish w n k).topo = s.topo := modCtx_topo _ _ _
@[simp] theorem finish_deadPasses (s : State) (w : Who) (n k : Nat) : (s.finish w n k).deadPasses = s.deadPasses := modCtx_deadPasses _ _ _
@[simp] theorem finish_drain (s : State) (w : Who) (n k : Nat) : (s.finish w n k).drain = s.drain := modCtx_drain _ _ _
@[simp] theorem finish_power (s : State) (w : Who) (n k : Nat) : (s.finish w n k).power = s.power := modCtx_power _ _ _
@[simp] theorem finish_outbox (s : State) (w : Who) (n k : Nat) : (s.finish w n k).outbox = s.outbox := modCtx_outbox _ _ _
@[simp] theorem finish_hostLog (s : State) (w : Who) (n k : Nat) : (s.finish w n k).hostLog = s.hostLog := modCtx_hostLog _ _ _
@[simp] theorem finish_departed (s : State) (w : Who) (n k : Nat) : (s.finish w n k).departed = s.departed := modCtx_departed _ _ _
@[simp] theorem finish_inputs (s : State) (w : Who) (n k : Nat) : (s.finish w n k).inputs = s.inputs := modCtx_inputs _ _ _
@[simp] theorem finish_pending (s : State) (w : Who) (n k : Nat) : (s.finish w n k).pending = s.pending := modCtx_pending _ _ _
@[simp] theorem finish_ev (s : State) (w : Who) (n k : Nat) : (s.finish w n k).ev = s.ev := modCtx_ev _ _ _
@[simp] theorem finish_cur (s : State) (w : Who) (n k : Nat) : (s.finish w n k).cur = s.cur := modCtx_cur _ _ _
@[simp] theorem finish_ir (s : State) (w : Who) (n k : Nat) : (s.finish w n k).ir = s.ir := modCtx_ir _ _ _
@[simp] theorem finish_ids (s : State) (w : Who) (n k : Nat) : (s.finish w n k).ids = s.ids := modCtx_ids _ _ _
@[simp] theorem finish_picks (s : State) (w : Who) (n k : Nat) : (s.finish w n k).picks = s.picks := modCtx_picks _ _ _

/-! finishTo -/
@[simp] theorem finishTo_rets (s : State) (w : Who) (p : Word) (k : Nat) : (s.finishTo w p k).rets = s.rets := modCtx_rets _ _ _
@[simp] theorem finishTo_mem (s : State) (w : Who) (p : Word) (k : Nat) : (s.finishTo w p k).mem = s.mem := modCtx_mem _ _ _
@[simp] theorem finishTo_empties (s : State) (w : Who) (p : Word) (k : Nat) : (s.finishTo w p k).empties = s.empties := modCtx_empties _ _ _
@[simp] theorem finishTo_poison (s : State) (w : Who) (p : Word) (k : Nat) : (s.finishTo w p k).poison = s.poison := modCtx_poison _ _ _
@[simp] theorem finishTo_corrupt (s : State) (w : Who) (p : Word) (k : Nat) : (s.finishTo w p k).corrupt = s.corrupt := modCtx_corrupt _ _ _
@[simp] theorem finishTo_soft (s : State) (w : Who) (p : Word) (k : Nat) : (s.finishTo w p k).soft = s.soft := modCtx_soft _ _ _
@[simp] theorem finishTo_topo (s : State) (w : Who) (p : Word) (k : Nat) : (s.finishTo w p k).topo = s.topo := modCtx_topo _ _ _
@[simp] theorem finishTo_deadPasses (s : State) (w : Who) (p : Word) (k : Nat) : (s.finishTo w p k).deadPasses = s.deadPasses := modCtx_deadPasses _ _ _
@[simp] theorem finishTo_drain (s : State) (w : Who) (p : Word) (k : Nat) : (s.finishTo w p k).drain = s.drain := modCtx_drain _ _ _
@[simp] theorem finishTo_power (s : State) (w : Who) (p : Word) (k : Nat) : (s.finishTo w p k).power = s.power := modCtx_power _ _ _
@[simp] theorem finishTo_outbox (s : State) (w : Who) (p : Word) (k : Nat) : (s.finishTo w p k).outbox = s.outbox := modCtx_outbox _ _ _
@[simp] theorem finishTo_hostLog (s : State) (w : Who) (p : Word) (k : Nat) : (s.finishTo w p k).hostLog = s.hostLog := modCtx_hostLog _ _ _
@[simp] theorem finishTo_departed (s : State) (w : Who) (p : Word) (k : Nat) : (s.finishTo w p k).departed = s.departed := modCtx_departed _ _ _
@[simp] theorem finishTo_inputs (s : State) (w : Who) (p : Word) (k : Nat) : (s.finishTo w p k).inputs = s.inputs := modCtx_inputs _ _ _
@[simp] theorem finishTo_pending (s : State) (w : Who) (p : Word) (k : Nat) : (s.finishTo w p k).pending = s.pending := modCtx_pending _ _ _
@[simp] theorem finishTo_ev (s : State) (w : Who) (p : Word) (k : Nat) : (s.finishTo w p k).ev = s.ev := modCtx_ev _ _ _
@[simp] theorem finishTo_cur (s : State) (w : Who) (p : Word) (k : Nat) : (s.finishTo w p k).cur = s.cur := modCtx_cur _ _ _
@[simp] theorem finishTo_ir (s : State) (w : Who) (p : Word) (k : Nat) : (s.finishTo w p k).ir = s.ir := modCtx_ir _ _ _
@[simp] theorem finishTo_ids (s : State) (w : Who) (p : Word) (k : Nat) : (s.finishTo w p k).ids = s.ids := modCtx_ids _ _ _
@[simp] theorem finishTo_picks (s : State) (w : Who) (p : Word) (k : Nat) : (s.finishTo w p k).picks = s.picks := modCtx_picks _ _ _

/-! park -/
@[simp] theorem park_rets (s : State) (w : Who) (p : Park) : (s.park w p).rets = s.rets := modCtx_rets _ _ _
@[simp] theorem park_mem (s : State) (w : Who) (p : Park) : (s.park w p).mem = s.mem := modCtx_mem _ _ _
@[simp] theorem park_empties (s : State) (w : Who) (p : Park) : (s.park w p).empties = s.empties := modCtx_empties _ _ _
@[simp] theorem park_poison (s : State) (w : Who) (p : Park) : (s.park w p).poison = s.poison := modCtx_poison _ _ _
@[simp] theorem park_corrupt (s : State) (w : Who) (p : Park) : (s.park w p).corrupt = s.corrupt := modCtx_corrupt _ _ _
@[simp] theorem park_soft (s : State) (w : Who) (p : Park) : (s.park w p).soft = s.soft := modCtx_soft _ _ _
@[simp] theorem park_topo (s : State) (w : Who) (p : Park) : (s.park w p).topo = s.topo := modCtx_topo _ _ _
@[simp] theorem park_deadPasses (s : State) (w : Who) (p : Park) : (s.park w p).deadPasses = s.deadPasses := modCtx_deadPasses _ _ _
@[simp] theorem park_drain (s : State) (w : Who) (p : Park) : (s.park w p).drain = s.drain := modCtx_drain _ _ _
@[simp] theorem park_power (s : State) (w : Who) (p : Park) : (s.park w p).power = s.power := modCtx_power _ _ _
@[simp] theorem park_outbox (s : State) (w : Who) (p : Park) : (s.park w p).outbox = s.outbox := modCtx_outbox _ _ _
@[simp] theorem park_hostLog (s : State) (w : Who) (p : Park) : (s.park w p).hostLog = s.hostLog := modCtx_hostLog _ _ _
@[simp] theorem park_departed (s : State) (w : Who) (p : Park) : (s.park w p).departed = s.departed := modCtx_departed _ _ _
@[simp] theorem park_inputs (s : State) (w : Who) (p : Park) : (s.park w p).inputs = s.inputs := modCtx_inputs _ _ _
@[simp] theorem park_pending (s : State) (w : Who) (p : Park) : (s.park w p).pending = s.pending := modCtx_pending _ _ _
@[simp] theorem park_ev (s : State) (w : Who) (p : Park) : (s.park w p).ev = s.ev := modCtx_ev _ _ _
@[simp] theorem park_cur (s : State) (w : Who) (p : Park) : (s.park w p).cur = s.cur := modCtx_cur _ _ _
@[simp] theorem park_ir (s : State) (w : Who) (p : Park) : (s.park w p).ir = s.ir := modCtx_ir _ _ _
@[simp] theorem park_ids (s : State) (w : Who) (p : Park) : (s.park w p).ids = s.ids := modCtx_ids _ _ _
@[simp] theorem park_picks (s : State) (w : Who) (p : Park) : (s.park w p).picks = s.picks := modCtx_picks _ _ _

/-! wake -/
@[simp] theorem wake_rets (s : State) (w : Who) : (s.wake w).rets = s.rets := modCtx_rets _ _ _
@[simp] theorem wake_mem (s : State) (w : Who) : (s.wake w).mem = s.mem := modCtx_mem _ _ _
@[simp] theorem wake_empties (s : State) (w : Who) : (s.wake w).empties = s.empties := modCtx_empties _ _ _
@[simp] theorem wake_poison (s : State) (w : Who) : (s.wake w).poison = s.poison := modCtx_poison _ _ _
@[simp] theorem wake_corrupt (s : State) (w : Who) : (s.wake w).corrupt = s.corrupt := modCtx_corrupt _ _ _
@[simp] theorem wake_soft (s : State) (w : Who) : (s.wake w).soft = s.soft := modCtx_soft _ _ _
@[simp] theorem wake_topo (s : State) (w : Who) : (s.wake w).topo = s.topo := modCtx_topo _ _ _
@[simp] theorem wake_deadPasses (s : State) (w : Who) : (s.wake w).deadPasses = s.deadPasses := modCtx_deadPasses _ _ _
@[simp] theorem wake_drain (s : State) (w : Who) : (s.wake w).drain = s.drain := modCtx_drain _ _ _
@[simp] theorem wake_power (s : State) (w : Who) : (s.wake w).power = s.power := modCtx_power _ _ _
@[simp] theorem wake_outbox (s : State) (w : Who) : (s.wake w).outbox = s.outbox := modCtx_outbox _ _ _
@[simp] theorem wake_hostLog (s : State) (w : Who) : (s.wake w).hostLog = s.hostLog := modCtx_hostLog _ _ _
@[simp] theorem wake_departed (s : State) (w : Who) : (s.wake w).departed = s.departed := modCtx_departed _ _ _
@[simp] theorem wake_inputs (s : State) (w : Who) : (s.wake w).inputs = s.inputs := modCtx_inputs _ _ _
@[simp] theorem wake_pending (s : State) (w : Who) : (s.wake w).pending = s.pending := modCtx_pending _ _ _
@[simp] theorem wake_ev (s : State) (w : Who) : (s.wake w).ev = s.ev := modCtx_ev _ _ _
@[simp] theorem wake_cur (s : State) (w : Who) : (s.wake w).cur = s.cur := modCtx_cur _ _ _
@[simp] theorem wake_ir (s : State) (w : Who) : (s.wake w).ir = s.ir := modCtx_ir _ _ _
@[simp] theorem wake_ids (s : State) (w : Who) : (s.wake w).ids = s.ids := modCtx_ids _ _ _
@[simp] theorem wake_picks (s : State) (w : Who) : (s.wake w).picks = s.picks := modCtx_picks _ _ _

/-! Cores and reticles after an update. -/
@[simp] theorem core_setCore (s : State) (c : Nat) (k : Core) : (s.setCore c k).core c = k := by
  simp [State.core, State.setCore]
theorem core_setCore_ne (s : State) {c d : Nat} (k : Core) (h : d ≠ c) : (s.setCore c k).core d = s.core d := by
  simp [State.core, State.setCore, mget_mput_ne h]
@[simp] theorem core_modCore (s : State) (c : Nat) (f : Core → Core) : (s.modCore c f).core c = f (s.core c) := core_setCore _ _ _
theorem core_modCore_ne (s : State) {c d : Nat} (f : Core → Core) (h : d ≠ c) : (s.modCore c f).core d = s.core d :=
  core_setCore_ne _ _ h
@[simp] theorem core_setRet (s : State) (r c : Nat) (k : Ret) : (s.setRet r k).core c = s.core c := rfl
@[simp] theorem core_modRet (s : State) (r c : Nat) (f : Ret → Ret) : (s.modRet r f).core c = s.core c := rfl
@[simp] theorem core_push (s : State) (e : Ev) (c : Nat) : (s.push e).core c = s.core c := rfl
@[simp] theorem core_pushAll (s : State) (l : List Ev) (c : Nat) : (s.pushAll l).core c = s.core c := rfl
@[simp] theorem reticle_setRet (s : State) (r : Nat) (k : Ret) : (s.setRet r k).reticle r = k := by
  simp [State.reticle, State.setRet]
theorem reticle_setRet_ne (s : State) {r q : Nat} (k : Ret) (h : q ≠ r) : (s.setRet r k).reticle q = s.reticle q := by
  simp [State.reticle, State.setRet, mget_mput_ne h]
@[simp] theorem reticle_modRet (s : State) (r : Nat) (f : Ret → Ret) : (s.modRet r f).reticle r = f (s.reticle r) :=
  reticle_setRet _ _ _
theorem reticle_modRet_ne (s : State) {r q : Nat} (f : Ret → Ret) (h : q ≠ r) : (s.modRet r f).reticle q = s.reticle q :=
  reticle_setRet_ne _ _ h
theorem reticle_of_rets {s t : State} (h : t.rets = s.rets) (r : Nat) : t.reticle r = s.reticle r := by
  simp [State.reticle, h]
theorem now_of_rets {s t : State} (h : t.rets = s.rets) (c : Nat) : t.now c = s.now c := by
  simp [State.now, reticle_of_rets h]

/-! Contexts after an update. -/
theorem ctx?_of_core {s t : State} {w : Who} (h : t.core w.core = s.core w.core) : t.ctx? w = s.ctx? w := by
  simp [State.ctx?, h]
@[simp] theorem ctx?_setCtx (s : State) (w : Who) (c : Ctx) : (s.setCtx w c).ctx? w = some c := by
  simp [State.ctx?, State.setCtx]
theorem ctx?_setCtx_ne (s : State) {w v : Who} (c : Ctx) (h : v ≠ w) : (s.setCtx w c).ctx? v = s.ctx? v := by
  by_cases hc : v.core = w.core
  · have : v.slot ≠ w.slot := fun e => h (by cases v; cases w; simp_all)
    simp [State.ctx?, State.setCtx, hc, mget_mput_ne this]
  · exact ctx?_of_core (core_modCore_ne _ _ hc)
theorem ctx?_modCtx (s : State) {w : Who} {c : Ctx} (f : Ctx → Ctx) (h : s.ctx? w = some c) : (s.modCtx w f).ctx? w = some (f c) := by
  simp [State.modCtx, h]
theorem modCtx_eq (s : State) {w : Who} {c : Ctx} (f : Ctx → Ctx) (h : s.ctx? w = some c) : s.modCtx w f = s.setCtx w (f c) := by
  simp [State.modCtx, h]
theorem modCtx_none (s : State) {w : Who} (f : Ctx → Ctx) (h : s.ctx? w = none) : s.modCtx w f = s := by
  simp [State.modCtx, h]
theorem ctx?_modCtx_ne (s : State) {w v : Who} (f : Ctx → Ctx) (h : v ≠ w) : (s.modCtx w f).ctx? v = s.ctx? v := by
  unfold State.modCtx; split
  · rfl
  · exact ctx?_setCtx_ne _ _ h
@[simp] theorem ctx?_push (s : State) (e : Ev) (w : Who) : (s.push e).ctx? w = s.ctx? w := rfl
@[simp] theorem ctx?_pushAll (s : State) (l : List Ev) (w : Who) : (s.pushAll l).ctx? w = s.ctx? w := rfl
@[simp] theorem gen_push (s : State) (e : Ev) (w : Who) : (s.push e).gen w = s.gen w := rfl
@[simp] theorem gen_setCtx (s : State) (w v : Who) (c : Ctx) : (s.setCtx w c).gen v = s.gen v := by
  by_cases h : v.core = w.core
  · simp [State.gen, State.setCtx, h]
  · simp [State.gen, State.setCtx, core_modCore_ne _ _ h]
@[simp] theorem gen_modCtx (s : State) (w v : Who) (f : Ctx → Ctx) : (s.modCtx w f).gen v = s.gen v := by
  unfold State.modCtx; split <;> simp

/-! Registers after an update. -/

theorem regEntry_eq (s : State) (w : Who) (c : Ctx) {r : Nat} (h : r ≠ 0) : s.regEntry w c r = s.fileEntry w.core (c.base + r) := by
  simp [State.regEntry, Ctx.entry, h]
@[simp] theorem regEntry_zero (s : State) (w : Who) (c : Ctx) : s.regEntry w c 0 = RegEntry.stripped := rfl
@[simp] theorem reg_zero (s : State) (w : Who) (c : Ctx) : s.reg w c 0 = 0 := rfl
@[simp] theorem setEntry_zero (s : State) (w : Who) (c : Ctx) (e : RegEntry) : s.setEntry w c 0 e = s := rfl
@[simp] theorem setReg_zero (s : State) (w : Who) (c : Ctx) (v : Word) : s.setReg w c 0 v = s := rfl
theorem fileEntry_setEntry (s : State) (w : Who) (c : Ctx) {r : Nat} (e : RegEntry) (h : r ≠ 0) (k j : Nat) :
    (s.setEntry w c r e).fileEntry k j = if k = w.core ∧ j = c.base + r then e else s.fileEntry k j := by
  by_cases hk : k = w.core
  · subst hk
    simp [State.fileEntry, State.setEntry, h, getD_mget_mset, Ctx.entry]
  · simp [State.fileEntry, State.setEntry, h, core_modCore_ne _ _ hk, hk]
theorem regEntry_setEntry (s : State) (w : Who) (c : Ctx) (r q : Nat) (e : RegEntry) :
    (s.setEntry w c r e).regEntry w c q = if q = r ∧ r ≠ 0 then e else s.regEntry w c q := by
  by_cases hq : q = 0
  · subst hq; by_cases hr : r = 0 <;> simp [hr]; intro h; exact absurd h.symm hr
  · rw [regEntry_eq _ _ _ hq, regEntry_eq _ _ _ hq]
    by_cases hr : r = 0
    · simp [hr]
    · simp [fileEntry_setEntry, hr]
theorem regEntry_setReg (s : State) (w : Who) (c : Ctx) (r q : Nat) (v : Word) :
    (s.setReg w c r v).regEntry w c q =
      if q = r ∧ r ≠ 0 then { val := v, pres := .present, bad := false } else s.regEntry w c q := regEntry_setEntry _ _ _ _ _ _
theorem reg_setReg (s : State) (w : Who) (c : Ctx) (r q : Nat) (v : Word) :
    (s.setReg w c r v).reg w c q = if q = r ∧ r ≠ 0 then v else s.reg w c q := by
  unfold State.reg; rw [regEntry_setReg]; split <;> rfl
theorem core_setEntry_ne (s : State) (w : Who) (c : Ctx) (r : Nat) (e : RegEntry) {k : Nat} (h : k ≠ w.core) :
    (s.setEntry w c r e).core k = s.core k := by
  unfold State.setEntry; split
  · rfl
  · exact core_modCore_ne _ _ h
@[simp] theorem slots_setEntry (s : State) (w : Who) (c : Ctx) (r : Nat) (e : RegEntry) (k : Nat) :
    ((s.setEntry w c r e).core k).slots = (s.core k).slots := by
  by_cases h : k = w.core
  · subst h; unfold State.setEntry; split <;> simp
  · rw [core_setEntry_ne _ _ _ _ _ h]
@[simp] theorem ctx?_setEntry (s : State) (w v : Who) (c : Ctx) (r : Nat) (e : RegEntry) : (s.setEntry w c r e).ctx? v = s.ctx? v := by
  simp [State.ctx?]
@[simp] theorem ctx?_setReg (s : State) (w v : Who) (c : Ctx) (r : Nat) (x : Word) : (s.setReg w c r x).ctx? v = s.ctx? v :=
  ctx?_setEntry _ _ _ _ _ _
@[simp] theorem ctx?_owe (s : State) (w v : Who) (c : Ctx) (r : Nat) : (s.owe w c r).ctx? v = s.ctx? v := ctx?_setEntry _ _ _ _ _ _
@[simp] theorem fileEntry_setCtx (s : State) (w : Who) (c : Ctx) (k e : Nat) : (s.setCtx w c).fileEntry k e = s.fileEntry k e := by
  by_cases h : k = w.core
  · subst h; simp [State.fileEntry, State.setCtx]
  · simp [State.fileEntry, State.setCtx, core_modCore_ne _ _ h]
@[simp] theorem fileEntry_modCtx (s : State) (w : Who) (f : Ctx → Ctx) (k e : Nat) : (s.modCtx w f).fileEntry k e = s.fileEntry k e := by
  unfold State.modCtx; split <;> simp
@[simp] theorem regEntry_setCtx (s : State) (w v : Who) (c x : Ctx) (r : Nat) : (s.setCtx w c).regEntry v x r = s.regEntry v x r := by
  by_cases h : r = 0
  · simp [h]
  · rw [regEntry_eq _ _ _ h, regEntry_eq _ _ _ h, fileEntry_setCtx]
@[simp] theorem regEntry_modCtx (s : State) (w v : Who) (f : Ctx → Ctx) (x : Ctx) (r : Nat) :
    (s.modCtx w f).regEntry v x r = s.regEntry v x r := by
  unfold State.modCtx; split <;> simp

/-! Control blocks after a write. -/
@[simp] theorem cb_setCb (s : State) (c o : Nat) (v : Word) : (s.setCb c o v).cb c o = v := by simp [State.cb, State.setCb]
theorem cb_setCb_ne (s : State) {c d o p : Nat} (v : Word) (h : d ≠ c ∨ p ≠ o) : (s.setCb c o v).cb d p = s.cb d p := by
  by_cases hd : d = c
  · subst hd; simp [State.cb, State.setCb, mget_mput_ne (h.resolve_left (· rfl))]
  · simp [State.cb, State.setCb, core_modCore_ne _ _ hd]
@[simp] theorem rcb_setRcb (s : State) (r o : Nat) (v : Word) : (s.setRcb r o v).rcb r o = v := by simp [State.rcb, State.setRcb]
theorem rcb_setRcb_ne (s : State) {r q o p : Nat} (v : Word) (h : q ≠ r ∨ p ≠ o) : (s.setRcb r o v).rcb q p = s.rcb q p := by
  by_cases hq : q = r
  · subst hq; simp [State.rcb, State.setRcb, mget_mput_ne (h.resolve_left (· rfl))]
  · simp [State.rcb, State.setRcb, reticle_modRet_ne _ _ hq]

/-! FE bits. -/
theorem full_setFull (s : State) (a b : Nat) (f : Bool) : (s.setFull a f).full b = if b = a then f else s.full b := by
  have := @mem_sset b a (!f) s.empties
  by_cases h : b = a <;> cases f <;> simp_all [State.full, State.setFull]

end Sys2Proof.Machine
end

