-- ==== Sys2Proof/Laws/Results.lean ====
section
/-! SUPPORT. What the shared frames of instructions come to when nothing stands in their way, and what finishing changes. -/
namespace Sys2Proof.Machine

theorem onCtx_issues {s : State} {w : Who} {c : Ctx} (h : Issues s w c) (k : Who → Ctx → Out) : onCtx s k = k w c := by
  simp [onCtx, h.cur, h.ctx, h.ready]

theorem Usable.mono {s : State} {w : Who} {c : Ctx} {rs qs : List Reg} (h : Usable s w c rs) (hs : ∀ r ∈ qs, r ∈ rs) : Usable s w c qs :=
  fun r hr => h r (hs r hr)

/-- Registers that can be used do not stop an instruction. -/
theorem needRegs_usable {s : State} {w : Who} {c : Ctx} {rs : List Reg} {d : Option Reg} (h : Usable s w c (rs ++ d.toList)) (k : Out) :
    needRegs s w c rs d k = k := by
  have h1 : (regNums (rs ++ d.toList)).any (fun r => decide (c.lim ≤ r)) = false := by
    simp only [regNums, List.any_map, List.any_eq_false, Function.comp, decide_eq_true_eq]
    intro r hr; have := (h r hr).1; omega
  have h2 : (regNums rs).find? (fun r => (s.regEntry w c r).bad) = none := by
    simp only [regNums, List.find?_eq_none, List.mem_map]
    rintro _ ⟨r, hr, rfl⟩; simp [(h r (List.mem_append_left _ hr)).2.1]
  have h3 : (regNums (rs ++ d.toList)).all (fun r => (s.regEntry w c r).pres == .present) = true := by
    simp only [regNums, List.all_map, List.all_eq_true, Function.comp]
    intro r hr; simp [(h r hr).2.2]
  simp only [needRegs, h1, h2, h3, Bool.false_eq_true, if_false, if_true]

theorem Changes.refl (s : State) {w : Who} {c : Ctx} (h : s.ctx? w = some c) (es : List Nat) : Changes s s w c es :=
  ⟨h, rfl, fun _ _ => rfl, rfl, fun _ _ => rfl, fun _ _ => rfl⟩

theorem Changes.setCtx {s t : State} {w : Who} {c : Ctx} {es : List Nat} (h : Changes s t w c es) (c' : Ctx) :
    Changes s (t.setCtx w c') w c' es where
  ctx := by simp
  rest := h.rest
  cores := fun k hk => by rw [← h.cores k hk]; exact core_modCore_ne _ _ hk
  core := by simp only [State.setCtx, core_modCore]; exact h.core
  slots := fun v hv => by rw [ctx?_setCtx_ne _ _ hv]; exact h.slots v hv
  file := fun e he => by rw [fileEntry_setCtx]; exact h.file e he

theorem Changes.modCtx {s t : State} {w : Who} {c : Ctx} {es : List Nat} (h : Changes s t w c es) (f : Ctx → Ctx) :
    Changes s (t.modCtx w f) w (f c) es := by
  rw [modCtx_eq _ _ h.ctx]; exact h.setCtx _

theorem Changes.setEntry {s t : State} {w : Who} {c : Ctx} {es : List Nat} (h : Changes s t w c es) (x : Ctx) (d : Reg)
    (e : RegEntry) (hd : ∀ j ∈ x.touches d, j ∈ es) : Changes s (t.setEntry w x d.toNat e) w c es := by
  by_cases h0 : d = 0
  · subst h0; exact h
  have hn : d.toNat ≠ 0 := fun e => h0 (BitVec.eq_of_toNat_eq (by simpa using e))
  have hm : x.entry d.toNat ∈ es := hd _ (by rw [Ctx.touches, if_neg h0]; exact List.mem_singleton.2 rfl)
  constructor
  · simp [h.ctx]
  · have : ({ t.setEntry w x d.toNat e with cores := s.cores } : State) = { t with cores := s.cores } := by
      unfold State.setEntry; split <;> rfl
    rw [this]; exact h.rest
  · intro k hk; rw [core_setEntry_ne _ _ _ _ _ hk]; exact h.cores k hk
  · simp only [State.setEntry, hn, if_false, core_modCore]; exact h.core
  · intro v hv; simp [h.slots v hv]
  · intro j hj
    rw [fileEntry_setEntry _ _ _ _ hn, if_neg, h.file j hj]
    rintro ⟨-, rfl⟩; exact hj hm

theorem Changes.setReg {s t : State} {w : Who} {c : Ctx} {es : List Nat} (h : Changes s t w c es) (x : Ctx) (d : Reg)
    (v : Word) (hd : ∀ j ∈ x.touches d, j ∈ es) : Changes s (t.setReg w x d.toNat v) w c es := h.setEntry x d _ hd

theorem Changes.finish {s t : State} {w : Who} {c : Ctx} {es : List Nat} (h : Changes s t w c es) (n k : Nat) :
    Changes s (t.finish w n k) w (c.finished (s.now w.core) n k) es := by
  have hr : t.rets = s.rets := (congrArg State.rets h.rest : _)
  have : t.now w.core = s.now w.core := now_of_rets hr _
  rw [← this]; exact h.modCtx _

theorem regEntry_base (s : State) (w : Who) {c x : Ctx} (h : c.base = x.base) (r : Nat) : s.regEntry w c r = s.regEntry w x r := by
  simp [State.regEntry, Ctx.entry, h]

theorem regEntry_finish (s : State) (w v : Who) (n k : Nat) (x : Ctx) (r : Nat) :
    (s.finish w n k).regEntry v x r = s.regEntry v x r := regEntry_modCtx _ _ _ _ _ _

theorem toNat_ne_zero {d : Reg} (h : d ≠ 0) : d.toNat ≠ 0 := fun e => h (BitVec.eq_of_toNat_eq (by simpa using e))

/-- A register written and the instruction finished. -/
theorem writes_setReg_finish {s : State} {w : Who} {c : Ctx} (h : s.ctx? w = some c) (d : Reg) (v : Word) (n k : Nat) (i : Instr)
    (he : exec i s = .next ((s.setReg w c d.toNat v).finish w n k)) : Writes i s w c (c.finished (s.now w.core) n k) d v := by
  refine ⟨_, he, (((Changes.refl s h _).setReg c d v fun _ hj => hj).finish n k), fun hd => ?_⟩
  rw [regEntry_finish, regEntry_base _ _ (finished_base c _ _ _), regEntry_setReg]
  simp [toNat_ne_zero hd]

theorem scalar_writes {s : State} {w : Who} {c : Ctx} (h : Issues s w c) {srcs : List Reg} {d : Reg} (hu : Usable s w c (srcs ++ [d]))
    (k : Nat) (f : (Reg → Word) → Word) (i : Instr) (he : exec i s = scalar s srcs d k f) :
    Writes i s w c (c.finished (s.now w.core) 1 k) d (f fun r => s.reg w c r.toNat) := by
  apply writes_setReg_finish h.ctx
  rw [he, scalar, onCtx_issues h, needRegs_usable (d := some d) hu]

end Sys2Proof.Machine
end

