-- ==== Sys2Proof/Tests/Slice0.lean ====
section
/-! SUPPORT. Tests of the model's own: words of spec/03 decoded, terms that are refused, single steps, and for every claim with hypotheses
states that meet them. -/
namespace Sys2Proof.Tests
open Sys2Proof Sys2Proof.Machine

/-! States to test on: one live reticle of one partition, a context in slot 3 of its tile (0, 0). -/

/-- The slot under test. -/
def wt : Who := { core := 0, slot := 3 }
/-- A context of mode `m` with 32 registers from entry 0, PC 0x1000. -/
def ctxAs (k : CtxKind) (m : Mode) : Ctx := Ctx.fresh k m 1 5 0 32 0x1000
/-- In U. -/
def cu : Ctx := ctxAs .resident .u
/-- In S. -/
def cs : Ctx := ctxAs .resident .s
/-- In F, whose addresses are physical and whose accesses every table admits after reset. -/
def cf : Ctx := ctxAs .resident .f
/-- Reticles 0 and 1 live with all devices and joined, in partition 1; trap vectors of tile (0, 0) valid. -/
def world : State :=
  let s : State := { State.reset with
    topo := mput 0x2000 (BitVec.ofNat 64 (2 ^ 63)) (mput 0x2040 0xA000FFF000000000 (mput 0x2080 0x8800FFF000000000 []))
    cur := wt, ir := 0xDEAD0000 }
  ((s.setRcb 0 0x0700 0x8000000000000001).setRcb 1 0x0700 0x8000000000000001).setCb 0 0x0800 0x4001 |>.setCb 0 0x0808 0x5001
/-- The context `c` in the slot under test, with registers. -/
def st (c : Ctx) (rs : List (Nat × Word)) : State := rs.foldl (fun s r => s.setReg wt c r.1 r.2) (world.setCtx wt c)
/-- Registers that are usable, decided. -/
def usable (s : State) (w : Who) (c : Ctx) (rs : List Reg) : Bool :=
  rs.all fun r => decide (r.toNat < c.lim) && !(s.regEntry w c r.toNat).bad && (s.regEntry w c r.toNat).pres == .present

/-- The decision is right. -/
theorem usable_of (s : State) (w : Who) (c : Ctx) (rs : List Reg) (h : usable s w c rs = true) : Usable s w c rs := by
  intro r hr
  have := List.all_eq_true.mp h r hr
  simp only [Bool.and_eq_true, decide_eq_true_eq, Bool.not_eq_true', beq_iff_eq] at this
  exact ⟨this.1.1, this.1.2, this.2⟩

/-! Words written out field by field from the encodings of spec/03 (R54 to R73). -/

/-- Majors 0x01 to 0x03: d, a, b, fn. -/
theorem test_decode_alu : decodeWord 0b000001_0000101_0000110_0000011_01110 0 = .ok (.adds 5 6 3) ∧
    decodeWord 0b000010_0000101_0000110_0000011_00100 0 = .ok (.divn 5 6 3) ∧
    decodeWord 0b000011_0000101_0000110_0000000_00010 0 = .ok (.popc 5 6) ∧
    decodeWord 0b000011_0000101_0000110_0000011_00111 0 = .ok (.bfi 5 6 3) ∧
    decodeWord 0b000011_0000101_0000110_0000011_00010 0 = .error .rsvfld ∧
    decodeWord 0b000010_0000101_0000110_0000011_00111 0 = .error .illop := by (repeat' apply And.intro) <;> rfl
/-- Majors 0x04 to 0x08: d, a, imm12. -/
theorem test_decode_immediate : decodeWord 0b000100_0000101_0000110_100000000001 0 = .ok (.addi 5 6 0x801) ∧
    decodeWord 0b000101_0000101_0000110_100000000001 0 = .ok (.andi 5 6 0x801) ∧
    decodeWord 0b000110_0000101_0000110_100000000001 0 = .ok (.ori 5 6 0x801) ∧
    decodeWord 0b000111_0000101_0000110_100000000001 0 = .ok (.xori 5 6 0x801) ∧
    decodeWord 0b001000_0000101_0000110_0011_00_101010 0 = .ok (.roli 5 6 42) ∧
    decodeWord 0b001000_0000101_0000110_0100_00_101010 0 = .error .illop ∧
    decodeWord 0b001000_0000101_0000110_0010_01_101010 0 = .error .rsvfld := by (repeat' apply And.intro) <;> rfl
/-- Majors 0x09 to 0x0E: predicates, wide immediates, SEL, PLOG. -/
theorem test_decode_predicate : decodeWord 0b001001_010_0011_0000110_0000111_00000 0 = .ok (.cmp 2 3 6 7) ∧
    decodeWord 0b001001_010_0011_0000110_0000111_00001 0 = .error .rsvfld ∧
    decodeWord 0b001010_101_0011_0000110_111111111111 0 = .ok (.cmpi 5 3 6 0xFFF) ∧
    decodeWord 0b001011_0000101_1000000000000000011 0 = .ok (.lui 5 0x40003) ∧
    decodeWord 0b001100_0000101_1000000000000000011 0 = .ok (.addpc 5 0x40003) ∧
    decodeWord 0b001101_0000101_0000110_0000111_1_0010 0 = .ok (.sel 5 6 7 1 2) ∧
    decodeWord 0b001110_000_0101_000_0110_000_0111_00011 0 = .ok (.plog 5 6 7 3) ∧
    decodeWord 0b001110_000_0101_000_0110_000_0111_01000 0 = .error .illop ∧
    decodeWord 0b001110_001_0101_000_0110_000_0111_00011 0 = .error .rsvfld := by (repeat' apply And.intro) <;> rfl
/-- Majors 0x0F and 0x10: control registers. -/
theorem test_decode_control_register : decodeWord 0b001111_0000101_0000000_0000_00001000 0 = .ok (.crd 5 8) ∧
    decodeWord 0b010000_0000000_0000110_0000_00010000 0 = .ok (.cwr 6 16) ∧
    decodeWord 0b001111_0000101_0000000_0000_00010001 0 = .error .illop ∧
    decodeWord 0b010000_0000001_0000110_0000_00010000 0 = .error .rsvfld := by (repeat' apply And.intro) <;> rfl
/-- Majors 0x11 to 0x13: floating point. -/
theorem test_decode_float : decodeWord 0b010001_0000101_0000110_0000111_011_10 0 = .ok (.ffma 5 6 7 2) ∧
    decodeWord 0b010001_0000101_0000110_0000111_110_00 0 = .ok (.fsgn 5 6 7) ∧
    decodeWord 0b010001_0000101_0000110_0000111_100_01 0 = .error .rsvfld ∧
    decodeWord 0b010001_0000101_0000110_0000111_110_11 0 = .error .illop ∧
    decodeWord 0b010010_0000101_0000110_0000000_011_11 0 = .ok (.frsq 5 6 3) ∧
    decodeWord 0b010010_011_0101_0000110_0000111_111_00 0 = .ok (.fcmp 3 5 6 7) ∧
    decodeWord 0b010010_110_0101_0000110_0000111_111_00 0 = .error .illop ∧
    decodeWord 0b010011_0000101_0000110_0110_0100_01_00 0 = .ok (.fcvt 5 6 6 4 1) ∧
    decodeWord 0b010011_0000101_0000110_0001_0010_01_00 0 = .error .illop ∧
    decodeWord 0b010011_0000101_0000110_0110_0100_01_01 0 = .error .rsvfld := by (repeat' apply And.intro) <;> rfl
/-- Majors 0x14 to 0x18: transfers, frames, threads. -/
theorem test_decode_control : decodeWord 0b010100_0101_1_0_10000000000000000001 0 = .ok (.br 5 1 0x80001) ∧
    decodeWord 0b010100_0000_1_0_10000000000000000001 0 = .error .illop ∧
    decodeWord 0b010101_0000101_0000000000000000111 0 = .ok (.call 5 7) ∧
    decodeWord 0b010110_0000101_0000110_000000000111 0 = .ok (.jr 5 6 7) ∧
    decodeWord 0b010111_0011_010_110_0_000000000000101 0 = .ok (.repfConstant 3 2 6 5) ∧
    decodeWord 0b010111_0011_010_110_1_0000101_00000000 0 = .ok (.repfRegister 3 2 6 5) ∧
    decodeWord 0b010111_0011_010_110_1_0000101_00000001 0 = .error .rsvfld ∧
    decodeWord 0b011000_0000000_0000000_0000000_00010 0 = .ok .exit ∧
    decodeWord 0b011000_0000000_0000110_0000000_00100 0 = .ok (.tstop 6) := by (repeat' apply And.intro) <;> rfl
/-- Majors 0x19 to 0x1E: memory. -/
theorem test_decode_memory : decodeWord 0b011001_0000101_0000110_10_1_100000001 0 = .ok (.ld 5 6 2 1 0x101) ∧
    decodeWord 0b011001_0000101_0000110_11_1_100000001 0 = .error .rsvfld ∧
    decodeWord 0b011010_0000101_0000110_01_0_100000001 0 = .ok (.st 5 6 1 0x101) ∧
    decodeWord 0b011011_0000101_0000110_010_100000001 0 = .ok (.stef 5 6 0x101) ∧
    decodeWord 0b011011_0000101_0000110_111_100000001 0 = .error .illop ∧
    decodeWord 0b011100_0000000_0000110_0000111_1000_0 0 = .ok (.amo 6 7 8) ∧
    decodeWord 0b011100_0000101_0000110_0000111_1001_0 0 = .error .illop ∧
    decodeWord 0b011101_0000000_0000110_0000111_1010_0 0 = .ok (.red 6 7 10) ∧
    decodeWord 0b011101_0000000_0000110_0000111_1000_0 0 = .error .illop ∧
    decodeWord 0b011110_0001_0010_0011_0100_00000_00011 0 = .ok (.waitc 1 2 3 4) ∧
    decodeWord 0b011110_0000000_0000110_0000111_00101 0 = .ok (.icinv 6 7) := by (repeat' apply And.intro) <;> rfl
/-- Majors 0x1F and 0x20: register sets, neighbours. -/
theorem test_decode_registers : decodeWord 0b011111_0000101_0000110_0000111_00000 0 = .ok (.xmov 5 6 7) ∧
    decodeWord 0b011111_0000101_0000110_0000000_00001 0 = .ok (.borrow 5 6) ∧
    decodeWord 0b011111_0000000_0000110_0000000_00010 0 = .ok (.retn 6) ∧
    decodeWord 0b100000_1111111_0000110_00000_10_00000 0 = .ok (.nwr 127 6 2) ∧
    decodeWord 0b100000_0000101_0000110_0000000_00010 0 = .ok (.npres 5 6) := by (repeat' apply And.intro) <;> rfl
/-- Majors 0x21 to 0x27: engine commands. -/
theorem test_decode_engine : decodeWord 0b100001_0000101_0000110_0000111_01011 0 = .ok (.vsel 5 6 7) ∧
    decodeWord 0b100001_0000101_0000110_0000111_01100 0 = .error .illop ∧
    decodeWord 0b100010_0000101_0000110_0000000_01000 0 = .ok (.vfill 5 6) ∧
    decodeWord 0b100010_0000101_0000110_0000111_01001 0 = .ok (.vmask 5 6 7) ∧
    decodeWord 0b100011_0000101_0000110_0000000_00011 0 = .ok (.vscan 5 6) ∧
    decodeWord 0b100100_0000101_0000110_0000111_00001 0 = .ok (.vscat 5 6 7) ∧
    decodeWord 0b100101_0000101_0000110_0000111_00_1_10 0 = .ok (.mxsp 5 6 7 1) ∧
    decodeWord 0b100101_0000101_0000110_0000111_00_0_11 0 = .error .illop ∧
    decodeWord 0b100110_0000101_0000000_0000000_00000 0 = .ok (.ezero 5) ∧
    decodeWord 0b100110_0000101_0000110_0000111_00011 0 = .ok (.eread 5 6 7) ∧
    decodeWord 0b100111_0000101_0000110_0000000_00001 0 = .ok (.bpunpk 5 6) := by (repeat' apply And.intro) <;> rfl
/-- Majors 0x28 to 0x2E: streams, conflict batching, copies, groups, tasks, tokens, redundancy. -/
theorem test_decode_groups : decodeWord 0b101000_0000_101_0000110_0000000_00000 0 = .ok (.ssopen 5 6) ∧
    decodeWord 0b101000_0000000_0000_011_0000000_00001 0 = .ok (.ssclose 3) ∧
    decodeWord 0b101000_0000101_0000_011_0000_111_00100 0 = .ok (.sisect 5 3 7) ∧
    decodeWord 0b101000_0000101_0001_011_0000_111_00100 0 = .error .rsvfld ∧
    decodeWord 0b101001_0000101_0000110_0000000_00010 0 = .ok (.cbpop 5 6) ∧
    decodeWord 0b101010_0000101_0000110_0000111_00010 0 = .ok (.cpcast 5 6 7) ∧
    decodeWord 0b101011_0000101_0110000_0000111_00101 0 = .ok (.bwaitt 5 48 7) ∧
    decodeWord 0b101100_0000000_0000110_0000111_00100 0 = .ok (.drdec 6 7) ∧
    decodeWord 0b101101_0000000_0000110_0000000_00100 0 = .ok (.ecls 6) ∧
    decodeWord 0b101110_0000101_0000000_0000000_00010 0 = .ok (.rdnchk 5) := by (repeat' apply And.intro) <;> rfl
/-- Majors 0x3C, 0x3D and 0x3F: system, privileged, long. -/
theorem test_decode_system : decodeWord 0b111100_0000000_0000000_01_0000000011 0 = .ok (.hcall 3) ∧
    decodeWord 0b111100_0000000_0000000_10_0000000000 0 = .ok .eret ∧
    decodeWord 0b111100_0000000_0000000_10_0000000001 0 = .error .rsvfld ∧
    decodeWord 0b111101_0000000_0000110_0000111_00111 0 = .ok (.sevset 6 7) ∧
    decodeWord 0b111101_0000101_0000110_0000000_00011 0 = .ok (.prd 5 6) ∧
    decodeWord 0b111111_0000101_001_1000000000000001 0xFFFFFFFE = .ok (.ldiN 5 0x8001FFFFFFFE) ∧
    decodeWord 0b111111_0000101_010_1000000000000001 0 = .error .illop := by (repeat' apply And.intro) <;> rfl
/-- Bytes are read little-endian, and too few of them are no instruction. -/
theorem test_decode_bytes : decode [0xFD, 0x2F, 0x28, 0x10, 0xAA] = .ok (.addi 5 2 0xFFD, [0xAA]) ∧
    decode [0xFD, 0x2F, 0x28] = .error .truncated ∧ decode [0x34, 0x12, 0x10, 0xFC, 0, 0] = .error .truncated := by (repeat' apply And.intro) <;> rfl

/-! Terms that are no instructions: each check refuses one. -/

/-- Reserved field values (R38, R61, R63, R65, R67, R69, R143). -/
theorem test_ill_formed : (Instr.plog 0 0 0 8).wellFormed = false ∧ (Instr.crd 5 0x11).wellFormed = false ∧
    (Instr.cwr 5 0x11).wellFormed = false ∧ (Instr.fcmp 6 1 2 3).wellFormed = false ∧ (Instr.fcvt 1 2 9 4 0).wellFormed = false ∧
    (Instr.fcvt 1 2 4 9 0).wellFormed = false ∧ (Instr.fcvt 1 2 5 5 0).wellFormed = false ∧ (Instr.fcvt 1 2 0 2 0).wellFormed = false ∧
    (Instr.br 0 1 4).wellFormed = false ∧ (Instr.ld 1 2 3 1 0).wellFormed = false ∧ (Instr.amoF 1 2 3 11).wellFormed = false ∧
    (Instr.amoF 1 2 3 9).wellFormed = false ∧ (Instr.amo 2 3 9).wellFormed = false ∧ (Instr.amo 2 3 11).wellFormed = false ∧
    (Instr.red 2 3 8).wellFormed = false ∧ (Instr.red 2 3 9).wellFormed = false ∧ (Instr.red 2 3 11).wellFormed = false := by decide
/-- An event has no word. -/
theorem test_event_ill_formed : Instr.contextWake.wellFormed = false ∧ Instr.hostLinkUp.wellFormed = false := by decide
/-- The round trip of a long and of a short instruction. -/
theorem test_round_trip : decode (wordBytes (encode (.ldi 2 0x123456789ABC)) ++ [1]) = .ok (.ldi 2 0x123456789ABC, [1]) ∧
    decode (wordBytes (encode (.bwaitt 6 3 7)) ++ [1]) = .ok (.bwaitt 6 3 7, [1]) := by (repeat' apply And.intro) <;> rfl

/-! States that meet the hypotheses of the claims (Sys2Proof/Certificates/Slice0/Obligations.lean), each clause at an edge of its range. -/

/-- Two operands at edges: the most negative number, and −1. -/
def sEdge : State := st cu [(1, 0x8000000000000000), (2, 0xFFFFFFFFFFFFFFFF)]

theorem witness_AluResults : Issues sEdge wt cu ∧ Usable sEdge wt cu [1, 2, 0] ∧ Usable sEdge wt cu [1, 2, 31] :=
  ⟨⟨rfl, rfl, rfl⟩, usable_of _ _ _ _ (by decide), usable_of _ _ _ _ (by decide)⟩
theorem witness_MultiplyDivideAndBitResults : (Issues sEdge wt cu ∧ Usable sEdge wt cu [1, 2, 0] ∧ sEdge.reg wt cu 2 ≠ 0) ∧
    (Usable sEdge wt cu [1, 3, 9] ∧ sEdge.reg wt cu 3 = 0 ∧ bit cu.trapen 19 = false) :=
  ⟨⟨⟨rfl, rfl, rfl⟩, usable_of _ _ _ _ (by decide), by decide⟩, usable_of _ _ _ _ (by decide), by decide, by decide⟩
theorem witness_ImmediateResults : Issues sEdge wt cu ∧ Usable sEdge wt cu [1, 2, 0] :=
  ⟨⟨rfl, rfl, rfl⟩, usable_of _ _ _ _ (by decide)⟩
theorem witness_PredicateResults : Issues sEdge wt cu ∧ Usable sEdge wt cu [1, 2] ∧ (7 : BitVec 5).toNat < 8 :=
  ⟨⟨rfl, rfl, rfl⟩, usable_of _ _ _ _ (by decide), by decide⟩

/-- 1.0 and a signalling NaN. -/
def sFloat (c : Ctx) : State := st c [(1, 0x3F800000), (2, 0x7F800001)]
/-- Every flag traps. -/
def cTrapping : Ctx := { cu with trapen := BitVec.allOnes 64 }
theorem witness_FloatResults : Issues (sFloat cu) wt cu ∧
    (∃ r, floatRow (fun q => (sFloat cu).reg wt cu q.toNat) (.fadd 5 1 1 0) = some ([1, 1, 5], 5, 8, r) ∧ r.2 &&& cu.enabled = 0) ∧
    Usable (sFloat cu) wt cu [1, 1, 5] ∧ Usable (sFloat cu) wt cu [1, 2, 5] ∧
    (fCompare 0 (single 0x3F800000) (single 0x7F800001)).2 &&& cu.enabled = 0 :=
  ⟨⟨rfl, rfl, rfl⟩, ⟨_, rfl, by decide⟩, usable_of _ _ _ _ (by decide), usable_of _ _ _ _ (by decide), by decide⟩
theorem witness_FlagTraps : Issues (sFloat cTrapping) wt cTrapping ∧ (∀ p, cTrapping.role ≠ .top p) ∧
    (∃ r, floatRow (fun q => (sFloat cTrapping).reg wt cTrapping q.toNat) (.fadd 5 1 2 0) = some ([1, 2, 5], 5, 8, r) ∧
      r.2 &&& cTrapping.enabled ≠ 0) ∧
    Usable (sFloat cTrapping) wt cTrapping [1, 2, 5] ∧ (fCompare 0 (single 0x3F800000) (single 0x7F800001)).2 &&& cTrapping.enabled ≠ 0 ∧
    Usable (sFloat cTrapping) wt cTrapping [1, 3, 5] ∧ (sFloat cTrapping).reg wt cTrapping 3 = 0 ∧ bit cTrapping.trapen 19 = true :=
  ⟨⟨rfl, rfl, rfl⟩, (fun _ h => nomatch h), ⟨_, rfl, by decide⟩, usable_of _ _ _ _ (by decide), by decide, usable_of _ _ _ _ (by decide), by decide,
    by decide⟩
theorem witness_ControlRegisters : Issues (st cs [(1, 7)]) wt cs ∧ Usable (st cs [(1, 7)]) wt cs [1, 5] ∧
    ¬(cs.mode = .u ∧ ((8 : BitVec 8) = 0x08 ∨ (8 : BitVec 8) = 0x09 ∨ (8 : BitVec 8) = 0x0A)) ∧
    ¬(cs.kind = .migrant ∧ cs.mode = .u ∧ ((8 : BitVec 8) = 0x02 ∨ (8 : BitVec 8) = 0x03)) ∧
    ¬(cu.mode = .u ∧ ((0x0B : BitVec 8) = 0x08 ∨ (0x0B : BitVec 8) = 0x09 ∨ (0x0B : BitVec 8) = 0x0A)) :=
  ⟨⟨rfl, rfl, rfl⟩, usable_of _ _ _ _ (by decide), by decide, by decide, by decide⟩

/-- Addresses to jump to, aligned and not. -/
def sJump : State := st cu [(1, 0xFFFFFFFFFFFFFFFC), (2, 0x2001)]
theorem witness_ControlTransfers : Issues sJump wt cu ∧ Usable sJump wt cu [5] ∧
    (cu.pred 0 = !((0 : BitVec 1) == 1) ∧ cu.pred 1 = ((0 : BitVec 1) == 1)) ∧ Usable sJump wt cu [1, 1] ∧
    (sJump.reg wt cu 1 + BitVec.ofInt 64 (4 : BitVec 12).toInt).toNat % 4 = 0 ∧ Usable sJump wt cu [2, 5] ∧ Delivers sJump wt cu 0x4000 ∧
    (sJump.reg wt cu 2 + BitVec.ofInt 64 (0x801 : BitVec 12).toInt).toNat % 4 ≠ 0 :=
  ⟨⟨rfl, rfl, rfl⟩, usable_of _ _ _ _ (by decide), by decide, usable_of _ _ _ _ (by decide), by decide, usable_of _ _ _ _ (by decide),
    ⟨by decide, by decide, by decide, by decide, by decide, rfl⟩, by decide⟩

/-- A context in F with its code in the SRAM of its tile. -/
def cCode : Ctx := { cf with pc := BitVec.ofNat 64 (tileAddr 0 0x1000) }
/-- In a frame. -/
def cFrame : Ctx := { cu with repst := BitVec.ofNat 64 (2 ^ 63 + 2 ^ 58 + 2 ^ 47 + 2 ^ 16) }
theorem witness_FrameStarts : Issues (st cCode [(2, 0x10000)]) wt cCode ∧ cCode.repst.getLsbD 63 = false ∧
    (∃ u, State.frameWords wt cCode 2 (cCode.pc + 4) 0 (st cCode [(2, 0x10000)]) = (u, .words 2)) ∧ Usable (st cCode [(2, 0x10000)]) wt cCode [2] ∧
    Issues (st cFrame []) wt cFrame ∧ Delivers (st cFrame []) wt cFrame 0x4000 ∧ cFrame.repst.getLsbD 63 = true ∧ Usable (st cFrame []) wt cFrame [2] :=
  ⟨⟨rfl, rfl, rfl⟩, by decide, ⟨_, rfl⟩, usable_of _ _ _ _ (by decide), ⟨rfl, rfl, rfl⟩, ⟨by decide, by decide, by decide, by decide, by decide, rfl⟩, by decide,
    usable_of _ _ _ _ (by decide)⟩
/-- A mode-U context whose code's page is in the buffer. -/
def cPaged : Ctx := { cu with pc := 0x1000 }
/-- The page: 64 KiB at the start of the tile's SRAM, everything allowed; the tile's table admits everything. -/
def paged (s : State) : State :=
  (s.modCore 0 fun k => { k with
    tlb := [{ part := 1, asid := 5, page := 0, size := 16, pa := tileAddr 0 0, g := false, us := true, x := true, w := true, rd := true }] })
    |>.setCb 0 0x8000 0xC0FE000000000000
/-- A frame's first word is a BR. -/
def sNestU : State := { paged (st cPaged []) with mem := memWrite [] (tileAddr 0 0x1004) 4 0x504FFFFE }
theorem witness_FrameStarts_nest : ∃ u, Issues sNestU wt cPaged ∧ Delivers sNestU wt cPaged 0x4000 ∧ cPaged.repst.getLsbD 63 = false ∧
    State.frameWords wt cPaged 1 (cPaged.pc + 4) 0 sNestU = (u, .nest 0x1004) :=
  ⟨_, ⟨rfl, rfl, rfl⟩, ⟨by decide, by decide, by decide, by decide, by decide, rfl⟩, by decide, rfl⟩
theorem witness_FrameAdvance : cFrame.framing = true ∧ bits cFrame.repst 46 42 + 2 < 32 ∧ bits cFrame.repst 41 38 < bits cFrame.repst 61 58 ∧
    (∃ c : Ctx, c.framing = true ∧ bits c.repst 61 58 ≤ bits c.repst 41 38 ∧ bits c.repst 15 0 + 1 < bits c.repst 31 16) ∧
    (∃ c : Ctx, c.framing = true ∧ bits c.repst 61 58 ≤ bits c.repst 41 38 ∧ bits c.repst 31 16 ≤ bits c.repst 15 0 + 1) ∧ cu.framing = false :=
  ⟨by decide, by decide, by decide, ⟨{ cu with repst := BitVec.ofNat 64 (2 ^ 63 + 2 * 2 ^ 16) }, by decide, by decide, by decide⟩,
    ⟨{ cu with repst := BitVec.ofNat 64 (2 ^ 63 + 2 ^ 16) }, by decide, by decide, by decide⟩, by decide⟩
theorem witness_ExitRetires : Issues (st cu []) wt cu ∧ cu.alone ∧ cu.out = [] ∧
    ¬(cu.mode = .u ∧ bit cu.trapen 11 = true ∧ (st cu []).holdings wt cu ≠ 0) :=
  ⟨⟨rfl, rfl, rfl⟩, rfl, rfl, by decide⟩

/-- A charged context. -/
def cCharged : Ctx := { cu with dref := BitVec.ofNat 64 (2 ^ 63 + tileAddr 0 0x2000 / 8) }
/-- Operands of TSTART, a limit at each end of its range, and of TSTOP, whose handle names slot 4. -/
def sThread (c : Ctx) : State := st c [(1, 0x2000), (2, 0xFFFFFFFF00000008), (3, 128), (6, 4), (7, 0x10004)]
/-- The child, in slot 4. -/
def cChild : Ctx := { ctxAs .resident .u with base := 32 }
theorem witness_ThreadStartsAndStops (c : Ctx) (h : c = cu ∨ c = cCharged) : Issues (sThread c) wt c ∧ c.alone ∧ wt.slot < 63 ∧ c.kind ≠ .migrant ∧
    Usable (sThread c) wt c [1, 2, 0] ∧ Usable (sThread c) wt c [1, 3, 5] ∧ c.count .ld < 15 ∧ ((sThread c).reg wt c 1).toNat % 4 = 0 ∧
    ((sThread c).reg wt c 2).toNat % 2 ^ 32 = 8 ∧ ((sThread c).reg wt c 3).toNat % 2 ^ 32 = 128 ∧ ((sThread c).core wt.core).ringCount = 0 ∧
    (sThread c).pval (coreRet wt.core) = true ∧
    ((sThread c).core wt.core).place wt.core 8 = some (0, 32) ∧
    (((sThread c).modCore 0 fun k => { k with ringCount := 1 }).core wt.core).ringCount ≠ 0 := by
  rcases h with rfl | rfl <;>
    exact ⟨⟨rfl, rfl, rfl⟩, rfl, by decide, by decide, usable_of _ _ _ _ (by decide), usable_of _ _ _ _ (by decide), by decide, by decide, by decide,
      by decide, rfl, by decide, rfl, by decide⟩
theorem witness_ThreadStartsAndStops_stop : let s := (sThread cu).setCtx { core := 0, slot := 4 } cChild
    Issues s wt cu ∧ cu.alone ∧ Usable s wt cu [6] ∧ Usable s wt cu [7] ∧ (s.reg wt cu 6).toNat < 2 ^ 32 ∧ bits (s.reg wt cu 6) 15 6 = 0 ∧
    bits (s.reg wt cu 7) 15 6 = 0 ∧ (s.gen { core := 0, slot := 4 }).toNat = (s.reg wt cu 6).toNat / 2 ^ 16 ∧
    (s.gen { core := 0, slot := 4 }).toNat ≠ (s.reg wt cu 7).toNat / 2 ^ 16 ∧ s.ctx? { core := 0, slot := 4 } = some cChild ∧ cChild.kind = .resident ∧
    cChild.role = .single ∧ cChild.asid = cu.asid ∧ cChild.part = cu.part ∧ modeCode cChild.prv ≤ modeCode cu.prv :=
  ⟨⟨rfl, rfl, rfl⟩, rfl, usable_of _ _ _ _ (by decide), usable_of _ _ _ _ (by decide), by decide, by decide, by decide, by decide, by decide, rfl, rfl, rfl,
    rfl, rfl, by decide⟩

theorem witness_TrapEntry : (∃ vec, (st cs []).ctx? wt = some cs ∧ Delivers (st cs []) wt cs vec) ∧
    (let c : Ctx := { cu with cause := 0x8000 }; (st c []).ctx? wt = some c ∧ c.alone ∧ c.kind ≠ .message ∧ c.mode ≠ .f ∧ c.inh = true) ∧
    ((st cf []).ctx? wt = some cf ∧ cf.alone ∧ cf.mode = .f ∧ (st cf []).action (coreRet wt.core) 11 2 ≠ 0 ∧
      ((st cf []).setRcb 0 0x0A58 0).action (coreRet wt.core) 11 2 = 0) :=
  ⟨⟨_, rfl, ⟨by decide, by decide, rfl, by decide, by decide, rfl⟩⟩, ⟨rfl, rfl, by decide, by decide, by decide⟩, rfl, rfl, rfl, by decide, by decide⟩

/-- With the firmware context that reticle 0 may have. -/
def firm (s : State) : State := s.setCtx { core := 0, slot := 62 } (firmwareCtx 0)
/-- The request that HCALL sends, and its place in the queue. -/
def hreq : HReq := { code := 3, part := 1, asid := 5, src := { modn := 0, core := 0, slot := 3, gen := 0 }, args := [1, 2, 3, 4] }
/-- A context that awaits the answer. -/
def cCalls : Ctx := { cs with out := [{ id := 7, cls := .ld, dst := some 1, home := none, both := false }], hcall := some 7 }
theorem witness_SystemAndFirmwareCalls : (Issues (st cu []) wt cu ∧ Delivers (st cu []) wt cu 0x4000 ∧ cu.mode = .u) ∧
    (Issues (st cs []) wt cs ∧ cs.alone ∧ cs.mode ≠ .u ∧ Usable (st cs []) wt cs [1, 2, 3, 4] ∧ (st cs []).hasFirmware (coreRet wt.core) = false) ∧
    (Issues (firm (st cs [])) wt cs ∧ Usable (firm (st cs [])) wt cs [1, 2, 3, 4] ∧ cs.mode = .s ∧
      (firm (st cs [])).hasFirmware (coreRet wt.core) = true ∧ cs.count .mx ≤ 15 ∧ cs.count .cp ≤ 15 ∧ cs.count .ld = 0 ∧ cs.count .st = 0 ∧
      (firm (st cs [])).hcalls (fwCore wt.core) < 16) ∧
    (∃ s : State, s.ev = some (.hcallRequest hreq)) ∧
    (let s : State := { st cCalls [] with ev := some (.hcallReply 0 3 0 7 8) }
     s.ev = some (.hcallReply wt.core wt.slot (s.gen wt) 7 8) ∧ s.ctx? wt = some cCalls ∧ cCalls.hcall = some 7 ∧ (cCalls.op? 7).isSome = true ∧
      (cCalls.op? 7).all (fun o => o.id == 7 && o.dst == some 1 && !o.both) = true ∧ s.gen wt ≠ 1) :=
  ⟨⟨⟨rfl, rfl, rfl⟩, ⟨by decide, by decide, by decide, by decide, by decide, rfl⟩, rfl⟩,
    ⟨⟨rfl, rfl, rfl⟩, rfl, by decide, usable_of _ _ _ _ (by decide), by decide⟩,
    ⟨⟨rfl, rfl, rfl⟩, usable_of _ _ _ _ (by decide), rfl, by decide, by decide, by decide, by decide, by decide, by decide⟩,
    ⟨{ world with ev := some (.hcallRequest hreq) }, rfl⟩, rfl, rfl, rfl, by decide, by decide, by decide⟩

/-- In a handler, the frame suspended. -/
def cHandler : Ctx := { cs with cause := 0x8010, epc := 0x2000, repst := BitVec.ofNat 64 (2 ^ 63 + 2 ^ 62 + 2 ^ 16) }
theorem witness_ExceptionReturn : Issues (st cHandler []) wt cHandler ∧ cHandler.alone ∧ cHandler.mode ≠ .u ∧ cHandler.inh = true ∧
    badFrame cHandler.repst = false ∧ badFrame (BitVec.ofNat 64 (2 ^ 63 + 2 ^ 62)) = true :=
  ⟨⟨rfl, rfl, rfl⟩, rfl, by decide, by decide, by decide, by decide⟩
theorem witness_PrivilegeTraps : (Issues (st cu []) wt cu ∧ Delivers (st cu []) wt cu 0x4000 ∧ cu.mode = .u) ∧
    (Issues (st cs []) wt cs ∧ Delivers (st cs []) wt cs 0x5000 ∧ cs.mode = .s) :=
  ⟨⟨⟨rfl, rfl, rfl⟩, ⟨by decide, by decide, by decide, by decide, by decide, rfl⟩, rfl⟩, ⟨rfl, rfl, rfl⟩, ⟨by decide, by decide, by decide, by decide, by decide, rfl⟩, rfl⟩

/-- The firmware's queue of HCALL requests holds one. -/
def sQueue : State := (st cf [(1, 0x200), (2, 0x204)]).modCore 0 fun k => { k with hcq := [hreq] }
/-- A context of slot 4 that FREEZE stopped. -/
def cFrozen : Ctx := { cChild with run := .frozen }
/-- Selectors of its x31, its control register 0, its PC; of word 0. -/
def sOther : State := (st cs [(1, 0x84001F), (2, 0x840080), (3, 0x8400A0), (4, 3), (5, 0x840090), (6, 0x209), (7, 0x208), (8, 0x8000000300000000)]).setCtx
  { core := 0, slot := 4 } cFrozen
theorem witness_PrivilegedReadsAndWrites : (Issues sOther wt cs ∧ cs.alone ∧ cs.mode ≠ .u ∧ Usable sOther wt cs [1, 2, 3, 4, 5, 9] ∧
      (sOther.reg wt cs 4).toNat = 3 ∧ cs.tsv[3]? = some (0, true)) ∧
    (Issues sQueue wt cf ∧ cf.alone ∧ Usable sQueue wt cf [1, 9] ∧ sQueue.reg wt cf 1 = 0x200 ∧ (sQueue.core wt.core).hcq = [hreq] ∧
      (sQueue.reg wt cf 2).toNat = 0x201 + 3 ∧ ((st cf []).core wt.core).hcq = []) ∧
    ((sOther.reg wt cs 1).toNat = 2 ^ 23 + 4 * 2 ^ 16 + 31 ∧ (sOther.reg wt cs 2).toNat = 2 ^ 23 + 4 * 2 ^ 16 + 0x080 ∧
      (sOther.reg wt cs 5).toNat = 2 ^ 23 + 4 * 2 ^ 16 + 0x090 ∧ (sOther.reg wt cs 3).toNat = 2 ^ 23 + 4 * 2 ^ 16 + 0x0A0 ∧
      sOther.ctx? { core := 0, slot := 4 } = some cFrozen ∧ cFrozen.run = .frozen ∧ cFrozen.kind = .resident ∧ cFrozen.part = cs.part ∧
      modeCode cFrozen.prv ≤ modeCode cs.prv ∧ 31 < cFrozen.lim ∧
      (sOther.regEntry { core := 0, slot := 4 } cFrozen 31).bad = false ∧ cFrozen.lim ≤ 0x080) ∧
    ((sOther.reg wt cs 6).toNat = 0x209 + 0 ∧ sOther.reg wt cs 7 = 0x208 ∧ (sOther.reg wt cs 8).getLsbD 63 = true) :=
  ⟨⟨⟨rfl, rfl, rfl⟩, rfl, by decide, usable_of _ _ _ _ (by decide), by decide, rfl⟩,
    ⟨⟨rfl, rfl, rfl⟩, rfl, usable_of _ _ _ _ (by decide), by decide, rfl, by decide, rfl⟩,
    ⟨by decide, by decide, by decide, by decide, rfl, rfl, rfl, rfl, by decide, by decide, by decide, by decide⟩, by decide, by decide, by decide⟩

/-- Operands of STRIP, FREEZE and SEVSET: 31 registers from x1, the handle of slot 4, on, off, class 13 kind 7, a stale handle. -/
def sActs (c x : Ctx) : State := (st c [(1, 0x1F01), (2, 4), (3, 1), (4, 0), (5, 0xD07), (6, 4), (7, 0x10004)]).setCtx { core := 0, slot := 4 } x
theorem witness_PrivilegedActions : (Issues (sActs cs cChild) wt cs ∧ cs.alone ∧ cs.mode ≠ .u ∧ Usable (sActs cs cChild) wt cs [1, 2, 3, 4, 5, 6, 7]) ∧
    (((sActs cs cChild).reg wt cs 1).toNat = 31 * 2 ^ 8 + 1 ∧ 1 + 31 ≤ cs.lim ∧
      (List.range 31).all (fun r => ((sActs cs cChild).regEntry wt cs (1 + r)).pres == .present) = true) ∧
    ((sActs cs cChild).target wt cs ((sActs cs cChild).reg wt cs 2) = .ctx { core := 0, slot := 4 } cChild ∧ cChild.role = .single ∧ cChild.cond = none ∧
      cChild.run = .ready ∧ cChild.busy = none ∧ ((sActs cs cChild).reg wt cs 3).getLsbD 0 = true) ∧
    ((sActs cs cFrozen).target wt cs ((sActs cs cFrozen).reg wt cs 2) = .ctx { core := 0, slot := 4 } cFrozen ∧ cFrozen.run = .frozen ∧
      cFrozen.busy = none ∧ ((sActs cs cFrozen).reg wt cs 4).getLsbD 0 = false) ∧
    (sActs cs cChild).target wt cs ((sActs cs cChild).reg wt cs 7) = .stale ∧
    (Issues (sActs cf cChild) wt cf ∧ cf.mode = .f ∧ Usable (sActs cf cChild) wt cf [5, 6] ∧ ((sActs cf cChild).reg wt cf 5).toNat = 13 * 2 ^ 8 + 7 ∧
      ((sActs cf cChild).reg wt cf 6).toNat ≤ 4) :=
  ⟨⟨⟨rfl, rfl, rfl⟩, rfl, by decide, usable_of _ _ _ _ (by decide)⟩, ⟨by decide, by decide, by decide⟩,
    ⟨by decide, rfl, rfl, rfl, rfl, by decide⟩, ⟨by decide, rfl, rfl, by decide⟩, by decide,
    ⟨⟨rfl, rfl, rfl⟩, rfl, usable_of _ _ _ _ (by decide), by decide, by decide⟩⟩

/-- The address of an area in the tile's SRAM, and its lines. -/
def areaVa : Word := BitVec.ofNat 64 (tileAddr 0 0x4000)
/-- Physical addresses of its lines. -/
def areaPas : List Nat := (List.range 96).map fun i => tileAddr 0 0x4000 + 64 * i
/-- The context that is saved. -/
def cSaved : Ctx := { cFrozen with run := .saving, pc := 0x3000, lim := 8 }
/-- What CTXSV left to do. -/
def saveReq : SaveReq := { id := 1, core := 0, issuer := 3, igen := 0, target := 4, tgen := 0, va := areaVa, pas := areaPas, tag := { part := 1, mode := .f },
                           left := [], asked := [], bad := false, sent := false }
/-- Its issuer, whose x2 is owed the result. -/
def cSaves : Ctx := { cf with out := [{ id := 1, cls := .ld, dst := some 2, home := none, both := false }] }
/-- The save goes on, at one of its stages. -/
def sSave (q : SaveReq) : State := { (st cSaves [(1, areaVa)]).setCtx { core := 0, slot := 4 } cSaved with ev := some (.saveAreaWrite q) }
/-- The words of an area that are not zero: one of version 1, limit 8, ASID 5, partition 1, PC 0x3000, pw 1, prec 0x77, CODE 0x26, TSV0 to TSV3
present, the save key of this tile with count 1, x0 to x7 present (R347). -/
def areaGot : Map Word :=
  [(0, 0x0100080050400000), (1, 0x3000), (2, 0x7700000001), (9, 0x26), (24, 0xF00), (26, 0x100000000), (192, 0xFF)]
/-- A load of it whose words have come, and one that waits for a word. -/
def cLoads (asked : List Nat) : Ctx := { cf with gather := some { left := [], asked := asked, got := areaGot, bad := none } }
/-- The load is to be tried again. -/
def sLoad (asked : List Nat) : State := st (cLoads asked) [(1, areaVa)]
theorem witness_ContextSavesAndLoads : (let s := (st cf [(1, areaVa), (2, 4), (3, 0x10004)]).setCtx { core := 0, slot := 4 } cChild
      Issues s wt cf ∧ cf.solo ∧ cf.mode ≠ .u ∧ Usable s wt cf [1, 2, 0] ∧ cf.cond = none ∧ cf.count .ld < 15 ∧ areaVa.toNat % 64 = 0 ∧
      s.reg wt cf 1 = areaVa ∧ s.target wt cf (s.reg wt cf 3) = .stale ∧ s.target wt cf (s.reg wt cf 2) = .ctx { core := 0, slot := 4 } cChild ∧
      cChild.cancelling = none ∧ s.pending = []) ∧
    (Issues (sLoad []) wt (cLoads []) ∧ (cLoads []).solo ∧ Usable (sLoad []) wt (cLoads []) [1, 5] ∧ (cLoads []).within 15 15 0 0 = true ∧
      (sLoad []).reg wt (cLoads []) 1 = areaVa ∧ Issues (sLoad [7]) wt (cLoads [7])) :=
  ⟨⟨⟨rfl, rfl, rfl⟩, ⟨rfl, rfl⟩, by decide, usable_of _ _ _ _ (by decide), rfl, by decide, by decide, by decide, by decide, by decide, rfl, rfl⟩,
    ⟨rfl, rfl, rfl⟩, ⟨rfl, rfl⟩, usable_of _ _ _ _ (by decide), by decide, by decide, ⟨rfl, rfl, rfl⟩⟩
theorem witness_ContextSavesAndLoads_lines : (∀ go, areaLines (st cf []) wt cf areaVa .write go = go areaPas) ∧
    (∀ go, areaLines (sLoad []) wt (cLoads []) areaVa .read go = go areaPas) :=
  ⟨fun _ => areaLines_page (by decide) (by decide) (by decide) _, fun _ => areaLines_page (by decide) (by decide) (by decide) _⟩
/-- What the load has read. -/
def areaRead : List Word := (List.range 768).map fun i => (mget areaGot i).getD 0
theorem witness_ContextSavesAndLoads_load : let u := (sLoad []).setCtx wt (cLoads [])
    u.areaTrap wt (cLoads []) areaVa areaRead = none ∧ u.areaPlace wt.core areaRead = some (0, 32, none) ∧
    (u.loadArea wt.core 0 32 none areaRead).isSome = true :=
  ⟨by decide +kernel, by decide +kernel, by decide +kernel⟩
theorem witness_ContextSavesAndLoads_save : (∀ q, (sSave q).ev = some (.saveAreaWrite q)) ∧
    (∀ q, (sSave q).ctx? { core := 0, slot := 4 } = some cSaved ∧ (sSave q).gen { core := 0, slot := 4 } = saveReq.tgen ∧
      (sSave q).ctx? wt = some cSaves ∧ (sSave q).gen wt = saveReq.igen) ∧
    (cSaves.op? saveReq.id).all (fun o => o.dst == some 2 && !o.both) = true ∧ cSaved.role = .single ∧ saveReq.sent = false ∧
    cSaved.run = .saving ∧ cSaved.drained = true ∧ cSaved.busy = none ∧ cSaved.sets = [] ∧ cSaved.resend = none ∧
    (List.range 8).all (fun n => !((sSave saveReq).regEntry { core := 0, slot := 4 } cSaved n).bad) = true ∧
    (st cSaves []).ctx? { core := 0, slot := 4 } = none :=
  ⟨fun _ => rfl, fun _ => ⟨rfl, rfl, rfl, rfl⟩, by decide, rfl, rfl, rfl, by decide, rfl, rfl, rfl, by decide, rfl⟩

/-! Accesses. -/

/-- The start of a word of the SRAM of tile (0, 0), of tile (0, 1) and of reticle 1's tile 0, which a migrant of reticle 0 may go to. -/
def here : Nat := tileAddr 0 0x8000
/-- In the next tile. -/
def there : Nat := tileAddr 1 0x8000
/-- Addresses and a value; the word after `here` is empty. -/
def sAcc (c : Ctx) : State := { st c [(1, BitVec.ofNat 64 here), (2, BitVec.ofNat 64 there), (3, 0x1122334455667788), (4, BitVec.ofNat 64 (here + 1))] with
  mem := memWrite [] here 8 0x8899AABBCCDDEEFF, empties := [here + 8] }
/-- The request of an access of the slot under test. -/
def reqOf (s : State) (c : Ctx) (op : MemOp) (pa : Nat) (b x : Word) (d : Option Reg) : Access := s.request wt c op (BitVec.ofNat 64 pa) pa b x d s.ids
theorem witness_AccessesAtOwnTile : let s := sAcc cf;
    (Issues s wt cf ∧ cf.solo) ∧
    (accessRow (fun r => s.reg wt cf r.toNat) (.st 3 1 0 0) = some (.store 0, [1, 3], BitVec.ofNat 64 here, 0x1122334455667788, 0, none) ∧
      Usable s wt cf [1, 3] ∧ MayAccess cf (.store 0) ∧ Reaches s wt cf (.store 0) (BitVec.ofNat 64 here) here ∧ s.isLocalPa here = true ∧
      s.homeOf here = wt.core ∧ (s.placeOf (lpaOf here)).isDram = false ∧ AtHome s (reqOf s cf (.store 0) here 0x1122334455667788 0 none) ∧
      opRow s.mem (lpaOf here) 0x1122334455667788 0 (s.full (wordAt (lpaOf here))) (.store 0) = some ((1, 0x1122334455667788), true, 0)) ∧
    (accessRow (fun r => s.reg wt cf r.toNat) (.ldfe 0 1 1) = some (.ldfe, [1, 0], BitVec.ofNat 64 (here + 8), 0, 0, some 0) ∧
      Usable s wt cf [1, 0] ∧ MayAccess cf .ldfe ∧ Reaches s wt cf .ldfe (BitVec.ofNat 64 (here + 8)) (here + 8) ∧
      AtHome s (reqOf s cf .ldfe (here + 8) 0 0 (some 0)) ∧ opRow s.mem (lpaOf (here + 8)) 0 0 (s.full (wordAt (lpaOf (here + 8)))) .ldfe = none) :=
  ⟨⟨⟨rfl, rfl, rfl⟩, rfl, rfl⟩,
    ⟨rfl, usable_of _ _ _ _ (by decide), ⟨rfl, rfl, by decide, fun _ => by decide⟩, ⟨by decide, by decide, by decide, .inr (by decide)⟩, by decide,
      by decide, by decide, ⟨⟨.inl ⟨0, 0x8000, by decide⟩, by decide, by decide, by decide, fun _ _ => by decide⟩, by decide⟩, by decide⟩,
    rfl, usable_of _ _ _ _ (by decide), ⟨rfl, rfl, by decide, fun _ => by decide⟩, ⟨by decide, by decide, by decide, .inr (by decide)⟩,
    ⟨⟨.inl ⟨0, 0x8008, by decide⟩, by decide, by decide, by decide, fun _ _ => by decide⟩, by decide⟩, by decide⟩

/-- A mode-U context reaches module 1 over the link core of strip 0 of reticle 0, whose route is valid and whose link is up. -/
def sAway : State :=
  ((((sAcc cu).modCore 0 fun k => { k with
    tlb := [{ part := 1, asid := 5, page := 0, size := 16, pa := 2 ^ 48 + here, g := false, us := true, x := true, w := true, rd := true }] }).setRcb 0 0x3008
    (BitVec.ofNat 64 (2 ^ 63 + 208 * 2 ^ 40))).setCb 208 0x0A00 (BitVec.ofNat 64 (2 ^ 63)))
theorem witness_AccessesElsewhere : (let s := sAcc cf;
      Issues s wt cf ∧ cf.solo ∧ accessRow (fun r => s.reg wt cf r.toNat) (.amoF 0 2 3 0) =
        some (.amo 0 true, [2, 3, 0], BitVec.ofNat 64 there, 0x1122334455667788, 0, some 0) ∧ Usable s wt cf [2, 3, 0] ∧ MayAccess cf (.amo 0 true) ∧
      Reaches s wt cf (.amo 0 true) (BitVec.ofNat 64 there) there ∧ s.isLocalPa there = true ∧ s.homeOf there ≠ wt.core) ∧
    (let s := sAway;
      Issues s wt cu ∧ cu.solo ∧ accessRow (fun r => s.reg wt cu r.toNat) (.st 3 9 3 5) = some (.store 3, [9, 3], 40, 0x1122334455667788, 0, none) ∧
      Usable s wt cu [9, 3] ∧ MayAccess cu (.store 3) ∧ Reaches s wt cu (.store 3) 40 (2 ^ 48 + here + 40) ∧ s.isLocalPa (2 ^ 48 + here + 40) = false ∧
      s.combines (s.request wt cu (.store 3) 40 (2 ^ 48 + here + 40) 0x1122334455667788 0 none s.ids) = false ∧
      s.nodeHolds wt.core (2 ^ 48 + here + 40) = false) :=
  ⟨⟨⟨rfl, rfl, rfl⟩, ⟨rfl, rfl⟩, rfl, usable_of _ _ _ _ (by decide), ⟨rfl, rfl, by decide, fun _ => by decide⟩,
      ⟨by decide, by decide, by decide, .inr (by decide)⟩, by decide, by decide⟩,
    ⟨⟨rfl, rfl, rfl⟩, ⟨rfl, rfl⟩, rfl, usable_of _ _ _ _ (by decide), ⟨rfl, rfl, by decide, fun _ => by decide⟩,
      ⟨by decide, by decide, by decide, .inr (by decide)⟩, by decide, by decide, by decide⟩⟩
theorem witness_MisalignedAccesses : let s := sAcc cu;
    Issues s wt cu ∧ accessRow (fun r => s.reg wt cu r.toNat) (.stfe 3 4 0) = some (.stfe, [4, 3], BitVec.ofNat 64 (here + 1), 0x1122334455667788, 0, none) ∧
      Usable s wt cu [4, 3] ∧ MayAccess cu .stfe ∧ Delivers s wt cu 0x4000 ∧ (BitVec.ofNat 64 (here + 1)).toNat % MemOp.stfe.bytes ≠ 0 :=
  ⟨⟨rfl, rfl, rfl⟩, rfl, usable_of _ _ _ _ (by decide), ⟨rfl, rfl, by decide, fun _ => by decide⟩, ⟨by decide, by decide, by decide, by decide, by decide, rfl⟩,
    by decide⟩

/-- A migrant, with the pages of three tiles: its own, the next, and one of a reticle of another partition. -/
def cMig : Ctx := ctxAs .migrant .u
/-- Its state. -/
def sMig : State :=
  ((st cMig [(1, 0), (2, 0x10000), (3, 0x20000)]).modCore 0 fun k => { k with
    tlb := [0, 1, 256].zip [0, 1, 2] |>.map fun p =>
      { part := 1, asid := 5, page := p.2, size := 16, pa := tileAddr p.1 0, g := false, us := true, x := true, w := true, rd := true } }).setRcb 1 0x0700
    0x8000000000000002
theorem witness_Migration : (let s := sMig;
      Issues s wt cMig ∧ cMig.solo ∧ accessRow (fun r => s.reg wt cMig r.toNat) (.ld 0 2 3 0 0) = some (.load 3 false, [2, 0], 0x10000, 0, 0, some 0) ∧
      Usable s wt cMig [2, 0] ∧ MayAccess cMig (.load 3 false) ∧ s.xlate wt cMig 0x10000 (MemOp.load 3 false).kind = .ok (tileAddr 1 0) ∧
      s.moves wt cMig (tileAddr 1 0) = true ∧ s.placeLive (s.placeOf (lpaOf (tileAddr 1 0))) = true ∧
      s.samePart (coreRet wt.core) (coreRet (s.homeNow (tileAddr 1 0))) = true) ∧
    (Issues (st cu [(1, 0)]) wt cu ∧ cu.alone ∧ cu.kind ≠ .migrant ∧ Delivers (st cu [(1, 0)]) wt cu 0x4000) ∧
    (let s := sMig;
      Usable s wt cMig [1, 2, 3] ∧ Delivers s wt cMig 0x4000 ∧ s.reg wt cMig 1 = 0 ∧ s.xlate wt cMig 0 .read = .ok (tileAddr 0 0) ∧
      s.homeOf (tileAddr 0 0) = wt.core ∧ s.reg wt cMig 3 = 0x20000 ∧ s.xlate wt cMig 0x20000 .read = .ok (tileAddr 256 0) ∧
      s.isLocalPa (tileAddr 256 0) = true ∧ s.reachTrap wt cMig (tileAddr 256 0) = none ∧ s.homeOf (tileAddr 256 0) ≠ wt.core ∧
      s.samePart (coreRet wt.core) (coreRet (s.homeOf (tileAddr 256 0))) = false ∧ cMig.inh = false) :=
  ⟨⟨⟨rfl, rfl, rfl⟩, ⟨rfl, rfl⟩, rfl, usable_of _ _ _ _ (by decide), ⟨rfl, rfl, by decide, fun _ => by decide⟩, by decide, by decide, by decide, by decide⟩,
    ⟨⟨rfl, rfl, rfl⟩, rfl, by decide, ⟨by decide, by decide, by decide, by decide, by decide, rfl⟩⟩,
    usable_of _ _ _ _ (by decide), ⟨by decide, by decide, by decide, by decide, by decide, rfl⟩, by decide, by decide, by decide, by decide, by decide, by decide,
    by decide, by decide, by decide, by decide⟩

/-- A request of tile (0, 1)'s slot 3, for a word of tile (0, 0). -/
def acc (op : MemOp) (m : Mode) (pa : Nat) (d : Dest) (n : Nat) : Access :=
  { id := 9, src := { modn := 0, core := 1, slot := 3, gen := 0 }, tag := { part := 1, mode := m }, op := op, va := 0x40, pa := pa, data := 5, cmp := 6,
    dst := d, attempt := n }
/-- The event of the step. -/
def on (e : Ev) (s : State) : State := { s with ev := some e }
/-- Holds that stop it. -/
def heldAll : State → State := fun s => s.modCore 0 fun k => { k with holds := [{ id := 1, writes := [{ lo := 0, hi := 0x300000 }], reads := [], after := [] }] }
/-- The home has taken an access in this cc. -/
def tookOne : State → State := fun s => s.modCore 0 fun k => { k with took := true }
/-- A store of mode F. -/
def aStore : Access := acc (.store 3) .f here .notice 0
theorem witness_RequestsPerform : (∀ e, e ∈ [Ev.loadRequest, .activeMessage, .remoteUpdateMigrant, .conditionalAttempt, .waitListPark].map
      (fun (f : Access → Ev) => f (acc (.red 10) .f (here + 4) .notice 0)) → (on e (sAcc cf)).ev = some e) ∧
    (let s := sAcc cf;
      (∀ a ∈ [acc (.red 10) .f (here + 4) .notice 0, acc (.load 3 false) .f (here + 8) (.reg 4) 0], AtHome s a ∧ lpaOf a.pa % a.op.bytes = 0 ∧
        s.isLocalPa a.pa = true ∧ s.homeOf a.pa ≠ a.src.core ∧ a.src.modn = s.modn ∧ s.homeBusy (s.homeOf a.pa) = false ∧ s.unmade a = false ∧
        s.badMessage (s.homeOf a.pa) = none ∧ (opRow s.mem (lpaOf a.pa) a.data a.cmp (s.full (wordAt (lpaOf a.pa))) a.op).isSome = true) ∧
      s.byMessage 0 (acc (.red 10) .f (here + 4) .notice 0) = true ∧ s.byMessage 0 (acc (.load 3 false) .f (here + 8) (.reg 4) 0) = false ∧
      (tookOne s).homeBusy 0 = true ∧ (heldAll s).homeBusy 0 = false ∧ (heldAll s).forwarded aStore = none ∧
      (heldAll s).mustWait 0 aStore ((heldAll s).core 0).blocked = true ∧
      s.placeOf (lpaOf here) = .sram 0 0x8000 ∧ s.mustWait 0 (acc (.store 3) .u here .notice 0) (s.core 0).blocked = false ∧
      s.admits (.sram 0 0x8000) (acc (.store 3) .u here .notice 0).tag .write (lpaOf here) = false) := by
  refine ⟨fun _ _ => rfl, ?_, by decide, by decide, by decide, by decide, by decide, by decide, by decide, by decide, by decide⟩
  intro a ha
  simp only [List.mem_cons, List.not_mem_nil, or_false] at ha
  rcases ha with rfl | rfl
  · exact ⟨⟨⟨.inl ⟨0, 0x8004, by decide⟩, by decide, by decide, by decide, fun _ _ => by decide⟩, by decide⟩, by decide, by decide, by decide, by decide, by decide,
      by decide, by decide, by decide⟩
  · exact ⟨⟨⟨.inl ⟨0, 0x8008, by decide⟩, by decide, by decide, by decide, fun _ _ => by decide⟩, by decide⟩, by decide, by decide, by decide, by decide, by decide,
      by decide, by decide, by decide⟩
/-- Work of the message context of tile (0, 0): an answer, then an attempt that failed. -/
theorem witness_MessageTurns : let s := (sAcc cf).modCore 0 fun k => { k with jobs := [.answer { acc := aStore, value := 0, status := .ok }, .again aStore] };
    (s.core 0).jobs = .answer { acc := aStore, value := 0, status := .ok } :: [.again aStore] ∧ aStore.src.modn = s.modn ∧ aStore.src.core ≠ 0 ∧
      aStore.dst = .notice :=
  ⟨rfl, rfl, by decide, rfl⟩

/-- An LDFE of an empty word, a STEF of a full one. -/
theorem witness_AttemptsAndWaitLists : let s := sAcc cf;
    (∀ n, n ∈ [6, 7, 8] → AtHome s (acc .ldfe .f (here + 8) (.reg 4) n) ∧
      opRow s.mem (lpaOf (here + 8)) 5 6 (s.full (wordAt (lpaOf (here + 8)))) .ldfe = none ∧ opRow s.mem (lpaOf here) 5 6 (s.full (wordAt (lpaOf here))) .stef = none ∧
      s.isLocalPa (here + 8) = true ∧ s.homeOf (here + 8) = 0 ∧ lpaOf (here + 8) % 8 = 0 ∧ s.unmade (acc .ldfe .f (here + 8) (.reg 4) n) = false) ∧
    s.badMessage 0 = none ∧ (s.core 0).waits.length < 256 ∧
    256 ≤ ((s.modCore 0 fun k => { k with waits := List.replicate 256 (acc .ldfe .f (here + 8) (.reg 4) 8) }).core 0).waits.length ∧
    s.combines (acc .ldfe .f here (.reg 4) 1) = false ∧
    (let a := acc .ldfe .f here (.reg 4) 8;
      let t := (s.modCore 0 fun k => { k with waits := [a], servings := [{ word := here, due := true, left := [a], any_ := false }] });
      (t.core 0).waits = [a] ∧ (t.core 0).servings = [{ word := here, due := true, left := [a], any_ := false }] ∧ waitWord a = here ∧ CanPerform t a ∧
      t.isLocalPa a.pa = true ∧ t.homeOf a.pa = 0 ∧ t.unmade a = false ∧ t.badMessage 0 = none ∧
      (t.placeOf (lpaOf here)).isDram = false ∧ (opRow t.mem (lpaOf here) 5 6 (t.full (wordAt (lpaOf here))) .ldfe).isSome = true) :=
  ⟨by
      intro n hn
      simp only [List.mem_cons, List.not_mem_nil, or_false] at hn
      rcases hn with rfl | rfl | rfl <;>
        exact ⟨⟨⟨.inl ⟨0, 0x8008, by decide⟩, by decide, by decide, by decide, fun _ _ => by decide⟩, by decide⟩, by decide, by decide, by decide, by decide, by decide,
          by decide⟩,
    by decide, by decide, by decide +kernel, by decide,
    rfl, rfl, by decide, ⟨.inl ⟨0, 0x8000, by decide⟩, by decide, by decide, by decide, fun _ _ => by decide⟩, by decide, by decide, by decide, by decide, by decide,
    by decide⟩

/-- A context that waits for the answer number 9 in x4. -/
def cWaits : Ctx := { cu with out := [{ id := 9, cls := .ld, dst := some 4, home := none, both := false }] }
/-- The answer comes to slot 3 of tile (0, 0), or to a generation that is gone. -/
def ans (g : BitVec 16) (st : Status) : Reply :=
  { acc := { acc (.load 3 false) .u there (.reg 4) 0 with src := { modn := 0, core := 0, slot := 3, gen := g } }, value := 77, status := st }
theorem witness_RepliesLand : let s := on (.loadReply (ans 0 .ok)) (st cWaits []);
    s.arrived (ans 0 .ok) = ans 0 .ok ∧ s.arrived (ans 0 (.failed .acctbl)) = ans 0 (.failed .acctbl) ∧ s.inboundShut (ans 0 .ok).acc = false ∧
    s.srcWho (ans 0 .ok).acc.src = some wt ∧ s.ctx? wt = some cWaits ∧ (cWaits.op? 9).any (fun o => !o.both && o.dst == some 4) = true ∧
    s.srcWho (ans 1 .ok).acc.src = none :=
  ⟨by decide, by decide, by decide, by decide, rfl, by decide, by decide⟩

/-! Fences, translation, invalidation, register sets, neighbours. -/

/-- An access of another tile outstanding. -/
def cOut : Ctx := { cu with out := [{ id := 9, cls := .st, dst := none, home := some 1, both := false }] }
/-- A store went to host port 2. -/
def cFlush : Ctx := { cu with flush := [(2, none)] }
/-- The flushing read is on its way. -/
def cFlushing : Ctx := { cu with run := .parked (.fence 2), flush := [(2, some 9)] }
/-- The host's completion of it. -/
def flushed : Reply := { acc := { acc (.load 3 false) .u there .nobody 0 with src := { modn := 0, core := 0, slot := 3, gen := 0 } }, value := 0, status := .ok }
theorem witness_FencesAndWaits : (Issues (st cu []) wt cu ∧ cu.out = [] ∧ cu.flush = [] ∧ (∀ o ∈ cu.out, o.home = none)) ∧
    (Issues (st cOut []) wt cOut ∧ cOut.out ≠ [] ∧ ¬(∀ o ∈ cOut.out, o.home = none)) ∧
    (∃ c : Ctx, Issues (st c []) wt c ∧ ¬∀ o ∈ c.out, o.cls ≠ .mx) ∧
    (let s := (st cFlush []).setCb (hostCore 2) 0x0A00 (BitVec.ofNat 64 (2 ^ 63));
      Issues s wt cFlush ∧ cFlush.out = [] ∧ cFlush.flush = [(2, none)] ∧ bit (s.cb (hostCore 2) 0x0A00) 63 = true) ∧
    (cOut.count .mx ≤ 0 ∧ cOut.count .cp ≤ 0 ∧ cOut.count .st ≤ 1 ∧ cOut.count .ld ≤ 0 ∧ ¬cOut.count .st ≤ 0) ∧
    (let s := on (.pcieCompletion 2 flushed) (st cFlushing []);
      s.srcWho flushed.acc.src = some wt ∧ flushed.acc.op = .load 3 false ∧ flushed.acc.dst = .nobody ∧ s.ctx? wt = some cFlushing ∧ cFlushing.flush = [(2, some flushed.acc.id)]) :=
  ⟨⟨⟨rfl, rfl, rfl⟩, rfl, rfl, by decide⟩, ⟨⟨rfl, rfl, rfl⟩, by decide, by decide⟩,
    ⟨{ cu with out := [{ id := 9, cls := .mx, dst := none, home := some 0, both := false }] }, ⟨rfl, rfl, rfl⟩, by decide⟩,
    ⟨⟨rfl, rfl, rfl⟩, rfl, rfl, by decide⟩, by decide, by decide, rfl, rfl, rfl, rfl⟩

/-- The walk under way for slot 3: ASID 5 of partition 1. -/
def walk5 : Walk := { core := 0, slot := 3, gen := 0, part := 1, asid := 5, va := 0x10040, mode := .u, install := true }
/-- Tables in DRAM: the ASID table at 0x10000, a level-1 table at 0x20000 with a leaf of 4 TiB over the reticles' SRAM; the channel's table is open. -/
def sWalk : State :=
  let s := { st { cu with walking := true } [] with mem := memWrite (memWrite [] (0x10000 + 40) 8 0x20001) 0x20000 8 (4 * 2 ^ 42 + 0x6B), ev := some (.walkComplete walk5) }
  (s.setRcb 0 0x0100 0x10000).setCb 192 0x8000 0xC0FE000000000000
/-- The level-1 entry's address and the leaf. -/
def sWalkNone : State := { sWalk with mem := [] }
/-- Answers of the walk, as far as they can be told apart. -/
def walkOk (r : State × WalkEnd) (w : Who) (c : Ctx) : Bool :=
  (match r.2 with
    | .ok e => e.us && e.pa == 4 * 2 ^ 42 && e.size == 42
    | _ => false) && decide (r.1.ctx? w = some c) && r.1.gen w == 0 && decide ((r.1.core 0).tlb.length < 512)
theorem witness_Translation : (cf.mode = .f ∧ (2 ^ 48 : Nat) ≤ (0x1000000000000 : Word).toNat ∧ (st cf []).placeOf 0xFFFFFFFFFFFF = .hole) ∧
    (cu.mode ≠ .f ∧ (0x0040000000000000 : Word).getLsbD 55 ≠ (0x0040000000000000 : Word).getLsbD 54) ∧
    ((∀ n, 54 ≤ n → n < 64 → (0xFFFF : Word).getLsbD n = (0xFFFF : Word).getLsbD 54) ∧
      (∃ e, ((paged (st cu [])).core wt.core).tlb = [e] ∧ e.parity = false ∧ e.part = cu.part ∧ (e.g = true ∨ e.asid = cu.asid) ∧ e.page = (0xFFFF : Word).toNat % 2 ^ 55 / 2 ^ e.size ∧
        (paged (st cu [])).placeOf ((e.pa + (0xFFFF : Word).toNat % 2 ^ 55 % 2 ^ e.size) % 2 ^ 48) ≠ .hole)) ∧
    (sWalk.ev = some (.walkComplete walk5) ∧ wt.core = walk5.core ∧ (wt.slot, sWalk.gen wt, walk5.va) ∈ Walk.waiters walk5 ∧ sWalk.ctx? wt = some { cu with walking := true } ∧
      walkOk (sWalk.walk walk5) wt { cu with walking := true } = true ∧ walk5.install = true) ∧
    (walk5.gen = sWalk.gen wt ∧ walk5.others = [] ∧ sWalkNone.forwarded (sWalkNone.walkAccess walk5 0x10028) = none ∧
      sWalkNone.fillsPage (sWalkNone.walkAccess walk5 0x10028) = false ∧ bits (sWalkNone.rcb (coreRet walk5.core) 0x0100) 55 15 * 2 ^ 15 + 8 * walk5.asid = 0x10028 ∧ sWalkNone.isLocalPa 0x10028 = true ∧
      (sWalkNone.placeOf 0x10028).isDram = true ∧ sWalkNone.placeLive (sWalkNone.placeOf 0x10028) = true ∧
      sWalkNone.admits (sWalkNone.placeOf 0x10028) { part := 1, mode := .s } .read 0x10028 = true ∧ memRead sWalkNone.mem 0x10028 8 % 2 = 0) :=
  ⟨by decide, by decide,
    ⟨fun n h1 h2 => by
      have : n = 54 ∨ n = 55 ∨ n = 56 ∨ n = 57 ∨ n = 58 ∨ n = 59 ∨ n = 60 ∨ n = 61 ∨ n = 62 ∨ n = 63 := by omega
      rcases this with rfl | rfl | rfl | rfl | rfl | rfl | rfl | rfl | rfl | rfl <;> decide,
      ⟨_, rfl, rfl, rfl, by decide, by decide, by decide⟩⟩,
    ⟨rfl, rfl, by decide, rfl, by decide, rfl⟩, by decide, rfl, by decide, by decide, by decide, by decide, by decide, by decide, by decide, by decide⟩

/-- ICINV and TLBI of this context and their acknowledgements. -/
def icq : IcReq := { core := 0, slot := 3, gen := 0, part := 1, asid := 5, va := 0x1000, len := 64 }
/-- TLBI's. -/
def tlbq : TlbiReq := { core := 0, slot := 3, gen := 0, part := 1, asid := 5, va := 0x1000, scope := 0 }
theorem witness_Invalidations : (let s := st cu [(1, 0x1000), (2, 64)];
      Issues s wt cu ∧ cu.alone ∧ Usable s wt cu [1, 2] ∧ Usable s wt cu [1, 3] ∧ cu.within 15 15 0 15 = true ∧ s.reg wt cu 3 = 0 ∧ s.reg wt cu 2 ≠ 0 ∧
      ((s.cores.filter fun k => k.2.slots.any fun x => decide (x.2.part = cu.part ∧ x.2.kind ≠ .message)).map (·.1)) = [0]) ∧
    (let c : Ctx := { cu with run := .parked (.icinv 1) };
      let s := on (.icinvAck icq) (st c []);
      s.ctx? wt = some c ∧ icq.gen = s.gen wt ∧ c.alone ∧ c.run = .parked (.icinv 1)) ∧
    (let c : Ctx := { cu with run := .parked (.tlbi 2) };
      let s := on (.tlbiAck tlbq) (st c []);
      s.ctx? wt = some c ∧ tlbq.gen = s.gen wt ∧ c.alone ∧ c.run = .parked (.tlbi 2)) :=
  ⟨⟨⟨rfl, rfl, rfl⟩, rfl, usable_of _ _ _ _ (by decide), usable_of _ _ _ _ (by decide), by decide, by decide, by decide, by decide⟩,
    ⟨rfl, rfl, rfl, rfl⟩, rfl, rfl, rfl, rfl⟩

/-- A borrowed set of eight entries from 64, in slot 5, beside three others. -/
def cSets : Ctx := { cu with base := 96, sets := [(5, 64, 8), (6, 72, 8), (7, 80, 8)] }
/-- Selectors: its last entry, written; the set; sizes. -/
def sSets : State := (st cSets [(1, 0x10705), (2, 0x77), (3, 5), (4, 8), (5, 128)]).modCore 0 fun k => { k with
  withheld := [{ slot := 5, base := 64, lim := 8 }, { slot := 6, base := 72, lim := 8 }, { slot := 7, base := 80, lim := 8 }] }
theorem witness_RegisterBorrowing : (Issues sSets wt cSets ∧ cSets.kind ≠ .migrant ∧ Usable sSets wt cSets [1, 2, 0] ∧ Usable sSets wt cSets [3, 3, 9] ∧
      Usable sSets wt cSets [4, 4, 9] ∧ Usable sSets wt cSets [5, 5, 9] ∧ cSets.sets.length < 4) ∧
    ((sSets.reg wt cSets 4).toNat = 8 ∧ (sSets.reg wt cSets 5).toNat = 128 ∧ (sSets.core wt.core).ringCount = 0 ∧
      (sSets.core wt.core).place wt.core 128 = some (0, 128) ∧
      ((sSets.modCore 0 fun k => { k with ringCount := 1 }).core wt.core).ringCount ≠ 0) ∧
    ((sSets.reg wt cSets 1).toNat < 2 ^ 17 ∧ (sSets.reg wt cSets 1).toNat % 2 ^ 6 = 5 ∧ (sSets.reg wt cSets 1).toNat / 2 ^ 6 % 4 = 0 ∧
      (sSets.reg wt cSets 1).toNat / 2 ^ 8 % 2 ^ 7 = 7 ∧ (sSets.reg wt cSets 1).getLsbD 15 = false ∧
      cSets.sets.find? (fun t => t.1 == 5) = some (5, 64, 8) ∧ (sSets.fileEntry wt.core (64 + 7)).bad = false ∧
      ∀ r, r < 128 → cSets.base + r ≠ 64 + 7) ∧
    (sSets.reg wt cSets 3).toNat = 5 :=
  ⟨⟨⟨rfl, rfl, rfl⟩, by decide, usable_of _ _ _ _ (by decide), usable_of _ _ _ _ (by decide), usable_of _ _ _ _ (by decide),
      usable_of _ _ _ _ (by decide), by decide⟩,
    ⟨by decide, by decide, rfl, by decide, by decide⟩, ⟨by decide, by decide, by decide, by decide, by decide, rfl, by decide, fun r _ => by show 96 + r ≠ 71; omega⟩,
    by decide⟩
/-- A neighbour write from tile (0, 1) to slot 3 of tile (0, 0). -/
def nwr (r : Nat) : NWrite := { id := 9, src := { modn := 0, core := 1, slot := 3, gen := 0 }, part := 1, asid := 5, core := 0, dir := 3, reg := r, data := 0x77 }
theorem witness_NeighbourLinks : (let s := st cu [(1, 7)];
      Issues s wt cu ∧ cu.alone ∧ cu.kind ≠ .migrant ∧ Usable s wt cu [1, 5] ∧ s.linkTo wt.core 1 = some 1 ∧ cu.nwrOut.contains 1 = false ∧ cu.count .st < 15) ∧
    (let s := on (.neighbourWrite (nwr 31)) (st cu []); s.srcWho (nwr 31).src = none) ∧
    (let s := on (.neighbourWrite (nwr 31)) ((st cu []).setCtx { core := 1, slot := 3 } cu);
      s.srcWho (nwr 31).src ≠ none ∧ s.ctx? wt = some cu ∧ cu.kind = .resident ∧ cu.role = .single ∧ cu.part = (nwr 31).part ∧ cu.asid = (nwr 31).asid ∧ (nwr 31).reg < cu.lim ∧
      ¬(nwr 32).reg < cu.lim) ∧
    (let s := (on (.neighbourWriteLand 0 3 3) (st cu [])).modCore 0 fun k => { k with
        nwr := [nwr 31], file := mput 31 { val := 0, pres := .armed, bad := false } k.file };
      (s.core 0).nwr = [nwr 31] ∧ s.ctx? wt = some cu ∧ (s.regEntry wt cu 31).pres = .armed ∧ cu.inh = false) ∧
    (let n : NWrite := { nwr 31 with src := { modn := 0, core := 0, slot := 3, gen := 0 } };
      let s := on (.nwrAck n false) (st cOut []);
      s.srcWho n.src = some wt ∧ s.ctx? wt = some cOut ∧ (cOut.op? n.id).any (fun o => o.dst.isNone) = true ∧ cOut.pend.late = none) :=
  ⟨⟨⟨rfl, rfl, rfl⟩, rfl, by decide, usable_of _ _ _ _ (by decide), by decide, by decide, by decide⟩,
    by decide, ⟨by decide, rfl, rfl, rfl, rfl, rfl, by decide, by decide⟩, ⟨rfl, rfl, by decide, by decide⟩, by decide, rfl, by decide, rfl⟩

/-! Contexts between instructions. -/

/-- Parked on x5, which is owed in `sParked`. -/
def cParked : Ctx := { cu with run := .parked (.regs [5, 6]) }
/-- x5's reply is owed. -/
def sParked : State := (st cParked []).modCore 0 fun k => { k with file := mput 5 { val := 0, pres := .owed, bad := false } k.file }
/-- A late trap is pending; a host interrupt's mailbox is full for slot 3. -/
def cLate : Ctx := { cu with pend := { Pend.none with late := some (.pgnp, 0x40) } }
/-- Interrupts enabled. -/
def cIrq : Ctx := { cu with trapen := 0x400 }
theorem witness_ContextEvents : (((st cu []).ctx? wt = some cu ∧ cu.spacing ≤ (st cu []).now wt.core) ∧
      ((st { cu with spacing := 9 } []).ctx? wt = some { cu with spacing := 9 } ∧ (st { cu with spacing := 9 } []).now wt.core < 9) ∧
      (st { cu with expired := true } []).ctx? wt = some { cu with expired := true }) ∧
    ((st cParked []).ctx? wt = some cParked ∧ cParked.run = .parked (.regs [5, 6]) ∧ (∀ r ∈ [5, 6], ((st cParked []).regEntry wt cParked r).pres = .present)) ∧
    (sParked.ctx? wt = some cParked ∧ (∃ r ∈ [5, 6], (sParked.regEntry wt cParked r).pres ≠ .present) ∧ cParked.pend = Pend.none ∧ cParked.heldTrap = none ∧
      sParked.hostirqDue wt cParked = false) ∧
    ((st cLate []).ctx? wt = some cLate ∧ Delivers (st cLate []) wt cLate 0x4000 ∧ cLate.out = [] ∧ cLate.pend = { Pend.none with late := some (.pgnp, 0x40) }) ∧
    (let s := (st cIrq []).setCb 0 0x0810 0x5555555555558003;
      s.ctx? wt = some cIrq ∧ Delivers s wt cIrq 0x4000 ∧ cIrq.pend = Pend.none ∧ cIrq.mode = .u ∧ cIrq.trapen.getLsbD 10 = true ∧
      (s.cb wt.core 0x0810).getLsbD 15 = true ∧ (s.cb wt.core 0x0810).toNat % 64 = wt.slot) ∧
    (let s := ((st cu []).setRcb 0 0x0700 0).modCore 0 fun k => { k with strips := [{ slot := 4, base := 32, lim := 8 }] };
      s.ctx? wt = some cu ∧ { slot := 4, base := 32, lim := 8 } ∈ (s.core 0).strips ∧ (s.core 0).ringCount = 0 ∧ s.pval (coreRet 0) = false) :=
  ⟨⟨⟨rfl, by decide⟩, ⟨rfl, by decide⟩, rfl⟩, ⟨rfl, rfl, by decide⟩, ⟨rfl, by decide, rfl, rfl, by decide⟩, ⟨rfl, ⟨by decide, by decide, by decide, by decide, by decide, rfl⟩, rfl, rfl⟩,
    ⟨rfl, ⟨by decide, by decide, by decide, by decide, by decide, rfl⟩, rfl, rfl, by decide, by decide, by decide⟩, rfl, by decide, rfl, by decide⟩

/-- A migrant about to leave for tile 1, from a place of an overflow ring; a packet; a core whose ring holds one; an overflow entry. -/
def cGone : Ctx := { cMig with lim := 24, run := .departing 1 0x2000, ovix := some (0, 5) }
/-- The packet of a context of partition 1, ASID 5. -/
def packet : List Word := [0x2000, BitVec.ofNat 64 (2 ^ 48 + 5 * 2 ^ 36), 1, 2] ++ List.replicate 28 7
/-- The ring holds `n` packets and `o` overflow entries. -/
def ringed (n : Nat) (o : List (Nat × Nat)) : State := (world.setRcb 0 0x0400 0x10000).modCore 0 fun k => { k with ringCount := n, overflow := o }
/-- Every slot but 63 taken. -/
def fullCore (s : State) : State := s.modCore 0 fun k => { k with slots := (List.range 63).map (fun n => (n, cu)) ++ [(63, Ctx.message)] }
/-- An overflow entry of DRAM holds a packet, and every slot is taken. -/
def sRefill : State := fullCore (ringed 1 [(0, 0)])
theorem witness_MigrantPackets : (let s := on (.migrantDeparture 0 3) (st cGone [(1, 9), (23, 8)]);
      s.ctx? wt = some cGone ∧ cGone.run = .departing 1 0x2000 ∧ cGone.out = [] ∧ cGone.alone ∧ cGone.pend = Pend.none ∧
      s.hostirqDue wt { cGone with pc := 0x2000 } = false ∧ (∀ r, 0 < r → r < 24 → (s.regEntry wt cGone r).bad = false) ∧ cGone.part < 64 ∧ cGone.asid < 2 ^ 12 ∧ coreRet wt.core < 64) ∧
    ((packet.getD 1 0).getLsbD 35 = false ∧ (world.core 0).ringCount = 0 ∧ (world.core 0).place 0 24 = some (0, 0) ∧ packet.length = 32) ∧
    (0 < ((ringed 1 []).core 0).ringCount ∧ ((ringed 255 []).core 0).ringCount < Config.ringPackets) ∧
    ((sRefill.core 0).overflow = [(0, 0)] ∧ (sRefill.core 0).ringCount < Config.ringPackets ∧ 0 < (sRefill.core 0).ringCount ∧
      (∀ g ∈ granules (sRefill.poolEntry (0, 0)), (sRefill.setCb 192 0x8000 0xC0FE000000000000).admits (sRefill.placeOf g)
        (packetTag ((readWords sRefill.mem (sRefill.poolEntry (0, 0)) 32).set 7
          (setBits (BitVec.ofNat 64 (memRead sRefill.mem (sRefill.poolEntry (0, 0) + 56) 8)) 63 44 0xFFFFF))) .read g = true) ∧
      (∀ i, i < 32 → sRefill.movedTo (sRefill.poolEntry (0, 0) + 8 * i) = none) ∧ (sRefill.core 0).findSlot 0 = none ∧
      ∀ i, i < 32 → sRefill.poisoned (sRefill.poolEntry (0, 0) + 8 * i) = false ∧ sRefill.corrupt.contains (sRefill.poolEntry (0, 0) + 8 * i) = false) :=
  ⟨⟨rfl, rfl, rfl, rfl, rfl, by decide,
      fun r _ h => (by decide : ∀ r ∈ List.range 24, ((on (.migrantDeparture 0 3) (st cGone [(1, 9), (23, 8)])).regEntry wt cGone r).bad = false) r
        (List.mem_range.2 h), by decide, by decide, by decide⟩, by decide, by decide, by decide, by decide, by decide,
    by decide +kernel, by decide +kernel, by decide +kernel, fun _ _ => ⟨rfl, rfl⟩⟩


/-! Engines. -/

/-- A shape record: format, address, extents of dimensions 0 and 1 (0: one dimension), their strides, mask or not, auxiliary kind. -/
def rec_ (fmt base e0 e1 s0 s1 : Nat) (men : Bool) (auxk : Nat) : List Word :=
  [BitVec.ofNat 64 (fmt * 2 ^ 58 + (if e1 = 0 then 0 else 2 ^ 54) + base), BitVec.ofNat 64 (e0 + e1 * 2 ^ 16),
    BitVec.ofNat 64 (s0 + s1 * 2 ^ 32), 0, 0, if men then 0x8000000000000800 else 0, 0, BitVec.ofNat 64 (auxk * 2 ^ 56 + 0x900)]
/-- x5, x6 and x7 hold the addresses of three records of the tile; ctr.MX is free and the tile has energy. -/
def eng (c : Ctx) (d a b : List Word) : State :=
  { ((st c [(5, 0), (6, 0x40), (7, 0x80)]).setCb 0 0x0208 0x100000000) with
    mem := memWords (memWords (memWords [] (tileAddr 0 0) d) (tileAddr 0 0x40) a) (tileAddr 0 0x80) b }
/-- A record of one element of a format, with or without a mask. -/
def one (fmt base : Nat) (men : Bool) : List Word := rec_ fmt base 1 0 4 0 men 0
/-- An accumulator record of one slot. -/
def slots (base : Nat) : List Word := rec_ 0 base 1 1 128 0 false 0
/-- A BPw record of one row. -/
def planes (fmt base auxk : Nat) : List Word := rec_ fmt base 64 1 64 64 false auxk
/-- States in which the commands of x5, x6 and x7 pass their checks. -/
def engFor : Instr → State
  | .vsel _ _ _ | .vmask _ _ _ => eng cf (one 5 0x100 true) (one 5 0x200 false) (one 5 0x300 false)
  | .vexp _ _ | .vrcp _ _ | .vrsq _ _ | .vsoft _ _ => eng cf (one 9 0x100 false) (one 9 0x200 false) []
  | .vcvt _ _ => eng cf (one 9 0x100 false) (one 5 0x200 false) []
  | .bppack _ _ _ | .bscl _ _ _ => eng cf (planes 0x12 0x1000 0) (rec_ 9 0x2000 64 1 4 0 false 0) (rec_ 0x20 0x300 1 1 1 0 false 0)
  | .ezero _ | .eacc _ _ => eng cf (slots 0x2C0000) (slots 0x2C0080) []
  | .edrn _ _ _ => eng cf (rec_ 9 0x100 1 1 4 0 false 0) (slots 0x2C0080) [0, 0, 0x3F80000000000000, 0, 0, 0, 0, 0]
  | _ => eng cf (one 5 0x100 false) (one 5 0x200 false) (one 5 0x300 false)
/-- The commands. -/
def commands : List Instr :=
  [.vadd 5 6 7, .vsub 5 6 7, .vmul 5 6 7, .vfma 5 6 7, .vmin 5 6 7, .vmax 5 6 7, .vand 5 6 7, .vor 5 6 7, .vxor 5 6 7, .vshl 5 6 7, .vcmp 5 6 7,
    .vsel 5 6 7, .vcvt 5 6, .vexp 5 6, .vrcp 5 6, .vrsq 5 6, .vabs 5 6, .vneg 5 6, .vmov 5 6, .vsoft 5 6, .vfill 5 6, .vmask 5 6 7, .vsum 5 6,
    .vmaxr 5 6, .vminr 5 6, .vscan 5 6, .vgath 5 6 7, .vscat 5 6 7, .bppack 5 6 7, .bscl 5 6 7, .ezero 5, .eacc 5 6, .edrn 5 6 7]
/-- The checks of a command pass and its registers are usable, decided. -/
def passes (s : State) (i : Instr) : Bool :=
  match s.commandRow wt cf (fun r => s.reg wt cf r.toNat) i with
  | some (rs, recs, .ok _) => usable s wt cf rs && recs.all fun r =>
    decide ((s.reg wt cf r.toNat).toNat % 64 = 0 ∧ (s.reg wt cf r.toNat).toNat + 64 ≤ 0x2B0000)
  | _ => false
/-- What the states of these tests share: nothing held, poisoned or corrupt, the reset table at their tile. -/
structure Clean (s : State) : Prop where
  holds : (s.core 0).holds = []
  waiting : (s.core 0).blocked = [] ∧ (s.core 0).ready = []
  poison : s.poison = []
  corrupt : s.corrupt = []
  table : s.blk (.core 0) accOff = 0xC0F8000000000000 ∧ s.blk (.core 0) (accOff + 8) = 0x0000FFFFFFFFFFC0

theorem Clean.readable {s : State} (h : Clean s) (lo hi : Nat) : s.readable wt lo hi :=
  ⟨by simp [State.bytesWait, wt, h.holds, h.waiting], fun _ _ _ _ => ⟨by simp [State.poisoned, h.poison], by simp [h.corrupt]⟩⟩
theorem Clean.granted {s : State} (h : Clean s) {c : Ctx} (hc : c.mode = .f) (w r : List Foot) : Granted s wt c w r :=
  ⟨fun _ _ _ _ _ _ _ => admits_f h.table.1 h.table.2 hc, by show (s.core 0).holds.length < 32; rw [h.holds]; decide⟩
theorem Clean.record {s : State} (h : Clean s) {a : Word} (ha : a.toNat % 64 = 0 ∧ a.toNat + 64 ≤ 0x2B0000) : RecordAt s wt a 64 :=
  ⟨ha.1, .inl ha.2, h.readable _ _⟩
theorem passes_sound {s : State} {i : Instr} (h : passes s i = true) :
    ∃ rs recs p, s.commandRow wt cf (fun r => s.reg wt cf r.toNat) i = some (rs, recs, .ok p) ∧ Usable s wt cf rs ∧
      ∀ r ∈ recs, (s.reg wt cf r.toNat).toNat % 64 = 0 ∧ (s.reg wt cf r.toNat).toNat + 64 ≤ 0x2B0000 := by
  unfold passes at h
  split at h
  · rw [Bool.and_eq_true] at h
    exact ⟨_, _, _, ‹_›, usable_of _ _ _ _ h.1, fun r hr => of_decide_eq_true (List.all_eq_true.mp h.2 r hr)⟩
  · cases h
theorem commands_pass : commands.all (fun i => passes (engFor i) i) = true := by decide +kernel
theorem clean_eng {c : Ctx} (d a b : List Word) : Clean (eng c d a b) := ⟨rfl, ⟨rfl, rfl⟩, rfl, rfl, rfl, rfl⟩
theorem energy_eng {c : Ctx} (d a b : List Word) : (eng c d a b).cb 0 0x0208 = 0x100000000 := rfl
theorem clean_engFor (i : Instr) : Clean (engFor i) := by unfold engFor; split <;> exact clean_eng _ _ _

/-- Formats and scales of operands. -/
def cfm : Ctx := { cf with fmta := BitVec.ofNat 64 (0x12 * 2 ^ 58 + tileAddr 0 0xA00), fmtb := BitVec.ofNat 64 (0x11 * 2 ^ 58 + tileAddr 0 0xB00), prec := 0x10 }
/-- Matrix commands: the form needs its auxiliary array. -/
def engMx (fn : Nat) : State :=
  let s := eng cfm (slots 0x2C0000) (planes 0 0x1000 fn) (planes 0 0x2000 0)
  { s with mem := memWrite s.mem (tileAddr 0 0x900) 8 1 }
/-- The checks of a matrix command pass, its scales are found, outside what it writes. -/
def mxPasses (s : State) (fn : Nat) : Bool :=
  match planMx fn (s.reg wt cfm 5) (s.reg wt cfm 6) (s.reg wt cfm 7) s wt cfm with
  | .ok p => (match s.scaleAt wt cfm ((mxScales cfm p.cmd).1 ++ (mxScales cfm p.cmd).2) with
    | .ok l => p.writes.all fun f => l.all fun (o : Nat) => !(decide (f.lo < (o : Int) + 1) && decide ((o : Int) < f.hi))
    | _ => false)
  | _ => false
theorem mxPasses_sound {s : State} {fn : Nat} (h : mxPasses s fn = true) :
    ∃ p l, planMx fn (s.reg wt cfm 5) (s.reg wt cfm 6) (s.reg wt cfm 7) s wt cfm = .ok p ∧
      s.scaleAt wt cfm ((mxScales cfm p.cmd).1 ++ (mxScales cfm p.cmd).2) = .ok l ∧
      ∀ f ∈ p.writes, ∀ o ∈ l, ¬(f.lo < (o : Int) + 1 ∧ (o : Int) < f.hi) := by
  unfold mxPasses at h
  split at h
  · rename_i p hp
    split at h
    · rename_i l hl
      refine ⟨p, l, hp, hl, fun f hf o ho hn => ?_⟩
      have := List.all_eq_true.mp (List.all_eq_true.mp h f hf) o ho
      simp [hn.1, hn.2] at this
    · cases h
  · cases h
theorem mx_pass : (List.range 3).all (fun fn => mxPasses (engMx fn) fn && usable (engMx fn) wt cfm [5, 6, 7]) = true := by decide +kernel
/-- BPUNPK. -/
def engUnpack : State := eng cfm (rec_ 9 0x3000 64 1 4 0 false 0) (planes 0x12 0x1000 0) []
/-- Its checks pass and its scale is found, outside what it writes. -/
def unpackPasses : Bool :=
  match planUnpack (engUnpack.reg wt cfm 5) (engUnpack.reg wt cfm 6) engUnpack wt cfm with
  | .ok p => p.cmd.a.isSome && p.cmd.a.all fun h =>
    (match engUnpack.scaleAt wt cfm (scaleVas cfm.fmta (h.ext 1) (blocksOf (h.ext 0)) (List.range (blocksOf (h.ext 0)))) with
      | .ok l => l == [0xA00] && p.writes.all fun f => l.all fun (o : Nat) => !(decide (f.lo < (o : Int) + 1) && decide ((o : Int) < f.hi))
      | _ => false)
  | _ => false
theorem unpack_sound : ∃ p h l, planUnpack (engUnpack.reg wt cfm 5) (engUnpack.reg wt cfm 6) engUnpack wt cfm = .ok p ∧ p.cmd.a = some h ∧
    engUnpack.scaleAt wt cfm (scaleVas cfm.fmta (h.ext 1) (blocksOf (h.ext 0)) (List.range (blocksOf (h.ext 0)))) = .ok l ∧
    ∀ f ∈ p.writes, ∀ o ∈ l, ¬(f.lo < (o : Int) + 1 ∧ (o : Int) < f.hi) := by
  have h : unpackPasses = true := by decide +kernel
  unfold unpackPasses at h
  split at h
  · rename_i p hp
    cases ha : p.cmd.a with
    | none => simp [ha] at h
    | some x =>
      simp only [ha, Option.isSome_some, Option.all_some, Bool.true_and] at h
      split at h
      · refine ⟨p, x, _, hp, ha, ‹_›, fun f hf o ho hn => ?_⟩
        have := List.all_eq_true.mp (List.all_eq_true.mp (Bool.and_eq_true _ _ ▸ h).2 f hf) o ho
        simp [hn.1, hn.2] at this
      · cases h
  · cases h
/-- A slot is read. -/
def sRead : State := (st cf [(5, 0x2C0080), (6, 10)]).setCb 0 0x0208 0x100000000
theorem witness_EngineCommandsIssue :
    (∀ i ∈ commands, Issues (engFor i) wt cf ∧ cf.solo ∧ isTile wt.core = true ∧ cf.cond = none ∧ cf.count .mx < 15 ∧
      2 ^ 32 ≤ ((engFor i).cb wt.core 0x0208).toInt ∧ ∃ rs recs p, (engFor i).commandRow wt cf (fun r => (engFor i).reg wt cf r.toNat) i =
        some (rs, recs, .ok p) ∧ Usable (engFor i) wt cf rs ∧
        (∀ r ∈ recs, RecordAt (engFor i) wt ((engFor i).reg wt cf r.toNat) 64) ∧
        Granted (engFor i) wt cf p.writes (p.reads ++ p.recs)) ∧
    (Issues engUnpack wt cfm ∧ Usable engUnpack wt cfm [5, 6] ∧ cfm.count .mx < 15 ∧ 2 ^ 32 ≤ (engUnpack.cb wt.core 0x0208).toInt ∧
      (∀ r ∈ [(5 : Reg), 6], RecordAt engUnpack wt (engUnpack.reg wt cfm r.toNat) 64) ∧
      ∃ p h l, planUnpack (engUnpack.reg wt cfm 5) (engUnpack.reg wt cfm 6) engUnpack wt cfm = .ok p ∧ p.cmd.a = some h ∧
        engUnpack.scaleAt wt cfm (scaleVas cfm.fmta (h.ext 1) (blocksOf (h.ext 0)) (List.range (blocksOf (h.ext 0)))) = .ok l ∧
        (∀ o ∈ l, engUnpack.readable wt o (o + 1)) ∧ (∀ f ∈ p.writes, ∀ o ∈ l, ¬(f.lo < (o : Int) + 1 ∧ (o : Int) < f.hi)) ∧
        Granted engUnpack wt cfm p.writes (p.reads ++ l.map (fun (o : Nat) => { lo := o, hi := o + 1, at_ := p.cmd.dst.at_ }) ++ p.recs)) ∧
    (∀ fn, fn ≤ 2 → tileKind (coreTile wt.core) = .d ∧ Issues (engMx fn) wt cfm ∧ Usable (engMx fn) wt cfm [5, 6, 7] ∧
      (∀ r ∈ [(5 : Reg), 6, 7], RecordAt (engMx fn) wt ((engMx fn).reg wt cfm r.toNat) 64) ∧
      (∀ r ∈ (engMx fn).auxRange 0 ((engMx fn).reg wt cfm 6), (engMx fn).readable wt r.1 r.2) ∧
      ∃ p l, planMx fn ((engMx fn).reg wt cfm 5) ((engMx fn).reg wt cfm 6) ((engMx fn).reg wt cfm 7) (engMx fn) wt cfm = .ok p ∧
        (engMx fn).scaleAt wt cfm ((mxScales cfm p.cmd).1 ++ (mxScales cfm p.cmd).2) = .ok l ∧ (∀ o ∈ l, (engMx fn).readable wt o (o + 1)) ∧
        (∀ f ∈ p.writes, ∀ o ∈ l, ¬(f.lo < (o : Int) + 1 ∧ (o : Int) < f.hi)) ∧
        Granted (engMx fn) wt cfm p.writes (p.reads ++ l.map (fun (o : Nat) => { lo := o, hi := o + 1, at_ := p.cmd.dst.at_ }) ++ p.recs)) ∧
    (Issues sRead wt cf ∧ cf.count .ld < 15 ∧ coreRet wt.core < 49 ∧ (sRead.reg wt cf 5).toNat = 0x2C0080 ∧ (sRead.reg wt cf 6).toNat = 10 ∧
      Usable sRead wt cf [5, 6, 7] ∧
      AtHome sRead (sRead.request wt cf (.load 3 false) 0x2C00D0 (sRead.paOf (tileAddr 0 0x2C00D0)) 0 0 (some 7) sRead.ids)) := by
  refine ⟨fun i hi => ⟨?_, ⟨rfl, rfl⟩, rfl, rfl, by decide, ?_, ?_⟩, ?_, fun fn hfn => ?_, ⟨rfl, rfl, rfl⟩, by decide, by decide, rfl, rfl,
    usable_of _ _ _ _ (by decide), ⟨⟨.inl ⟨0, 0x2C00D0, rfl⟩, rfl, rfl, admits_f rfl rfl rfl, fun _ _ => ⟨rfl, rfl⟩⟩, rfl⟩⟩
  · unfold engFor; split <;> exact ⟨rfl, rfl, rfl⟩
  · show 2 ^ 32 ≤ ((engFor i).cb 0 0x0208).toInt
    unfold engFor; split <;> rw [energy_eng] <;> decide
  · obtain ⟨rs, recs, p, h1, h2, h3⟩ := passes_sound (List.all_eq_true.mp commands_pass i hi)
    exact ⟨rs, recs, p, h1, h2, fun r hr => (clean_engFor i).record (h3 r hr), (clean_engFor i).granted rfl _ _⟩
  · obtain ⟨p, h, l, h1, h2, h3, h4⟩ := unpack_sound
    have hc : Clean engUnpack := clean_eng _ _ _
    exact ⟨⟨rfl, rfl, rfl⟩, usable_of _ _ _ _ (by decide), by decide, by decide,
      fun r hr => hc.record (by simp only [List.mem_cons, List.not_mem_nil, or_false] at hr; rcases hr with rfl | rfl <;> decide), p, h, l, h1, h2, h3,
      fun _ _ => hc.readable _ _, h4, hc.granted rfl _ _⟩
  · have hc : Clean (engMx fn) := ⟨rfl, ⟨rfl, rfl⟩, rfl, rfl, rfl, rfl⟩
    have hp := List.all_eq_true.mp mx_pass fn (List.mem_range.2 (Nat.lt_succ_of_le hfn))
    rw [Bool.and_eq_true] at hp
    obtain ⟨p, l, h1, h2, h3⟩ := mxPasses_sound hp.1
    exact ⟨rfl, ⟨rfl, rfl, rfl⟩, usable_of _ _ _ _ hp.2, fun r hr => hc.record (by
      simp only [List.mem_cons, List.not_mem_nil, or_false] at hr; rcases hr with rfl | rfl | rfl
      · exact (by decide : (0 : Word).toNat % 64 = 0 ∧ (0 : Word).toNat + 64 ≤ 0x2B0000)
      · exact (by decide : (0x40 : Word).toNat % 64 = 0 ∧ (0x40 : Word).toNat + 64 ≤ 0x2B0000)
      · exact (by decide : (0x80 : Word).toNat % 64 = 0 ∧ (0x80 : Word).toNat + 64 ≤ 0x2B0000)), fun _ _ => hc.readable _ _, p, l, h1, h2,
      fun _ _ => hc.readable _ _, h3, hc.granted rfl _ _⟩

/-- Shapes of two operand rows and their output. -/
def hA : Shape := shapeOf 0x40 (planes 0x11 0x1000 0)
def hB : Shape := shapeOf 0x80 (planes 0x11 0x2000 0)
/-- A matrix command of one sub-step. -/
def cmdMx : Cmd :=
  { Cmd.blank (.mx [0]) .dense (shapeOf 0 (slots 0x2C0000)) with
    id := 9, slot := 3, a := some hA, b := some hB, wa := 2, wb := 1, wsa := 2, wsb := 2, todo := [0]
    sums := [{ s := 0, n := 0, q := none, siv := false, bad := none }], scaleA := [127], scaleB := [254] }
/-- The dense array at its sub-step. -/
def sDense : State :=
  State.setTok { (st cu []).modCore 0 fun k => { k with cmds := [cmdMx], credit := 131072, holds := [{ id := 9, writes := [], reads := [], after := [] }] } with
    ev := some (.denseSubstep 0) } 0 { cls := 0, ncnt := 0, pend := 0, want := 8, hold := 8 }
/-- A vector command, whose first element is next; it is over. -/
def cmdV : Cmd :=
  { Cmd.blank (.vop 0) .vector (shapeOf 0 (one 1 0x100 false)) with
    id := 9, slot := 3, a := some (shapeOf 0x40 (one 1 0x200 false)), b := some (shapeOf 0x80 (one 1 0x300 false)) }
def cmdOver : Cmd := { cmdV with ended := true, flags := 1 }
/-- Its issuer. -/
def cIssuer : Ctx := { cu with out := [{ id := 9, cls := .mx, dst := none, home := some 0, both := false }] }
def sOver : State :=
  { (st cIssuer []).modCore 0 fun k => { k with cmds := [cmdOver], holds := [{ id := 9, writes := [], reads := [], after := [] }] } with
    ev := some (.engineCommandComplete 0 9) }
/-- The dense array whose sub-step fails its residue check. -/
def sResidue : State := sDense.modCore 0 fun k => { k with residue := [true] }
theorem witness_EngineWork :
    (sDense.ev = some (.denseSubstep 0) ∧ (sDense.core 0).denseCmd = some cmdMx ∧ cmdMx.op = .mx [0] ∧ cmdMx.a = some hA ∧ cmdMx.b = some hB ∧
      cmdMx.todo = 0 :: [] ∧ cmdMx.charge ≤ (sDense.core 0).credit ∧ (∀ lo hi, sDense.trusted 0 lo hi) ∧ hA.ext 1 = 1 ∧ hB.ext 1 = 1 ∧
      cmdMx.sums[0]? = some { s := 0, n := 0, q := none, siv := false, bad := none } ∧ cmdMx.scaleB.getD 0 0 < 255 ∧
      (sDense.tok 0).hold ≠ 0 ∧ (sDense.core 0).residue = [] ∧ cmdMx.again = false) ∧
    (sResidue.ev = some (.denseSubstep 0) ∧ (sResidue.core 0).denseCmd = some cmdMx ∧ cmdMx.charge ≤ (sResidue.core 0).credit ∧
      (sResidue.tok 0).hold ≠ 0 ∧ (sResidue.core 0).residue.head? = some true) ∧
    (cmdV.op = .vop 0 ∧ cmdV.a = some (shapeOf 0x40 (one 1 0x200 false)) ∧ cmdV.b = some (shapeOf 0x80 (one 1 0x300 false)) ∧ cmdV.dst.men = false ∧
      cmdV.jobs = 0 ∧ fmtFloat 1 = none ∧ fmtBytes 1 = 1 ∧ fmtBytes cmdV.dst.fmt = 1 ∧ ∀ lo hi, sOver.trusted 0 lo hi) ∧
    (sOver.ev = some (.engineCommandComplete 0 9) ∧ (sOver.core 0).cmds = [cmdOver] ∧ cmdOver.op = .vop 0 ∧ cmdOver.part = .vector ∧
      cmdOver.ended = true ∧ cmdOver.bad = none ∧ cmdOver.blocking = false ∧ (sOver.core 0).holds = [{ id := 9, writes := [], reads := [], after := [] }] ∧
      (sOver.core 0).blocked = [] ∧ (sOver.core 0).waits = [] ∧ sOver.gen wt = cmdOver.gen ∧ sOver.ctx? wt = some cIssuer ∧ cIssuer.alone ∧
      cIssuer.pend = Pend.none ∧ cmdOver.flags &&& cIssuer.enabled = 0 ∧ bit cIssuer.trapen 20 = false ∧ bit cIssuer.trapen 21 = false) :=
  ⟨⟨rfl, by decide, rfl, rfl, rfl, rfl, by decide, fun _ _ _ _ _ _ => ⟨rfl, rfl⟩, by decide, by decide, rfl, by decide, by decide, rfl, rfl⟩, ⟨rfl, by decide, by decide, by decide, rfl⟩,
    ⟨rfl, rfl, rfl, rfl, rfl, rfl, rfl, by decide, fun _ _ _ _ _ _ => ⟨rfl, rfl⟩⟩,
    rfl, rfl, rfl, rfl, rfl, rfl, rfl, rfl, rfl, rfl, rfl, rfl, rfl, rfl, by decide, by decide, by decide⟩

/-! Streams and the conflict-batching unit. -/

/-- A slot of a tile of kind S. -/
def wst : Who := { core := 50, slot := 3 }
/-- A context in it. -/
def stAt (c : Ctx) (rs : List (Nat × Word)) : State :=
  rs.foldl (fun s r => s.setReg wst c r.1 r.2) (({ world with cur := wst } : State).setCtx wst c)
/-- A stream of `cf` in its slot of two 8-byte keys at address 0x8000 of tile (1, 0). -/
def stream (n : Nat) (pos : Nat) : Stream :=
  { va := BitVec.ofNat 64 there, len := 2, pos := pos, cnt := 1, isOpen := true, rs := true, fmt := 8, slot := n, gen := 0 }
/-- A stream record at 0x40. -/
def sOpen : State :=
  { st cf [(5, 0x40)] with mem := memWords [] (tileAddr 0 0x40) [0x2000000000000000, BitVec.ofNat 64 there, 2, 0, 0, 0, 0, 0] }
/-- A stream open, at its end or before it. -/
def sStream (pos : Nat) : State := (st cf [(5, 1)]).setStream 0 2 (stream 3 pos)
/-- Two streams and the output record of a set command at 0x40 of the S tile. -/
def sSet : State :=
  (({ stAt cf [(5, 0x40)] with mem := memWords [] (tileAddr 50 0x40) (rec_ 8 0x100 1 0 8 0 false 0) } : State).setStream 50 2 (stream 3 0)).setStream 50 7 (stream 3 0)
def cmdSet : Cmd :=
  { Cmd.blank (.set 4 2 7) .setEngine (shapeOf 0x40 (rec_ 8 0x100 1 0 8 0 false 0)) with keyA := some 6, keyB := some 6 }
/-- Checks of a set command pass. -/
def setPasses (s : State) (fn : Nat) : Bool :=
  match planSet fn 2 7 (s.reg wst cf 5) s wst cf with
  | .ok _ => true
  | _ => false
theorem set_sound {s : State} {fn : Nat} (h : setPasses s fn = true) : ∃ p, planSet fn 2 7 (s.reg wst cf 5) s wst cf = .ok p := by
  unfold setPasses at h
  split at h
  · exact ⟨_, ‹_›⟩
  · cases h
theorem granted_at {s : State} {w : Who} {c : Ctx} (h : (s.core w.core).holds = []) (h0 : s.blk (.core w.core) accOff = 0xC0F8000000000000)
    (h1 : s.blk (.core w.core) (accOff + 8) = 0x0000FFFFFFFFFFC0) (hc : c.mode = .f) (u r : List Foot) : Granted s w c u r :=
  ⟨fun _ _ _ _ _ _ _ => admits_f h0 h1 hc, by rw [h]; decide⟩
theorem witness_StreamsAndSets :
    (Issues sOpen wt cf ∧ cf.alone ∧ isTile wt.core = true ∧ cf.cond = none ∧ cf.lvq = [] ∧ Usable sOpen wt cf [5, 0] ∧ cf.kind ≠ .migrant ∧
      (sOpen.stream 0 2).isOpen = false ∧ Record sOpen wt cf 0x40 64 ∧ ∃ y, sOpen.readStream 0 0x40 = .ok y) ∧
    (Issues (sStream 2) wt cf ∧ Usable (sStream 2) wt cf [5, 6] ∧ (sStream 2).stream 0 2 = stream 3 2 ∧ (stream 3 2).slot = wt.slot ∧
      (stream 3 2).gen = (sStream 2).gen wt ∧ (stream 3 2).len ≤ (stream 3 2).pos) ∧
    (Issues (sStream 1) wt cf ∧ Usable (sStream 1) wt cf [5, 6] ∧ (sStream 1).stream 0 2 = stream 3 1 ∧ (stream 3 1).pos < (stream 3 1).len ∧
      cf.count .ld < 15 ∧ ∃ va, va = (stream 3 1).va + BitVec.ofNat 64 (1 * (stream 3 1).z) ∧ va.toNat % 8 = 0 ∧ (sStream 1).xlate wt cf va .read = .ok va.toNat ∧
        (sStream 1).reachTrap wt cf va.toNat = none ∧ (sStream 1).isLocalPa va.toNat = true ∧ (sStream 1).homeOf va.toNat ≠ wt.core ∧
        (sStream 1).hostPort? va.toNat = none) ∧
    (Issues sSet wst cf ∧ tileKind (coreTile wst.core) = .s ∧ Usable sSet wst cf [5, 0] ∧ RecordAt sSet wst 0x40 64 ∧
      ∀ fn, fn = 4 ∨ fn = 5 → ∃ p, planSet fn 2 7 (sSet.reg wst cf 5) sSet wst cf = .ok p ∧ Granted sSet wst cf p.writes (p.reads ++ p.recs)) ∧
    (cmdSet.op = .set 4 2 7 ∧ cmdSet.ended = false ∧ cmdSet.req = none ∧ cmdSet.keyA = some 6 ∧ cmdSet.keyB = some 6 ∧ cmdSet.out < cmdSet.dst.count ∧
      (sSet.stream 50 2).pos < (sSet.stream 50 2).len ∧ (sSet.stream 50 7).pos < (sSet.stream 50 7).len) :=
  ⟨⟨⟨rfl, rfl, rfl⟩, rfl, rfl, rfl, rfl, usable_of _ _ _ _ (by decide), by decide, rfl,
      ⟨⟨by decide, by decide, rfl, fun _ _ _ _ => ⟨rfl, rfl⟩⟩, by decide +kernel⟩, _, rfl⟩,
    ⟨⟨rfl, rfl, rfl⟩, usable_of _ _ _ _ (by decide), rfl, rfl, rfl, by decide⟩,
    ⟨⟨rfl, rfl, rfl⟩, usable_of _ _ _ _ (by decide), rfl, by decide, by decide, _, rfl, by decide, by decide +kernel, by decide +kernel,
      by decide +kernel, by decide +kernel, by decide +kernel⟩,
    ⟨⟨rfl, rfl, rfl⟩, by decide, usable_of _ _ _ _ (by decide), ⟨by decide, by decide, rfl, fun _ _ _ _ => ⟨rfl, rfl⟩⟩, fun fn h => by
      obtain ⟨p, hp⟩ := set_sound (s := sSet) (fn := fn) (by rcases h with rfl | rfl <;> decide +kernel)
      exact ⟨p, hp, granted_at rfl rfl rfl rfl _ _⟩⟩,
    rfl, rfl, rfl, rfl, rfl, by decide, by decide, by decide⟩

/-- The unit of the S tile, owned by the slot under test; a constraint record of 32 bytes, or a limits record of 64, at 0x40. -/
def unit (closed : List (List Word)) : Cbu :=
  { owner := some (3, 0), savedBy := none, ml := 2, bl := 4, pending := [], batch := [{ tag := 1, bodies := [5], tested := false }], closed := closed, busy := [] }
def sUnit (u : Cbu) (l : List Word) : State :=
  { (stAt cf [(5, 0x40)]).modCore 50 fun k => { k with cbu := u } with mem := memWords [] (tileAddr 50 0x40) l }
/-- The unit is full. -/
def fullUnit : Cbu := unit [List.replicate 255 1]
/-- What it finishes. -/
def cWaits50 : Ctx := { cf with run := .parked .cb }
def sFinish : State :=
  { (stAt cWaits50 []).modCore 50 fun k =>
      { k with cbu := { unit [] with busy := [{ slot := 3, gen := 0, dst := some 5, value := 1, at_ := 0x40, out := [7] }] } } with
    ev := some (.cbUnitFinished 50) }
theorem record_at {s : State} {n : Nat} (h : (s.core 50).holds = [] ∧ (s.core 50).blocked = [] ∧ (s.core 50).ready = []) (hp : s.poison = []) (hc : s.corrupt = [])
    (h0 : s.blk (.core 50) accOff = 0xC0F8000000000000) (h1 : s.blk (.core 50) (accOff + 8) = 0x0000FFFFFFFFFFC0)
    (hn : 0x40 % n = 0 ∧ n ≤ 64) : Record s wst cf 0x40 n :=
  ⟨⟨hn.1, Or.inl (Nat.le_trans (Nat.add_le_add_left hn.2 _) (by decide)),
    by simp [State.bytesWait, wst, h], fun _ _ _ _ => ⟨by simp [State.poisoned, hp], by simp [hc]⟩⟩, admits_f h0 h1 rfl⟩
theorem witness_ConflictBatching :
    (∀ u l, Issues (sUnit u l) wst cf ∧ cf.alone ∧ isTile wst.core = true ∧ tileKind (coreTile wst.core) = .s ∧ cf.kind ≠ .migrant ∧ cf.cond = none ∧ cf.lvq = [] ∧
      ((sUnit u l).core wst.core).cbu = u ∧ (sUnit u l).reg wst cf 5 = 0x40 ∧ Record (sUnit u l) wst cf 0x40 64 ∧ Record (sUnit u l) wst cf 0x40 32) ∧
    (Usable (sUnit (unit []) []) wst cf [5, 6] ∧ Usable (sUnit (unit []) []) wst cf [5, 0]) ∧
    (∀ ml bl, ml = 1 ∧ bl = 1 ∨ ml = 256 ∧ bl = 512 → let l : List Word := BitVec.ofNat 64 (2 ^ 63 + ml * 2 ^ 16 + bl) :: List.replicate 7 0
      (sUnit Cbu.reset l).recWords wst.core 0x40 8 = l) ∧
    (unit []).owner = some (wst.slot, (sUnit (unit []) []).gen wst) ∧ (unit []).savedBy = none ∧
    (let l : List Word := [9, 1, 5, 0]; bodiesOf ((sUnit (unit []) l).recWords wst.core 0x40 4) = some [5] ∧ 1 ≤ (unit []).bl ∧
      (unit []).held ≠ 256 ∧ fullUnit.held = 256) ∧
    ((unit [[7], [8]]).closed = [7] :: [[8]] ∧ 0x40 % 8 = 0 ∧ (0x40 + 8 * [7].length) ≤ 0x2B0000 ∧ ∀ off,
      (sUnit (unit [[7], [8]]) []).admits (.sram 50 off) cf.tag .write (tileAddr 50 off) = true) ∧
    (sFinish.ev = some (.cbUnitFinished 50) ∧ (sFinish.core 50).cbu.busy = { slot := 3, gen := 0, dst := some 5, value := 1, at_ := 0x40, out := [7] } :: [] ∧
      (sFinish.core 50).holds = [] ∧ sFinish.gen wst = 0 ∧ sFinish.ctx? wst = some cWaits50 ∧ cWaits50.run = .parked .cb ∧ cWaits50.alone) :=
  ⟨fun _ _ => ⟨⟨rfl, rfl, rfl⟩, rfl, rfl, by decide, by decide, rfl, rfl, rfl, rfl, record_at ⟨rfl, rfl, rfl⟩ rfl rfl rfl rfl ⟨by decide, by decide⟩,
      record_at ⟨rfl, rfl, rfl⟩ rfl rfl rfl rfl ⟨by decide, by decide⟩⟩,
    ⟨usable_of _ _ _ _ (by decide), usable_of _ _ _ _ (by decide)⟩,
    fun ml bl h => by rcases h with ⟨rfl, rfl⟩ | ⟨rfl, rfl⟩ <;> decide +kernel,
    rfl, rfl, ⟨by decide +kernel, by decide, by decide, by decide +kernel⟩, ⟨rfl, by decide, by decide, fun _ => admits_f rfl rfl rfl⟩,
    rfl, rfl, rfl, rfl, rfl, rfl, rfl⟩

/-! Copies. -/

/-- A descriptor: source, destination, one 8-byte element; the targets of a multicast. -/
def desc (src dst cast : Nat) : List Word :=
  [BitVec.ofNat 64 src, BitVec.ofNat 64 dst, BitVec.ofNat 64 (3 * 2 ^ 59 + cast * 2 ^ 32), 1] ++ List.replicate 12 0
/-- A descriptor at 0x80; x6 the distance of two tiles. -/
def sCopy (cast : Nat) : State :=
  { st cf [(5, 0x80), (6, BitVec.ofNat 64 (tileAddr 1 0 - tileAddr 0 0)), (7, 1)] with
    mem := memWords [] (tileAddr 0 0x80) (desc here (tileAddr 0 0x800) cast) }
/-- The descriptor as read. -/
def dCopy (cast : Nat) : Desc := descOf (desc here (tileAddr 0 0x800) cast)
/-- Targets of the multicast. -/
def tgCopy : List (Nat × Word) := [(0, BitVec.ofNat 64 (tileAddr 0 0x800)), (1, BitVec.ofNat 64 (tileAddr 1 0x800))]
/-- A channel of the slot under test, its first element's read out. -/
def chan : Chan :=
  { seq := 7, slot := 3, gen := 0, id := 1, desc := dCopy 0, asid := 5, tag := cf.tag, cast := false, targets := [(0, BitVec.ofNat 64 (tileAddr 0 0x800))]
    self := 0, pages := [], total := 2, reads := 2, answered := 0, buf := [], before := [6], writes := 1, done := [], owed := 1, wp := 0, finished := false, fault := false
    stopping := none }
def chanLast : Chan := { chan with wp := 1, writes := 2, answered := 2 }
/-- A reply to it. -/
def copyReply (d : Dest) : Reply :=
  { acc := { id := 9, src := { modn := 0, core := 0, slot := 3, gen := 0 }, tag := cf.tag, op := .copyRead 3, va := 0, pa := 0, data := 0, cmp := 1, dst := d, attempt := 0 }
    value := 5, status := .ok }
def sChan (x : Chan) : State := (st cf [(5, 7 * 2 ^ 32 + 2), (6, 6 * 2 ^ 32 + 2)]).modCore 0 fun k => { k with chans := mput 2 x k.chans }
theorem copy_pre : [(0, false, [(0, BitVec.ofNat 64 (tileAddr 0 0x800))]), (3, true, tgCopy)].all (fun (y : Nat × Bool × List (Nat × Word)) =>
    usable (sCopy y.1) wt cf [5, 6, 7] && (match (sCopy y.1).readDesc 0 0x80 y.2.1 with | .ok x => x == dCopy y.1 | _ => false) &&
    (sCopy y.1).xlate wt cf ((dCopy y.1).srcVa 0) .read == .ok here &&
    (match (sCopy y.1).firstElements wt cf (dCopy y.1) 0x80 y.2.1 y.2.2 with | .ok _ => true | _ => false)) = true := by decide +kernel
theorem readDesc_sound {s : State} {a : Word} {b : Bool} {d : Desc} (h : (match s.readDesc 0 a b with | .ok x => x == d | _ => false) = true) :
    s.readDesc 0 a b = .ok d := by
  split at h
  · rename_i x hx
    rw [hx, eq_of_beq h]
  · cases h
theorem firstElements_sound {s : State} {d : Desc} {a : Word} {b : Bool} {t : List (Nat × Word)}
    (h : (match s.firstElements wt cf d a b t with | .ok _ => true | _ => false) = true) : s.firstElements wt cf d a b t = .ok () := by
  split at h
  · assumption
  · cases h
/-- A context in F translates nothing, so nothing of it has to wait. -/
theorem physical_never_misses (s : State) {c : Ctx} (h : c.mode = .f) (k : AccKind) (va : Word) : (s.unitXlate wt c va k).2 ≠ .miss := by
  by_cases h1 : bits va 63 48 = 0 <;> by_cases h2 : s.placeOf va.toNat = .hole <;> simp [State.unitXlate, State.xlate, h, h1, h2]
theorem witness_Copies :
    (∀ y ∈ [(0, false, [(0, BitVec.ofNat 64 (tileAddr 0 0x800))]), (3, true, tgCopy)], let s := sCopy y.1;
      Issues s wt cf ∧ cf.solo ∧ isTile wt.core = true ∧ cf.cond = none ∧ cf.count .cp < 15 ∧ Usable s wt cf [5, 6, 7] ∧ s.reg wt cf 5 = 0x80 ∧
      Record s wt cf 0x80 128 ∧ (∀ k va, (s.unitXlate wt cf va k).2 ≠ .miss) ∧ s.readDesc 0 0x80 y.2.1 = .ok (dCopy y.1) ∧ s.xlate wt cf ((dCopy y.1).srcVa 0) .read = .ok here ∧
      (s.core 0).freeChan = some 0 ∧ (s.core 0).holds.length < 32 ∧ s.firstElements wt cf (dCopy y.1) 0x80 y.2.1 y.2.2 = .ok ()) ∧
    ((sCopy 3).reg wt cf 6).toNat % 2 ^ (dCopy 3).esz = 0 ∧
    tgCopy = ((List.range 16).filter fun n => (dCopy 3).cast / 2 ^ n % 2 == 1).map (fun n =>
      (clusterTile 0 n, (dCopy 3).dst + BitVec.ofNat 64 n * (sCopy 3).reg wt cf 6)) ∧
    (let s := sChan chan; Issues s wt cf ∧ Usable s wt cf [5, 6, 7] ∧ (∀ h, h = s.reg wt cf 5 ∨ h = s.reg wt cf 6 →
        h.toNat % 2 ^ 32 / 4 % 2 ^ 6 = 0 ∧ h.toNat % 2 ^ 32 / 2 ^ 22 = 0 ∧ h.toNat / 2 ^ 16 % 2 ^ 6 = coreRet wt.core ∧
        h.toNat / 2 ^ 8 % 2 ^ 8 = coreTile wt.core ∧ mget (s.core wt.core).chans (h.toNat % 4) = some chan) ∧
      chan.seq = (s.reg wt cf 5).toNat / 2 ^ 32 ∧ chan.seq ≠ (s.reg wt cf 6).toNat / 2 ^ 32 ∧
      (s.reg wt cf 6).toNat / 2 ^ 32 ∈ chan.before ∧ 6 ∉ ({ chan with before := [] } : Chan).before) ∧
    (let r := copyReply (.copyRd 2 1); let s := { sChan chan with ev := some (.copySourceReply 0 2 r) };
      s.arrived r = r ∧ s.inboundShut r.acc = false ∧ mget (s.core 0).chans 2 = some chan ∧ chan.finished = false ∧ BitVec.ofNat 64 chan.id = r.acc.cmp ∧
      r.status = .ok ∧ chan.stopping = none ∧ r.acc.dst = .copyRd 2 1 ∧ chan.answered + 1 < chan.reads ∧ chan.wp < chan.total) ∧
    (∀ x, x = chan ∨ x = chanLast → let r := copyReply (.copyWr 2 (16 * x.wp)); let s := { sChan x with ev := some (.copyWritePerformed 0 2 r) };
      s.arrived r = r ∧ s.inboundShut r.acc = false ∧ mget (s.core 0).chans 2 = some x ∧ x.finished = false ∧ BitVec.ofNat 64 x.id = r.acc.cmp ∧
      x.stopping = none ∧ x.targets.length = 1 ∧ x.done = [] ∧
      s.gen wt = x.gen ∧ s.ctx? wt = some cf ∧ (x.wp + 1 < x.total ∨ x.wp + 1 = x.total)) := by
  refine ⟨fun y hy => ?_, by decide +kernel, by decide +kernel, ⟨⟨rfl, rfl, rfl⟩, usable_of _ _ _ _ (by decide), fun h hh => ?_, by decide, by decide,
    by decide⟩, ⟨rfl, rfl, rfl, rfl, rfl, rfl, rfl, rfl, by decide, by decide⟩, fun x hx => ?_⟩
  · have h := List.all_eq_true.mp copy_pre y hy
    simp only [Bool.and_eq_true] at h
    obtain ⟨⟨⟨h1, h2⟩, h3⟩, h4⟩ := h
    exact ⟨⟨rfl, rfl, rfl⟩, ⟨rfl, rfl⟩, rfl, rfl, by decide, usable_of _ _ _ _ h1, rfl,
      ⟨⟨by decide, by decide, rfl, fun _ _ _ _ => ⟨rfl, rfl⟩⟩, admits_f rfl rfl rfl⟩, fun k va => physical_never_misses _ rfl k va, readDesc_sound h2, eq_of_beq h3, rfl,
      Nat.zero_lt_succ 31, firstElements_sound h4⟩
  · rcases hh with rfl | rfl <;> decide +kernel
  · rcases hx with rfl | rfl <;> exact ⟨rfl, rfl, rfl, rfl, rfl, rfl, rfl, rfl, rfl, rfl, by decide⟩

/-! Named barriers. -/

/-- A member of barrier 5 in the slot under test. -/
def mem_ (out done res : Bool) (ap : Nat) : Member :=
  { bar := 5, slot := 3, saved := none, joining := false, out := out, ap := BitVec.ofNat 16 ap, done := done, res := res }
/-- Barrier 5 of tile (0, 0) with a status word, a configuration word and its members; x5 holds a time. -/
def sBar (stw cfw : Word) (l : List Member) (t : Nat) : State :=
  (((st cu [(5, BitVec.ofNat 64 t)]).setCb 0 (barSt 5) stw).setCb 0 (barCfg 5) cfw).modCore 0 fun k => { k with members := l }
/-- Phase 65535 with two members, none arrived; with one. -/
def stTwo : Word := 0x0000FFFF00000002
def stOne : Word := 0x0000FFFF00000001
/-- The barrier and its child at tile (1, 0). -/
def barP : BarId := { modn := 0, core := 0, bar := 5 }
def barK : BarId := { modn := 0, core := 1, bar := 4 }
/-- A parent: barrier 5 of core 17; one child counted. -/
def cfParent : Word := BitVec.ofNat 64 (2 ^ 63 + 17 * 2 ^ 41 + 5 * 2 ^ 35)
def cfChild : Word := 0x4000000
/-- A member parked with a timer. -/
def cTimer : Ctx := { cu with run := .parked (.barrier 5 (some 9)) }
def sTimer : State := on (.bwaittTimeout 0 3) ((sBar stOne 0 [mem_ true false false 65535] 0).setCtx wt cTimer)

theorem witness_BarrierMembers :
    (Issues (sBar stTwo 0 [] 0) wt cu ∧ cu.alone ∧ Usable (sBar stTwo 0 [] 0) wt cu [5, 6] ∧ (sBar stTwo 0 [] 0).member? 0 5 3 = none ∧ cu.kind ≠ .migrant ∧
      ((sBar stTwo 0 [] 0).core 0).members.length < 256 ∧ bits stTwo 13 8 = 0 ∧ bits stTwo 31 23 = 0 ∧ bit stTwo 62 = false) ∧
    ((sBar 0x4000000000000000 0 [] 0).member? 0 5 3 = none ∧ bit 0x4000000000000000 62 = true) ∧
    (∀ m t, (sBar stTwo 0 [m] t).cb 0 (barSt 5) = stTwo ∧ Issues (sBar stTwo 0 [m] t) wt cu) ∧
    (∀ m, m = mem_ false false false 0 ∨ m = mem_ true false false 65535 ∨ m = mem_ true true false 65534 ∨ m = mem_ true true true 65534 →
      (sBar stTwo 0 [m] 0).member? 0 5 3 = some m ∧ (sBar stTwo 0 [m] 7).member? 0 5 3 = some m ∧ Usable (sBar stTwo 0 [m] 7) wt cu [5, 6] ∧
      bits ((sBar stTwo 0 [m] 0).reg wt cu 5) 39 0 = 0 ∧ bits ((sBar stTwo 0 [m] 7).reg wt cu 5) 39 0 ≠ 0) ∧
    (cu.within 15 15 0 0 = true ∧ (bits stTwo 13 8 + 1) % 64 ≠ bits stTwo 5 0) ∧
    (let s := sBar stOne 0 [mem_ false false false 0] 0; s.member? 0 5 3 = some (mem_ false false false 0) ∧ s.cb 0 (barSt 5) = stOne ∧
      bits stOne 13 8 + 1 = bits stOne 5 0 ∧ bits stOne 31 23 = bits 0 34 26 ∧ bit stOne 62 = false ∧ parentOf 0 = none ∧ s.armedAt 0 5 = [] ∧
      s.childrenOf 0 5 = [] ∧ ∀ x ∈ (s.core 0).members, x.bar = 5 → x.joining = false) ∧
    Delivers (sBar stTwo 0 [mem_ true true true 65534] 0) wt cu 0x4000 := by
  refine ⟨⟨⟨rfl, rfl, rfl⟩, rfl, usable_of _ _ _ _ (by decide), rfl, by decide, by decide, by decide, by decide, by decide⟩, ⟨rfl, by decide⟩,
    fun _ _ => ⟨rfl, rfl, rfl, rfl⟩, fun m hm => ?_, ⟨by decide, by decide⟩, ⟨by decide, rfl, by decide, by decide, by decide, by decide, rfl, rfl,
      by decide⟩, ⟨by decide, by decide, by decide, by decide, by decide, rfl⟩⟩
  rcases hm with rfl | rfl | rfl | rfl <;> exact ⟨by decide, by decide, usable_of _ _ _ _ (by decide), by decide, by decide⟩

theorem witness_BarrierMessages :
    (barP.modn = (sBar stTwo 0 [] 0).modn ∧ barK.modn = (sBar stTwo 0 [] 0).modn ∧ barP.bar < 48 ∧ barK.bar < 48 ∧
      (sBar stTwo 0 [] 0).coreLive barP.core = true) ∧
    (let s := sBar stTwo 0x8000000 [] 0; bits (s.cb 0 (barSt 5)) 31 23 + 1 < bits (s.cb 0 (barCfg 5)) 34 26) ∧
    (let s := sBar stTwo 0 [] 0; bits (s.cb 0 (barCfg 5)) 34 26 ≤ bits (s.cb 0 (barSt 5)) 31 23) ∧
    (let s := (sBar stTwo cfChild [mem_ true false false 65535] 0).modCore 0 fun k => { k with children := [{ bar := 5, who := some barK, entry := 0 }] };
      s.armedAt 0 5 = [] ∧ s.childrenOf 0 5 = [barK] ∧ 1 ≤ bits (s.cb 0 (barCfg 5)) 34 26 ∧ ∀ x ∈ (s.core 0).members, x.bar = 5 → x.joining = false) ∧
    (sTimer.ev = some (.bwaittTimeout 0 3) ∧ sTimer.ctx? wt = some cTimer ∧ cTimer.run = .parked (.barrier 5 (some 9)) ∧
      sTimer.member? 0 5 3 = some (mem_ true false false 65535) ∧ (mem_ true false false 65535).ap.toNat = bits (sTimer.cb 0 (barSt 5)) 47 32 ∧
      parentOf (sTimer.cb 0 (barCfg 5)) = none ∧ sTimer.armedAt 0 5 = []) ∧
    (∀ q : BitVec 16, q = 65535 ∨ q = 1 → let s := sTimer.modCore 0 fun k => { k with aborts := [(5, q)] };
      (s.core 0).aborts = [(5, q)] ∧ s.armedAt 0 5 = [] ∧ s.childrenOf 0 5 = [] ∧ bits (s.cb 0 (barSt 5)) 47 32 = 65535 ∧ 1 ≤ bits (s.cb 0 (barSt 5)) 5 0 ∧
      s.member? 0 5 3 = some (mem_ true false false 65535) ∧ ∀ x ∈ (s.core 0).members, x.bar = 5 → x.joining = false) ∧
    (let s := sBar stTwo cfParent [] 0; bits (s.cb 0 (barSt 5)) 47 32 = (65535 : BitVec 16).toNat ∧
      bits (s.cb 0 (barSt 5)) 47 32 ≠ (1 : BitVec 16).toNat ∧ parentOf (s.cb 0 (barCfg 5)) = some { modn := 0, core := 17, bar := 5 } ∧
      s.coreLive 17 = true ∧ s.armedAt 0 5 = []) ∧
    (coreRet barK.core = coreRet barP.core ∧ ((sBar stTwo 0 [] 0).core 0).children.length < 256 ∧
      ((((sBar stTwo 0 [] 0).modCore 0 fun k => { k with children := List.replicate 256 { bar := 1, who := none, entry := 0 } }).core 0).children.length = 256)) ∧
    (let s := (sBar 0x4000000000000000 cfChild [] 0).modCore 0 fun k => { k with children := [{ bar := 5, who := some barK, entry := 0 }] };
      (s.core 0).children = [{ bar := 5, who := some barK, entry := 0 }] ∧ bit (s.cb 0 (barSt 5)) 62 = true) ∧
    (let s := sBar stTwo 0 [] 0; bit (s.cb 0 (barCfg 5)) 25 = false ∧ bits (s.cb 0 (barSt 5)) 5 0 ≠ 0) ∧
    (let s := sBar 0xFFFF00000000 0 [] 0; bit (s.cb 0 (barCfg 5)) 25 = false ∧ bits (s.cb 0 (barSt 5)) 5 0 = 0 ∧ bits (s.cb 0 (barSt 5)) 19 14 = 0 ∧
      bits (s.cb 0 (barSt 5)) 13 8 = 0 ∧ bits (s.cb 0 (barSt 5)) 31 23 = 0 ∧ bit (s.cb 0 (barSt 5)) 62 = false ∧ bit (s.cb 0 (barCfg 5)) 63 = false ∧
      bit cfParent 63 = true) :=
  ⟨⟨rfl, rfl, by decide, by decide, by decide⟩, by decide, by decide, ⟨rfl, by decide, by decide, by decide⟩,
    ⟨rfl, rfl, rfl, by decide, by decide, by decide, rfl⟩,
    fun q h => by rcases h with rfl | rfl <;> exact ⟨rfl, rfl, rfl, by decide, by decide, by decide, by decide⟩,
    ⟨by decide, by decide, by decide, by decide, rfl⟩,
    ⟨by decide, by decide, by decide +kernel⟩, ⟨rfl, by decide⟩, ⟨by decide, by decide⟩,
    ⟨by decide, by decide, by decide, by decide, by decide, by decide, by decide, by decide⟩⟩

/-! Tasks and the drainage tree. -/

/-- A work packet for the tile (1, 0): its class, PC, arguments; a free overflow entry of the reticle's pool, or none. -/
def work : List Word := [0x2000000000002000, 0, 0, BitVec.ofNat 64 there, 0xFFFFFFFF00000001, 0, 0, 0]
/-- A spawner with charge `d` that has read the packet. -/
def cSpawn (d : Word) : Ctx :=
  { cf with dref := d, gather := some { left := [], asked := [], got := [(0, 0x2000000000002000), (3, BitVec.ofNat 64 there), (4, 0xFFFFFFFF00000001)], bad := none } }
/-- The packet stands at `here`; `n` entries of the overflow pool. -/
def sSpawn (d : Word) (n : Word) : State :=
  { (st (cSpawn d) [(5, BitVec.ofNat 64 here), (6, 1)]).setRcb 0 0x0408 n with mem := memWords [] here work }
/-- A charge to the tree of the root word 0x10000 at core 0. -/
def charge : Word := 0x8000000000010000
/-- What the spawner has read is the packet. -/
theorem work_read : (List.range 8).map (fun i => (mget [(0, 0x2000000000002000), (3, BitVec.ofNat 64 there), (4, (0xFFFFFFFF00000001 : Word))] i).getD 0) = work := by
  decide
/-- A queue of two entries in tile (1, 0) with a state of HEAD and TAIL; its first entry full. -/
def sTaskQ (hd tl : Word) : State := ({ st cf [] with mem := memWords [] there [2, hd, tl] } : State).setFull (there + 64) true
/-- A request of core 0 to it. -/
def queueReq (op : MemOp) : Access :=
  { id := 7, src := { modn := 0, core := 0, slot := 3, gen := 0 }, tag := cf.tag, op := op, va := BitVec.ofNat 64 there, pa := there, data := 1, cmp := 2
    dst := .reg 5, attempt := 0 }
/-- Root word 0x10000 with the core's counter `k`; x6 holds `n`. -/
def sCount (k : Nat) (n : Word) : State := (st cf [(5, 0x10000), (6, n)]).setDrain (.core 0) 0x10000 k
theorem witness_Tasks :
    (∀ d n, (d, n) ∈ [((0 : Word), (0 : Word)), (0, 3), (charge, 0)] → let c := cSpawn d; let s := sSpawn d n; let u := s.setCtx wt c;
      Issues s wt c ∧ c.solo ∧ c.cond = none ∧ c.within 15 15 0 0 = true ∧ Usable s wt c [5, 6] ∧ s.reg wt c 5 = BitVec.ofNat 64 here ∧
      s.xlate wt c (BitVec.ofNat 64 here) .read = .ok here ∧ s.reachTrap wt c here = none ∧ packetBad work = false ∧
      u.xlate wt c (work.getD 3 0) .read = .ok there ∧ u.isLocalPa there = true ∧ u.reachTrap wt c there = none ∧
      u.samePart (coreRet wt.core) (coreRet (u.homeOf there)) = true ∧ (d = 0 → u.freeOverflow 0 = if n = 0 then none else some 0)) ∧
    (here % 64 = 0 ∧ (0 : Word).getLsbD 63 = false ∧ charge.getLsbD 63 = true) ∧
    (let s := st cf [(5, BitVec.ofNat 64 there), (6, 1)]; Issues s wt cf ∧ cf.solo ∧ cf.count .ld < 15 ∧ Usable s wt cf [5, 6, 7] ∧
      (s.reg wt cf 5).toNat % 64 = 0 ∧ s.xlate wt cf (s.reg wt cf 5) .atomic = .ok there ∧ s.xlate wt cf (s.reg wt cf 5) .read = .ok there ∧
      s.reachTrap wt cf there = none ∧ s.isLocalPa there = true ∧ s.homeOf there ≠ wt.core ∧ s.hostPort? there = none) ∧
    (∀ hd tl, hd = 0 ∧ tl = 2 ∨ hd = 0xFFFFFFFF ∧ tl = 0 ∨ hd = 0 ∧ tl = 1 → let s := sTaskQ hd tl;
      s.placeOf there = .sram 1 0x8000 ∧ there = lpaOf (queueReq .qpush).pa ∧ there % 64 = 0 ∧ (queueReq .qpush).src.core ≠ 1 ∧
      (queueReq .qpush).src.modn = s.modn ∧ s.homeBusy 1 = false ∧ (∀ op, op = .qpush ∨ op = .qpop → s.mustWait 1 (queueReq op) (s.core 1).blocked = false ∧
        s.unmade (queueReq op) = false) ∧ s.badMessage 1 = none ∧ s.isLocalPa (queueReq .qpush).pa = true ∧ (s.core 1).waits = [] ∧
      s.admits (.sram 1 0x8000) cf.tag .atomic there = true ∧ s.queueHeader there = some (2, hd.toNat, tl.toNat) ∧
      (∀ m, s.poisoned m = false ∧ s.corrupt.contains m = false) ∧ s.full (there + 64) = true) ∧
    (0 + 2 ^ 32 - 0xFFFFFFFF) % 2 ^ 32 ≠ 2 ∧ (2 + 2 ^ 32 - 0) % 2 ^ 32 = 2 ∧
    (∀ k n, k ≤ 5 → n ≤ 6 → let s := sCount k (BitVec.ofNat 64 n); Issues s wt cf ∧ cf.kind ≠ .migrant ∧ Usable s wt cf [5, 6] ∧
      s.xlate wt cf 0x10000 .atomic = .ok 0x10000 ∧ s.reachTrap wt cf 0x10000 = none ∧ s.isLocalPa 0x10000 = true ∧
      (s.placeOf (lpaOf 0x10000)).isDram = true ∧ s.drainCount (.core wt.core) (lpaOf 0x10000) = k ∧ s.drainWaits (.core wt.core) (lpaOf 0x10000) = [] ∧ s.drainFull (.core wt.core) = false) := by
  refine ⟨fun d n h => ?_, ⟨by decide, by decide, by decide⟩,
    ⟨⟨rfl, rfl, rfl⟩, ⟨rfl, rfl⟩, by decide, usable_of _ _ _ _ (by decide), by decide, by decide +kernel, by decide +kernel, by decide +kernel,
      by decide +kernel, by decide +kernel, by decide +kernel⟩, fun hd tl h => ?_, by decide, by decide, fun k n hk hn => ?_⟩
  · simp only [List.mem_cons, List.not_mem_nil, or_false, Prod.mk.injEq] at h
    rcases h with ⟨rfl, rfl⟩ | ⟨rfl, rfl⟩ | ⟨rfl, rfl⟩ <;>
      exact ⟨⟨rfl, rfl, rfl⟩, ⟨rfl, rfl⟩, rfl, rfl, usable_of _ _ _ _ (by decide), by decide, by decide +kernel, by decide +kernel, by decide,
        by decide +kernel, by decide +kernel, by decide +kernel, by decide +kernel, by decide +kernel⟩
  · rcases h with ⟨rfl, rfl⟩ | ⟨rfl, rfl⟩ | ⟨rfl, rfl⟩ <;> exact ⟨by decide +kernel, by decide, by decide, by decide, rfl, by decide +kernel,
      fun op h => by rcases h with rfl | rfl <;> exact ⟨by decide +kernel, by decide +kernel⟩, by decide +kernel, by decide +kernel, rfl,
      admits_f rfl rfl rfl, by decide +kernel, fun _ => ⟨rfl, rfl⟩, by decide +kernel⟩
  · have : k ∈ [0, 1, 2, 3, 4, 5] ∧ n ∈ [0, 1, 2, 3, 4, 5, 6] := by
      constructor <;> simp only [List.mem_cons, List.not_mem_nil, or_false] <;> omega
    have hu : ∀ k ∈ [0, 1, 2, 3, 4, 5], ∀ n ∈ [0, 1, 2, 3, 4, 5, 6], usable (sCount k (BitVec.ofNat 64 n)) wt cf [5, 6] = true ∧
      (sCount k (BitVec.ofNat 64 n)).xlate wt cf 0x10000 .atomic = .ok 0x10000 ∧ (sCount k (BitVec.ofNat 64 n)).reachTrap wt cf 0x10000 = none ∧
      (sCount k (BitVec.ofNat 64 n)).isLocalPa 0x10000 = true ∧ ((sCount k (BitVec.ofNat 64 n)).placeOf (lpaOf 0x10000)).isDram = true ∧
      (sCount k (BitVec.ofNat 64 n)).drainCount (.core wt.core) (lpaOf 0x10000) = k ∧
      (sCount k (BitVec.ofNat 64 n)).drainWaits (.core wt.core) (lpaOf 0x10000) = [] ∧ (sCount k (BitVec.ofNat 64 n)).drainFull (.core wt.core) = false := by
      decide +kernel
    obtain ⟨h1, h2⟩ := hu k this.1 n this.2
    exact ⟨⟨rfl, rfl, rfl⟩, by decide, usable_of _ _ _ _ h1, h2⟩

/-- A node above a core, and what waits on it. -/
def node : DrainNode := .cluster 0 3
def waitN (u : DrainUse) : DrainWait := { core := 7, src := { modn := 0, core := 0, slot := 3, gen := 0 }, id := 5, use := u, value := 0, va := 0, tag := cf.tag }
/-- The issuer of a raise. -/
def cRaise : Ctx := { cf with out := [{ id := 5, cls := .st, dst := none, home := none, both := false }], performedW := 3 }
/-- Counter `k` of the node; action 1 for a bad counter. -/
def sNode (k : Nat) : State := ((st cRaise []).setRcb 0 0x0A48 0x10000000).setDrain node 0x10000 k
/-- The channel's table admits everything of mode F. -/
def openTables (s : State) : State := s.setCb 192 0x8000 0xC0FE000000000000
/-- The node has no room. -/
def sFullNode : State :=
  { st cRaise [] with drain := (List.range Config.drainEntries).map fun i => { node := node, root := 0x10008 + 8 * i, count := 1, waits := [], lows := 0 } }
/-- A QPOP's answer that waits for the third write of the slot under test. -/
def stampQ : StampReq := { reply := { acc := queueReq .qpop, value := 1, status := .ok }, stamp := 0x300000000003 }
/-- The node waits for the answer to a +1 of tile (0, 7). -/
def sWaits (w : DrainWait) (n : DrainNode) : State := (st cRaise []).setDrainWaits n 0x10000 [(.core 7, w)] 0
theorem witness_DrainageTree :
    (0 < (sNode 1).drainCount node 0x10000 ∧ (sNode 1).drainCount node 0x10000 + 1 < 2 ^ 32 ∧ (sNode 1).drainWaits node 0x10000 = [] ∧
      node ≠ .root ∧ (∀ q, node ≠ .core q)) ∧
    ((sNode 0).drainCount node 0x10000 = 0 ∧ (sNode 0).drainWaits node 0x10000 = [] ∧ (sNode 0).drainFull node = false) ∧
    ((sWaits (waitN (.amount 4)) node).drainWaits node 0x10000 = [(.core 7, waitN (.amount 4))] ∧ (sWaits (waitN (.amount 4)) node).drainLows node 0x10000 = 0) ∧
    (sFullNode.drainCount node 0x10000 = 0 ∧ sFullNode.drainWaits node 0x10000 = [] ∧ sFullNode.drainFull node = true) ∧
    ((sNode 0).movedTo 0x10000 = none ∧ (openTables (sNode 0)).admits ((openTables (sNode 0)).placeOf 0x10000) cf.tag .atomic 0x10000 = true ∧
      (sNode 0).admits ((sNode 0).placeOf 0x10000) cu.tag .atomic 0x10000 = false ∧ (sNode 0).poisoned 0x10000 = false ∧
      (sNode 0).corrupt.contains 0x10000 = false) ∧
    (let s := sWaits (waitN (.amount 4)) (.core 7); (waitN (.amount 4)).use = .amount 4 ∧ s.drainWaits (.core 7) 0x10000 = [(.core 7, waitN (.amount 4))] ∧
      s.drainLows (.core 7) 0x10000 = 0 ∧ s.srcWho (waitN (.amount 4)).src = some wt ∧ s.ctx? wt = some cRaise ∧
      cRaise.op? 5 = some { id := 5, cls := .st, dst := none, home := none, both := false }) ∧
    ((sNode 1).action (nodeRet node) 9 7 = 1) ∧
    (wt = { core := coreId (bits stampQ.stamp 63 58) (bits stampQ.stamp 57 50), slot := bits stampQ.stamp 49 44 } ∧
      ((sNode 0).gen wt).toNat = bits stampQ.stamp 43 28 ∧ cRaise.performedW < 2 ^ 27 ∧ bits stampQ.stamp 27 0 < 2 ^ 27) ∧
    (stampQ.reply.acc.src.modn = (sNode 0).modn ∧ stampQ.reply.acc.dst = .reg 5 ∧ stampQ.reply.acc.op = .qpop ∧
      stampQ.reply.acc.src.core ≠ (sNode 0).homeOf stampQ.reply.acc.pa) :=
  ⟨⟨by decide, by decide, by decide, by decide, fun _ h => nomatch h⟩, ⟨by decide, by decide, by decide⟩, ⟨by decide, by decide⟩,
    ⟨by decide +kernel, by decide +kernel, by decide +kernel⟩, ⟨by decide, by decide +kernel, by decide +kernel, by decide, by decide⟩,
    ⟨rfl, by decide, by decide, by decide, by decide, rfl⟩, by decide, ⟨by decide, by decide, by decide, by decide⟩, rfl, rfl, rfl, by decide +kernel⟩

/-! Power tokens. -/

/-- The tile (0, 0) with a token state; x5 a number, x6 the tile (1, 0). -/
def sTok (x : Tok) (n : Word) : State := (st cf [(5, n), (6, 1)]).setTok 0 x
def tokA : Tok := { cls := 2, ncnt := 0, pend := 1, want := 5, hold := 4 }
/-- A context in U on a rim core. -/
def wRim : Who := { core := 200, slot := 3 }
def sRim : State := ({ world with cur := wRim } : State).setCb 200 0x0800 0x4001 |>.setCtx wRim cu
theorem witness_TokenInstructions :
    (Issues (sTok tokA 2) wt cf ∧ cf.alone ∧ Usable (sTok tokA 2) wt cf [5, 6, 7] ∧ isTile wt.core = true ∧ ((sTok tokA 2).reg wt cf 5).toNat = 2) ∧
    (((sTok tokA 2).reg wt cf 6).toNat < 192 ∧ coreId (coreRet wt.core) ((sTok tokA 2).reg wt cf 6).toNat = 1 ∧ 1 ≠ wt.core ∧
      (sTok tokA 2).tileFailed (coreRet wt.core) 1 = false ∧ 0 < min (min 2 (((sTok tokA 2).tok 0).hold - ((sTok tokA 2).tok 0).pend))
        ((sTok tokA 2).kindMax 1 - ((sTok tokA 2).tok 1).hold) ∧ ((sTok tokA 2).core wt.core).cmds.any (fun y => y.part == .dense) = false) ∧
    min (min 0 (((sTok tokA 0).tok 0).hold - ((sTok tokA 0).tok 0).pend)) ((sTok tokA 0).kindMax 1 - ((sTok tokA 0).tok 1).hold) = 0 ∧
    (Issues sRim wRim cu ∧ cu.alone ∧ Usable sRim wRim cu [5, 6, 7] ∧ Delivers sRim wRim cu 0x4000 ∧ isTile wRim.core = false) ∧
    (let s := st cu [(5, 8), (6, 192)]; Issues s wt cu ∧ Usable s wt cu [5, 6, 7] ∧ Delivers s wt cu 0x4000 ∧ 7 < (s.reg wt cu 5).toNat ∧
      192 ≤ (s.reg wt cu 6).toNat) :=
  ⟨⟨⟨rfl, rfl, rfl⟩, rfl, usable_of _ _ _ _ (by decide), rfl, by decide⟩,
    ⟨by decide, by decide, by decide, by decide, by decide, rfl⟩, by decide,
    ⟨⟨rfl, rfl, rfl⟩, rfl, usable_of _ _ _ _ (by decide), ⟨by decide, by decide, by decide, by decide, by decide, rfl⟩, by decide⟩,
    ⟨rfl, rfl, rfl⟩, usable_of _ _ _ _ (by decide), ⟨by decide, by decide, by decide, by decide, by decide, rfl⟩, by decide, by decide⟩

/-- A basin of one reticle whose passes are dead, with a budget of 20 and a limit of 8 to a round. -/
def sRound (x : Tok) : State :=
  { (((st { cu with trapen := 0x100 } []).setTok 0 x).setRcb 0 0x0608 8).setRcb 0 0x0600 20 with deadPasses := [(0, 1)] }
theorem witness_BrokerEvents :
    (((sRound tokA).reticle 0).low = .running ∧ ((((sRound tokA).modRet 0 fun k => { k with droopHold := 2 }).reticle 0).droopHold ≠ 0) ∧
      (((sRound tokA).modRet 0 fun k => { k with droopHold := 2 }).reticle 0).gains = []) ∧
    (let s := sRound tokA; (s.reticle 0).droopHold = 0 ∧ (s.reticle 0).accepted = none ∧ (s.reticle 0).gains = [] ∧ (s.reticle 0).recalled = [] ∧ (s.reticle 0).asked = [] ∧
      (s.reticle 0).offers = [] ∧ (∀ d, d < 4 → s.passLive 0 d = false) ∧ bits (s.rcb 0 0x0608) 23 16 = 0 ∧ s.tokenTiles 0 = [0] ∧
      (s.tok 0).hold < (s.tok 0).want ∧ (((s.tok 0).want - (s.tok 0).hold : Nat) : Int) ≤ s.tokenPool 0 ∧
      (s.tok 0).want - (s.tok 0).hold ≤ bits (s.rcb 0 0x0608) 7 0) ∧
    (((sRound tokA).tok 0).ncnt = 0 ∧ ((sRound tokA).tok 0).pend ≠ 0) ∧
    ((sRound tokA).pending.contains (.grantRound 0) = false ∧ coreRet 0 = 0 ∧ (sRound tokA).kindMax 0 ≠ 0 ∧ 0 < ((sRound tokA).tok 0).hold ∧
      (sRound tokA).ctx? wt = some { cu with trapen := 0x100 } ∧ (0x100 : BitVec 22).getLsbD 8 = true) ∧
    (let s := (st cu []).setRcb 0 0x0A38 0; coreId 0 15 = 15 ∧ s.tileBeside 15 1 = some (coreId 1 0) ∧ coreRet (coreId 1 0) ≠ 0 ∧
      neighbourRet 0 1 = some (coreRet (coreId 1 0)) ∧ s.deadPasses.contains (0, 1) = false ∧ s.action 0 7 6 = 0) ∧
    ((sRound tokA).passLive 0 1 = false ∧ (st cu []).passLive 0 1 = true) :=
  ⟨⟨rfl, by decide, rfl⟩, ⟨rfl, rfl, rfl, rfl, rfl, rfl, by decide, by decide, by decide +kernel, by decide, by decide +kernel, by decide⟩,
    ⟨by decide, by decide⟩, ⟨rfl, by decide, by decide, by decide, rfl, by decide⟩,
    ⟨rfl, by decide, by decide, by decide, by decide, by decide⟩, by decide, by decide⟩

/-! Redundant pairs. -/

/-- The slot of a topcoat. -/
def wTop : Who := { core := 0, slot := 9 }
/-- The members of a pair at one instruction; the topcoat's entries follow at 128. -/
def cUnder : Ctx := { cu with role := .under 9, retired := 7 }
def cTop : Ctx := { cUnder with role := .top 3, base := 128 }
/-- The pair: equal registers, or x5 unlike; action 0 for a mismatch. -/
def sPair (v : Word) : State :=
  (((st cUnder [(5, 1)]).setCtx wTop cTop).setReg wTop cTop 5 v).setRcb 0 0x0A50 0
/-- The topcoat's turn: the head of the queue holds its read. -/
def cReads : Ctx := { cUnder with role := .under 3, lvq := [.read 4 0x1008 8 (some 6)] }
def cTopReads : Ctx := { cu with role := .top 9 }
def sTopReads : State := (st cTopReads [(5, 0x1000)]).setCtx wTop cReads
/-- A store of the undercoat to the next tile. -/
def cHolds : Ctx := { cUnder with mode := .f }
def sHolds : State := (st cHolds [(2, BitVec.ofNat 64 there), (3, 7)]).setCtx wTop { cTop with mode := .f }
theorem witness_RedundantPairs_held : Issues sHolds wt cHolds ∧
    accessRow (fun r => sHolds.reg wt cHolds r.toNat) (.st 3 2 3 0) = some (.store 3, [2, 3], BitVec.ofNat 64 there, 7, 0, none) ∧
    (sHolds.runningTop wt cHolds).isSome = true ∧ cHolds.walking = false ∧ MayAccess cHolds (.store 3) ∧ Usable sHolds wt cHolds [2, 3] ∧
    Reaches sHolds wt cHolds (.store 3) (BitVec.ofNat 64 there) there ∧ sHolds.homeOf there ≠ wt.core ∧ cHolds.lvq.length < 32 :=
  ⟨⟨rfl, rfl, rfl⟩, rfl, by decide, rfl, ⟨rfl, rfl, by decide, fun _ => by decide⟩, usable_of _ _ _ _ (by decide),
    ⟨by decide, by decide, by decide, .inr (by decide)⟩, by decide, by decide⟩
theorem witness_RedundantPairs :
    (Issues (st cu []) wt cu ∧ Usable (st cu []) wt cu [5, 0] ∧ cu.out = [] ∧ wt.slot < 63 ∧ cu.alone ∧
      (st cu []).holdings wt { cu with grp := 0 } = 0 ∧ ((st cu []).core 0).ringCount = 0 ∧ ((st cu []).core 0).place 0 cu.lim = some (0, 32)) ∧
    ((((st cu []).modCore 0 fun k => { k with ringCount := 1 }).core 0).ringCount ≠ 0) ∧
    ((st cu []).setStream 0 2 (stream 3 0)).holdings wt { cu with grp := 0 } ≠ 0 ∧
    (Issues (sPair 1) wt cUnder ∧ cUnder.role ≠ .single ∧ Usable (sPair 1) wt cUnder [5] ∧ cUnder.out = [] ∧ cUnder.role = .under 9 ∧ 9 ≠ wt.slot ∧
      (sPair 1).ctx? wTop = some cTop ∧ cTop.run ≠ .frozen ∧ cUnder.lvq = [] ∧ cTop.retired = cUnder.retired ∧ cTop.pc = cUnder.pc ∧
      (sPair 1).pairAgrees wt wTop cUnder cTop = true) ∧
    (Issues (sPair 2) wt cUnder ∧ (sPair 2).ctx? wTop = some cTop ∧ (sPair 2).pairAgrees wt wTop cUnder cTop = false ∧ cUnder.heldTrap = none ∧ (∀ m ∈ [1, 2, 3, 4], ((sPair 2).regEntry wt cUnder m).bad = false) ∧ cUnder.mode ≠ .f ∧
      cUnder.inh = false ∧ (sPair 2).vector wt cUnder = some 0x4000 ∧ (sPair 2).owedLow wt cUnder = false ∧
      (sPair 2).action (coreRet wt.core) 10 4 = 0 ∧ Usable (sPair 2) wt cUnder [5]) ∧
    (Issues sTopReads wt cTopReads ∧ cTopReads.role = .top 9 ∧ sTopReads.ctx? wTop = some cReads ∧ Usable sTopReads wt cTopReads [5, 6] ∧
      0x1008 = sTopReads.reg wt cTopReads 5 + ((1 : BitVec 9).signExtend 64 <<< 3) ∧ cReads.lvq = .read 4 0x1008 (2 ^ 3) (some 6) :: []) :=
  ⟨⟨⟨rfl, rfl, rfl⟩, usable_of _ _ _ _ (by decide), rfl, by decide, rfl, by decide +kernel, rfl, by decide +kernel⟩, by decide, by decide +kernel,
    ⟨⟨rfl, rfl, rfl⟩, by decide, usable_of _ _ _ _ (by decide), rfl, rfl, by decide, rfl, by decide, rfl, rfl, rfl, by decide +kernel⟩,
    ⟨⟨rfl, rfl, rfl⟩, rfl, by decide +kernel, rfl, by decide, by decide, rfl, by decide, by decide, by decide, usable_of _ _ _ _ (by decide)⟩,
    ⟨rfl, rfl, rfl⟩, rfl, rfl, usable_of _ _ _ _ (by decide), by decide, rfl⟩

/-! The launcher. -/

/-- A module of one tile, whose firmware context is the launcher, with a mailbox of two records at 0x20000. -/
def sLaunch : State :=
  let s := (world.setCtx { core := 0, slot := 62 } { Ctx.fresh .firmware .f 1 0 0 8 0 with base := 1000 }).setRcb 0 0x0500 0x20000
  let s := (s.setRcb 0 0x0508 2).setRcb 0 0x0510 0
  { openTables (s.setFull 0x20000 false) with topo := mput 0x2048 0xFFFFFFFFFFFFFFFE (mput 0x2050 0xFFFFFFFFFFFFFFFF (mput 0x2058 0xFFFFFFFFFFFFFFFF s.topo)) }
/-- A record: one context of 8 registers on one tile of kind D of reticle 0, at a priority. -/
def launchWords (alloc kmask : Nat) : List Word :=
  [0x700000001, 0, 0x2000, 0, 0, 0, BitVec.ofNat 64 (9 * 2 ^ 48 + 7 * 2 ^ 32 + alloc * 256 + 3), 1, BitVec.ofNat 64 (2 ^ 48 + 2 ^ 32 + kmask), 0xAA, 0xBB,
    0, 0, 0, 0, 0]
/-- The mailbox's first record is full. -/
def sMail (alloc kmask : Nat) : State :=
  { { sLaunch with mem := memWords [] 0x20000 (launchWords alloc kmask) }.setFull 0x20000 true with ev := some (.launchRecord 0) }
/-- The state in which it is read. -/
def readFrom (s : State) : State := (s.setFull 0x20000 false).setRcb 0 0x0510 (setBits (s.rcb 0 0x0510) 15 8 ((0 + 1) % 2))
/-- The record as listed. -/
def rec1 : LaunchRec :=
  { index := 0, pa := 0x20000, seq := 7, prio := 0, entry := 0x2000, root := 0, wlim := 9, asid := 7, alloc := 8, ecls := 3, rmask := 1, cpt := 1, tpr := 1
    kmask := 1, arg0 := 0xAA, arg1 := 0xBB, timg := 0, toff := 0, tlen := 0, pages := [] }
/-- Gangs being placed, and what is listed. -/
def gang1 : Gang := { rcd := rec1, members := [], nextRet := 0, placed := false, charges := 0, failed := false }
def sGang (g : Option Gang) (l : List LaunchRec) : State :=
  { (sLaunch.setCtx { core := 1, slot := 2 } { cu with run := .placed }).modRet 0 fun k => { k with gang := g, launch := l } with ev := some (.gangPlace 0) }
/-- One of a higher priority that fits no tile. -/
def rec2 : LaunchRec := { rec1 with prio := 1, kmask := 2, pa := 0x20080 }
/-- What the launcher makes of a record, decided. -/
def checks (s : State) (l : List Word) (x : Except Nat LaunchRec) : Bool :=
  match s.checkRecord 0 0 l, x with
  | .ok k, .ok l => k == l
  | .error a, .error b => a == b
  | _, _ => false
/-- A gang whose member is placed and whose image is being copied: a byte has come, none, or an untrusted one. -/
def imaged (g : Option (Option Word)) (n : Nat) : Gang :=
  { rcd := { rec1 with tlen := 2 }, members := [(1, 2)], nextRet := 1, placed := false, charges := 0, failed := false, tiles := [1], next := n, got := g }
theorem witness_LauncherPlacesGangs_image : (∀ g n, ((sGang (some (imaged g n)) []).reticle 0).gang = some (imaged g n) ∧ (imaged g n).tiles = [1] ∧
      (imaged g n).placed = false) ∧
    ((imaged none 2).rcd.tlen ≤ (imaged none 2).next) ∧ ((imaged none 1).next < (imaged none 1).rcd.tlen) ∧
    (sGang (some (imaged (some none) 1)) []).hasLauncher 0 = true ∧ (sGang (some (imaged (some none) 1)) []).movedTo (rec1.pa + 8) = none ∧
    (sGang (some (imaged (some none) 1)) []).launcherMay 0 (rec1.pa + 8) = true :=
  ⟨fun _ _ => ⟨rfl, rfl, rfl⟩, by decide, by decide, by decide +kernel, by decide, by decide +kernel⟩
/-- The records of the mailbox, checked. -/
theorem launch_checks : checks (readFrom (sMail 8 1)) (readWords (sMail 8 1).mem 0x20000 16) (.ok rec1) = true ∧
    checks (readFrom (sMail 8 2)) (readWords (sMail 8 2).mem 0x20000 16) (.error 3) = true :=
  ⟨by decide +kernel, by decide +kernel⟩
theorem witness_LauncherPlacesGangs :
    ((sMail 8 1).recordWaits 0 = true ∧ (sMail 8 2).recordWaits 0 = true ∧ (sMail 7 1).recordWaits 0 = true ∧ sLaunch.recordWaits 0 = false ∧
      bits ((sMail 8 1).rcb 0 0x0510) 15 8 = 0 ∧ (sMail 8 1).mbxRecord 0 0 = 0x20000 ∧ bits ((sMail 8 1).rcb 0 0x0508) 8 0 = 2 ∧
      (∀ j ∈ List.range 16, (sMail 8 1).movedTo (0x20000 + 8 * j) = none ∧ (sMail 8 1).poisoned (0x20000 + 8 * j) = false ∧
        (sMail 8 1).corrupt.contains (0x20000 + 8 * j) = false) ∧
      recordFields (readWords (sMail 7 1).mem 0x20000 16) = false) ∧
    (∀ y ∈ [(none, [rec1]), (some gang1, [rec1]), (some gang1, [rec2, rec1])], (sGang y.1 y.2).hasLauncher 0 = true ∧ (sGang y.1 y.2).recordWaits 0 = false) ∧
    (∀ g l, ((sGang g l).reticle 0).gang = g ∧ ((sGang g l).reticle 0).launch = l) ∧
    ([rec2].find? (fun y => decide (gang1.rcd.prio < y.prio)) = some rec2 ∧
      (sGang (some gang1) [rec2, rec1]).fitsNow rec2 = false) ∧
    (gang1.placed = false ∧ gang1.tiles = [] ∧ (∀ k ∈ [rec1], k.prio ≤ gang1.rcd.prio) ∧ gang1.rcd.rets.find? (fun y => decide (gang1.nextRet ≤ y)) = some 0 ∧
      (sGang (some gang1) [rec1]).shareOf gang1.rcd 0 = some [(0, [(0, 0)])] ∧ gang1.rcd.tlen = 0 ∧
      (sGang (some gang1) [rec1]).shareOf { gang1.rcd with kmask := 2 } 0 = none) ∧
    ((∀ q ∈ gang1.rcd.rets, q < 1) ∧ gang1.rcd.root = 0 ∧ (sGang none []).ctx? { core := 1, slot := 2 } = some { cu with run := .placed }) ∧
    ((sGang none []).rootRet 0 = 0 ∧ ∀ m ∈ [((1 : Nat), (2 : Nat))], coreRet m.1 = 0) :=
  ⟨⟨by decide +kernel, by decide +kernel, by decide +kernel, by decide +kernel, by decide, by decide, by decide,
      by decide +kernel, by decide +kernel⟩,
    by decide +kernel, fun g l => ⟨rfl, rfl⟩, ⟨by decide +kernel, by decide +kernel⟩,
    ⟨rfl, rfl, by decide, by decide +kernel, by decide +kernel, rfl, by decide +kernel⟩, ⟨by decide +kernel, rfl, rfl⟩, by decide +kernel, by decide⟩

/-! Control-block registers, copies of the skim unit, scrub and mesh links. -/

/-- A load of a control-block word from tile (1, 0) in mode F. -/
def askAt (pa : Nat) : Access :=
  { id := 3, src := { modn := 0, core := 1, slot := 2, gen := 0 }, tag := cf.tag, op := .load 3 false, va := 0, pa := pa, data := 0, cmp := 0
    dst := .reg 5, attempt := 0 }
/-- It names that word, decided. -/
def asks (s : State) (b : Block) (off : Nat) (a : Access) : Bool :=
  let p := s.placeOf (lpaOf a.pa)
  p.isCtl && decide (blockOf p = b) && ctlOff p == off && s.admits p a.tag .read (lpaOf a.pa) && a.src.modn == s.modn && a.src.core != s.homeCore p &&
    (!s.homeBusy (s.homeOf a.pa) && !s.mustWait (s.homeOf a.pa) a (s.core (s.homeOf a.pa)).blocked && !a.fwd)
theorem asks_of {s : State} {b : Block} {off : Nat} {a : Access} (h : asks s b off a = true) (ho : a.op = .load 3 false) (hd : a.dst = .reg 5) :
    Asks s b off a := by
  simp only [asks, Bool.and_eq_true, decide_eq_true_eq, beq_iff_eq, bne_iff_ne, Bool.not_eq_true'] at h
  obtain ⟨⟨⟨⟨⟨⟨h1, h2⟩, h3⟩, h4⟩, h5⟩, h6⟩, ⟨h7, h8⟩, h9⟩ := h
  exact ⟨⟨h1, h2, h3⟩, ⟨false, ho⟩, h4, ⟨h5, h6, 5, hd⟩, h7, h8, h9⟩
/-- The words of the clearing reads: of a tile, a link core, a channel core, a reticle. -/
def clearing : List (Block × Nat × Nat) :=
  [(.core 5, 0x8800, tileAddr 5 0x308800), (.core 5, 0x8808, tileAddr 5 0x308808), (.ret 0, 0x0638, tileAddr 255 0x638),
    (.ret 0, 0x0C10, tileAddr 255 0xC10), (.ret 0, 0x0F18, tileAddr 255 0xF18), (.core 212, 0x0A00, tileAddr 212 0x300A00),
    (.core 192, 0x0028, tileAddr 192 0x300028)]
theorem clearing_asks : ∀ p ∈ clearing, asks world p.1 p.2.1 (askAt p.2.2) = true := by decide +kernel
theorem witness_RegisterEvents :
    (isEdge 0 = true ∧ (world.reticle 0).dramUsed = false ∧ bits 0x20000000074 41 32 ≤ 512 ∧ bits 0x20000000074 6 0 ≤ 116 ∧ isEdge 24 = false) ∧
    ((world.reticle 0).pool = [] ∧ bits (world.rcb 0 0x0408) 19 0 = 0 ∧ ((world.modRet 0 fun k => { k with pool := [0] }).reticle 0).pool ≠ []) ∧
    (let s := world.setRcb 0 0x0500 0x20000; s.pval 0 = true ∧ s.rootRet 0 = 0 ∧ (s.reticle 0).gang = none ∧ bits 2 8 0 ≤ 256 ∧
      s.isLocalPa (bits (s.rcb 0 0x0500) 55 7 * 2 ^ 7) = true ∧ dramRange (lpaOf (bits (s.rcb 0 0x0500) 55 7 * 2 ^ 7)) (128 * bits 2 8 0) = true ∧
      (∀ i ∈ [0, 1], (openTables s).movedTo (0x20000 + 128 * i) = none ∧ (openTables s).movedTo (0x20000 + 128 * i + 8) = none ∧
        (openTables s).launcherMay 0 (0x20000 + 128 * i) = true ∧ (openTables s).launcherMay 0 (0x20000 + 128 * i + 8) = true) ∧
      s.pval 1 = true ∧ s.rootRet 1 ≠ 1 ∧ 256 < bits 257 8 0) ∧
    (bits 640 9 0 ≤ 640 ∧ sumOf ((world.liveRets.filter fun q => q != 0).map fun q => world.budgetOf q) + bits 640 9 0 ≤ Config.budgetSum ∧ 640 < bits 641 9 0) ∧
    (bits 2 5 0 ≠ bits (world.rcb 0 0x0700) 5 0 ∧ (world.rcb 0 0x0700).getLsbD 62 = false ∧ world.partitionFree 0 = true ∧
      ((st cu []).rcb 0 0x0700).getLsbD 62 = false ∧ (st cu []).partitionFree 0 = false ∧
      ((world.setRcb 0 0x0700 0xC000000000000001).rcb 0 0x0700).getLsbD 62 = true) ∧
    (∀ v : Word, v = 0xE000000000000000 ∨ v = 0x8000000000000000 → ((world.setRcb 0 0x3008 v).rcb 0 0x3008) = v) ∧
    (bit 0x8000000000000000 61 = false ∧ bit 0xE000000000000000 61 = true ∧ bit 0xE000000000000000 62 = true) ∧
    (∀ p ∈ clearing, Asks world p.1 p.2.1 (askAt p.2.2)) ∧ isLinkCore 212 = true ∧ isChannelCore 192 = true :=
  ⟨by decide, ⟨rfl, by decide, by decide⟩, by decide +kernel, by decide +kernel, by decide +kernel, fun v hv => by rcases hv with rfl | rfl <;> rfl, by decide,
    fun p hp => asks_of (clearing_asks p hp) rfl rfl, by decide, by decide⟩

/-- Channel core 192 with registers of its skim unit. -/
def sSkim (l : List (Nat × Word)) : State := l.foldl (fun s p => s.setCb 192 p.1 p.2) world
/-- A migration of one page under way there. -/
def sMoves (l : List (Nat × Word)) : State := (sSkim l).modCore 192 fun k => { k with skim := some (0x60000000, 0x60010000) }
theorem witness_CopiesBehindAccesses :
    (let s := (sSkim [(0x0000, 0x60000000), (0x0008, 0x60010000)]).setRcb 0 0x0108 0; s.skimBusy 192 = false ∧ s.isLocalPa 0x60000000 = true ∧ s.isLocalPa 0x60010000 = true ∧
      bits (s.cb 192 0x0000) 55 16 * 2 ^ 16 = 0x60000000 ∧ bits (s.cb 192 0x0008) 55 16 * 2 ^ 16 = 0x60010000 ∧
      s.inPageRegion (lpaOf 0x60000000) = true ∧ s.inPageRegion (lpaOf 0x60010000) = true ∧ s.homeCore (s.placeOf (lpaOf 0x60000000)) = 192) ∧
    ((sSkim [(0x0020, 1)]).skimBusy 192 = true ∧ (sSkim []).skimBusy 192 = false ∧ bit ((sSkim []).cb 192 0x0040) (bits ((sSkim []).cb 192 0x0030) 16 16) = false ∧
      bit ((sSkim [(0x0040, 1)]).cb 192 0x0040) (bits ((sSkim [(0x0040, 1)]).cb 192 0x0030) 16 16) = true) ∧
    (∀ n, n = 0 ∨ n = 65528 → let s := sMoves [(0x0000, 0x60000000), (0x0008, 0x60010000), (0x0020, 1), (0x0018, BitVec.ofNat 64 n)];
      (s.core 192).skim = some (0x60000000, 0x60010000) ∧ (s.cb 192 0x0020).getLsbD 1 = false ∧ bits (s.cb 192 0x0018) 16 0 = n ∧ n % 8 = 0 ∧ n < 2 ^ 16 ∧
      s.corrupt = [] ∧ (s.core 192).waits = []) ∧
    (((sMoves [(0x0020, 3)]).cb 192 0x0020).getLsbD 1 = true ∧ ((sMoves [(0x0020, 3)]).core 192).skim ≠ none ∧ ((sSkim []).cb 192 0x0020).getLsbD 1 = false) ∧
    (let s := sSkim [(0x0020, 1)]; s.skimBusy 192 = true ∧ (s.core 192).skim = none ∧ bits (s.cb 192 0x0038) 31 0 = 0 ∧ 0 < Config.bankLines 192 ∧
      s.corrupt = []) ∧
    ((world.rcb 0 0x0D30).getLsbD 1 = false ∧ ((world.setRcb 0 0x0D30 2).rcb 0 0x0D30).getLsbD 1 = true) :=
  ⟨by decide +kernel, by decide, fun n hn => by rcases hn with rfl | rfl <;> decide, by decide,
    ⟨by decide, rfl, by decide, Nat.lt_of_lt_of_le Nat.zero_lt_one (Nat.le_add_right 1 _), rfl⟩, by decide⟩

/-- A load to x0 of the context under test on its way, about to cross a link of tile (7, 0). -/
def lostLoad : Access :=
  { askAt 0x20000 with id := 5, src := { modn := 0, core := 0, slot := 3, gen := 0 }, tag := cu.tag, dst := .reg 0 }
def cLoad : Ctx := { cu with out := [{ id := 5, cls := .ld, dst := none, home := some 9, both := false }] }
def sLost : State := { (world.setRcb 0 0x0A38 0).setCtx wt cLoad with pending := [.loadRequest lostLoad], outbox := [] }
/-- A context whose register 5 has wrong check bits, which can or cannot be corrected, under action 0. -/
def sBadReg (n : Option Nat) : State :=
  (((st cu []).setEntry wt cu 5 { val := 7, pres := .present, bad := true, soft := n }).setRcb 0 0x0A20 0).setRcb 0 0x0A28 0
theorem witness_ScrubAndMesh :
    ((5 : Reg).toNat < cu.lim ∧ cu.role = .single ∧ ((sBadReg (some 3)).regEntry wt cu 5).bad = true ∧ ((sBadReg (some 3)).regEntry wt cu 5).soft = some 3 ∧
      (sBadReg (some 3)).action 0 4 cu.srcKind = 0 ∧ ((sBadReg none).regEntry wt cu 5).bad = true ∧ ((sBadReg none).regEntry wt cu 5).soft = none ∧
      (sBadReg none).action 0 5 cu.srcKind = 0) ∧
    (3 < scrubBanks 5 ∧ scrubBanks 5 ≤ 12 ∧ 0 < scrubBanks 200 ∧ world.bankWord 5 3 = tileAddr 5 (2 ^ 18 * 3) ∧ world.corrupt = [] ∧
      (let s : State := { world with corrupt := [tileAddr 5 (2 ^ 18 * 3)], soft := [(tileAddr 5 (2 ^ 18 * 3), 7)] };
        s.corrupt.contains (s.bankWord 5 3) = true ∧ mget s.soft (s.bankWord 5 3) = some 7) ∧
      (let s : State := { world with corrupt := [tileAddr 5 (2 ^ 18 * 3)] }; s.hard (s.bankWord 5 3) = true)) ∧
    (isChannelCore 192 = true ∧ world.now 192 / 1024 % channelLines 192 = 0 ∧ world.channelLine 192 0 0 = some 0 ∧
      (∀ i ∈ List.range 8, (world.placeOf (0 / 64 * 64 + 8 * i)).isDram = true) ∧
      (let s : State := { world with corrupt := [0] }; s.hard (0 / 64 * 64 + 8 * 0) = true) ∧ world.channelLine 192 0 (2 ^ 30) = none) ∧
    ((world.setRcb 0 0x0A30 0).action 0 6 6 = 0) ∧
    ((world.setRcb 0 0x0A38 0).action 0 7 6 = 0 ∧ world.tileBeside (coreId 0 7) 1 = some 8 ∧ coreRet 8 = 0) ∧
    (sLost.outbox = [] ∧ lostLoad.dst = .reg 0 ∧ lostLoad.src.modn = sLost.modn ∧ sLost.srcWho lostLoad.src = some wt ∧ sLost.ctx? wt = some cLoad ∧
      (cLoad.op? lostLoad.id).map (·.dst) = some none ∧ cLoad.pend.late = none) :=
  ⟨by decide +kernel, by decide +kernel, by decide +kernel, by decide, by decide, rfl, rfl, rfl, by decide, rfl, by decide, rfl⟩

/-! Watershed and Lowland. -/

/-- A reticle's report on itself: it stands at the north edge, with a host port, or nowhere that it knows of. -/
def report1 (strips hosts : List Nat) : Report :=
  { ret := 0, key := 9, sides := [], seen := [], strips := strips, hostSides := hosts, devices := 0xFFF000000000, failTiles := [], failRouters := [] }
/-- A reticle in a phase, with what it knows. -/
def shed1 (phase : Nat) (strips hosts : List Nat) : Shed :=
  { Shed.reset with phase := phase, key := 9, best := 9, strips := strips, hostSides := hosts, devices := 0xFFF000000000, reports := [report1 strips hosts] }
/-- Reticle 0 in Watershed. -/
def sShed (h : Shed) : State := State.reset.modShed 0 fun _ => h
/-- As a leader with its island, placed or not, and summaries posted. -/
def sLead (phase : Nat) (strips hosts : List Nat) (l : List Summary) : State :=
  { sShed (shed1 phase strips hosts) with power := { State.reset.power with lines := l } }
def sum1 (size : Nat) : Summary := { ret := 0, size := size, host := 0, key := 9 }
def sum2 : Summary := { ret := 5, size := 2, host := 0, key := 3 }
/-- A reticle of a phase in the election, whose parent is reticle 1. -/
def shedE (phase : Nat) : Shed := { Shed.reset with phase := phase, key := 9, best := 9, trained := [1, 2], parent := some 1, children := [7] }
/-- The island of one reticle at the north edge with a host port. -/
def island1 : Island := ⟨(3, 0), [⟨0, 0, report1 [0] [0]⟩], [], []⟩
theorem placed1 : ∀ ph ∈ [4, 5, 6], (sLead ph [0] [0] []).place 0 = some island1 := by decide +kernel
theorem witness_WatershedPhases :
    ((∀ h, (sShed h).shedOf 0 = h ∧ (sShed h).pending = []) ∧ (shed1 1 [] []).phase = 1 ∧ (shed1 2 [] []).phase = 2 ∧ neighbourRet 0 1 = some 1 ∧
      neighbourRet 0 2 = some 7) ∧
    ((shedE 3).phase = 3 ∧ 1 ∈ (shedE 3).trained ∧ 2 ∈ (shedE 3).trained ∧ (shedE 3).best < 10 ∧ 5 ≤ (shedE 3).best ∧
      (sShed (shedE 3)).floodChildren 0 = [] ∧ (shedE 3).parent = some 1) ∧
    ((shedE 4).phase = 4 ∧ 1 ∈ (shedE 4).trained ∧ (shedE 4).best < 10 ∧ 7 ∈ (shedE 4).children ∧ (shedE 4).restarts < 3 ∧ 3 ≤ ({ shedE 4 with restarts := 3 } : Shed).restarts) ∧
    ((∀ p, p = (([0], [0]) : List Nat × List Nat) ∨ p = ([], []) →
      (shed1 4 p.1 p.2).phase = 4 ∧ (shed1 4 p.1 p.2).children = [] ∧ (shed1 4 p.1 p.2).parent = none ∧ ((sLead 4 p.1 p.2 []).checkPasses 0).sameKeys 0 = []) ∧
      ((sLead 4 [] [] []).checkPasses 0).place 0 = none ∧ ((sLead 4 [0] [0] []).checkPasses 0).place 0 = some island1 ∧ island1.kept ≠ []) ∧
    (∀ l, l = [sum1 1] ∨ l = [sum1 1, sum2] → let s := sLead 5 [0] [0] l; s.power.lines.find? (fun n => n.ret == 0) = some (sum1 1) ∧ (s.shedOf 0).dark = 0 ∧
      s.power.claimed = none ∧ s.place 0 = some island1 ∧
      (s.shedOf 0).phase = 5) ∧
    ((∀ n ∈ [sum1 1], better (n.size, n.host, n.key) ((sum1 1).size, (sum1 1).host, (sum1 1).key) = false) ∧
      better (sum2.size, sum2.host, sum2.key) ((sum1 1).size, (sum1 1).host, (sum1 1).key) = true) ∧
    (let s : State := { sShed (shed1 6 [0] [0]) with power := { State.reset.power with claimed := some 0 } };
      s.power.claimed = some 0 ∧ (s.shedOf 0).phase = 6 ∧ s.place 0 = some island1 ∧ island1.kept = [⟨0, 0, report1 [0] [0]⟩] ∧
        (⟨0, 0, report1 [0] [0]⟩ : Pos).rep.ret = 0) :=
  ⟨⟨fun _ => ⟨rfl, rfl⟩, rfl, rfl, rfl, rfl⟩, by decide, by decide,
    ⟨fun p hp => by rcases hp with rfl | rfl <;> decide +kernel, by decide +kernel, by decide +kernel, by decide⟩,
    fun l hl => by rcases hl with rfl | rfl <;> decide +kernel,
    by decide, rfl, rfl, placed1 6 (by decide), rfl, rfl⟩

/-- The module with its power state and reticle 0's place in Lowland. -/
def sLow (good : Bool) (cause : Nat) (low : Low) : State :=
  let s := (st cu []).modRet 0 fun k => { k with low := low }
  { s with power := { s.power with good := good, lowCause := cause } }
theorem witness_LowlandAndDebug :
    ((sLow true 0 .running).published = true ∧ State.reset.published = false ∧ (sLow true 0 .running).retLive 1 = true) ∧
    ((1 : Word).getLsbD 0 = true ∧ 0 = bits ((sLow true 0 .running).topoWord 0x2000) 29 24 ∧ (sLow true 0 .running).lowlandOn = false ∧
      (sLow true 1 .running).power.lowCause ≠ 0) ∧
    (((sLow true 0 .retained).reticle 0).low ≠ .running ∧ ((sLow true 1 .running).reticle 0).low = .running ∧
      bits ((sLow true 1 .running).rcb 0 0x0F08) 63 32 = 0 ∧ (sLow true 1 .running).power.lowCause ≠ 0 ∧ (sLow true 1 .running).ctx? wt = some cu) ∧
    (∀ c, c = 0 ∨ c = 1 → ((sLow true c .draining).reticle 0).low = .draining ∧ (sLow true c .draining).outbox = [] ∧ (sLow true c .draining).power.lowCause = c) ∧
    ((sLow false 1 .retained).power.lowCause = 1 ∧ (sLow true 2 .retained).power.lowCause = 2 ∧ (0, (sLow true 2 .retained).reticle 0) ∈ (sLow true 2 .retained).rets ∧
      ((sLow true 2 .retained).reticle 0).low = .retained) ∧
    (((sLow true 0 .retained).reticle 0).low = .retained ∧ (let c : Ctx := { cu with trapen := 0x200 }; c.kind ≠ .message ∧ c.mode = .u ∧ c.trapen.getLsbD 9 = true)) ∧
    ((sLow true 0 .retained).rets.any (fun p => p.2.low == .retained) = true ∧ world.rets.any (fun p => p.2.low == .retained) = false) ∧
    (st cu []).ctx? wt = some cu :=
  ⟨by decide, by decide, by decide, fun c hc => by rcases hc with rfl | rfl <;> decide, by decide, by decide, by decide, rfl⟩

/-! Host ports, links between modules, merge entries. -/

/-- The link core of host port 0 is up, with base 0; the host window of the port stands in the table of its reticle. -/
def sHost (up : Bool) : State :=
  let s : State := { world with topo := mput (0x2040 + 64 * hostRets.getD 0 0) 0xA000FFF000000000 world.topo }
  if up then s.setCb (hostCore 0) 0x0A00 (BitVec.ofNat 64 (2 ^ 63)) else s
/-- A load of the context under test that left the module, with its answer outstanding. -/
def farLoad (pa : Nat) : Access := { lostLoad with pa := pa, dst := .notice }
/-- A link to another module, up, with a request not acknowledged. -/
def kJen : Nat := coreId 1 212
def sJen (l : List Access) : State :=
  { (((st cLoad []).setCb kJen 0x0A00 (BitVec.ofNat 64 (2 ^ 63))).modCore kJen fun x => { x with replay := l }) with outbox := l }
/-- A request of module 3. -/
def imp1 : Access := { askAt 0x20000 with src := { modn := 3, core := 0, slot := 3, gen := 0 }, tag := { part := 1, mode := .s } }
theorem witness_HostAndModuleLinks :
    (0x2008 % 8 = 0 ∧ 0x2008 + 8 ≤ 2 ^ 16 ∧ 0x2C80 % 8 = 0) ∧ ((sHost false).hostUp 0 = false ∧ (sHost true).hostUp 0 = true ∧ (sHost true).asleep (hostCore 0) = false ∧ 0x20000 % 8 = 0 ∧
      bits ((sHost true).cb (hostCore 0) 0x0A10) 51 40 * 2 ^ 36 + 0x20000 = 0x20000 ∧ (sHost true).inMailbox (coreRet (hostCore 0)) 0x20000 = false ∧
      (sHost true).placeOf 0x20000 ≠ .hole ∧ (sHost true).placeLive ((sHost true).placeOf 0x20000) = true ∧
      (sHost true).homeCore ((sHost true).placeOf 0x20000) ≠ hostCore 0 ∧ (sHost true).outbox = []) ∧
    (let a := farLoad hostBase; let s : State := { (sHost true).setCtx wt cLoad with outbox := [a] };
      s.hostPort? a.pa = some 0 ∧ s.hostUp 0 = true ∧ a.attempt ≠ 255 ∧ a.dst = .notice ∧ s.srcWho a.src = some wt ∧ s.ctx? wt = some cLoad ∧
        (cLoad.op? a.id).map (·.dst) = some none ∧ cLoad.pend.late = none) ∧
    (let a := farLoad (3 * 2 ^ 48); isJenoon kJen = true ∧ ((sJen [a]).cb kJen 0x0A00).getLsbD 63 = true ∧ ((sJen [a]).core kJen).replay = [a] ∧
      (sJen [a]).outbox = [a] ∧ a.attempt ≠ 255 ∧ (sJen [a]).srcWho a.src = some wt ∧ (sJen [a]).ctx? wt = some cLoad) ∧
    (∀ v : Word, v = 0xC003000000000001 ∨ v = 0 → let s := (sJen []).setCb kJen 0x9000 v;
      (s.cb kJen 0x0A00).getLsbD 63 = true ∧ s.asleep kJen = false ∧ imp1.src.modn ≠ s.modn ∧ s.isLocalPa imp1.pa = true ∧ s.cb kJen 0x9000 = v ∧
        s.placeLive (s.placeOf (lpaOf imp1.pa)) = true ∧ s.placeOf (lpaOf imp1.pa) ≠ .hole) ∧
    ((0xC003000000000001 : Word).getLsbD 63 = true ∧ bits 0xC003000000000001 55 48 = imp1.src.modn ∧ (0xC003000000000001 : Word).getLsbD 62 = true ∧
      (∀ op, imp1.op ≠ .red op) ∧ ∀ i, i < 64 → ((sJen []).cb kJen (0x9000 + 8 * i)).getLsbD 63 = false) :=
  ⟨by decide, by decide +kernel, by decide +kernel, by decide +kernel, fun v hv => by rcases hv with rfl | rfl <;> decide +kernel, by decide, by decide, by decide,
    (fun _ h => by cases h), by decide +kernel⟩

/-- Merge entry 0 of link core 212: three words at 0x20000 of modules 1 and 2, for barrier 5, with a word and what has closed. -/
def sMerge (x got stw cfw : Word) : State :=
  ((((((sBar 0 0 [] 0).setCb 212 (mergeOff 0) x).setCb 212 (mergeOff 0 + 8) 0x20000).setCb 212 (mergeOff 0 + 0x10) 6).setCb 212 (mergeOff 0 + 0x18) got).setCb
    212 (barSt 5) stw).setCb 212 (barCfg 5) cfw
/-- Armed to add, for three words; a reduction of module 2 of the third. -/
def armed1 : Word := 0x8005000000000003
def red1 (op : MemOp) : Access := { imp1 with op := op, pa := 0x20010, dst := .nobody, src := { modn := 2, core := 0, slot := 3, gen := 0 } }
theorem witness_MergeEntries :
    (isLinkCore 212 = true ∧ armed1.getLsbD 63 = true ∧ bits armed1 53 48 = 5 ∧ bits armed1 12 0 = 3 ∧
      (let s := sMerge 0 0 0 0; bits (s.cb 212 (mergeOff 0 + 8)) 47 3 * 8 = 0x20000 ∧ s.cb 212 (mergeOff 0 + 16) ≠ 0 ∧
        s.oneWindow 0x20000 (0x20000 + 8 * 3) = true ∧ bit (s.cb 212 (barCfg 5)) 63 = false ∧ bits (s.cb 212 (barSt 5)) 13 8 = 0 ∧
        bits (s.cb 212 (barSt 5)) 31 23 = 0 ∧ bit (s.cb 212 (barSt 5)) 62 = false ∧ (s.core 212).children.length < 256 ∧
        (s.cb 212 (mergeOff 0)).getLsbD 63 = false ∧ s.mergesOn 212 0 = [] ∧ bits (s.cb 212 (barCfg 5)) 34 26 < 511)) ∧
    (bits 0x8005000000000000 12 0 = 0 ∧ (sMerge armed1 0 0 0).cb 212 (mergeOff 0) = armed1 ∧ armed1.getLsbD 62 = false ∧
      (0xC005000000000003 : Word).getLsbD 62 = true) ∧
    (let s := sMerge armed1 0 0 0; (s.mergeRange 212 0).1 ≤ lpaOf (red1 (.red 0)).pa ∧ lpaOf (red1 (.red 0)).pa < (s.mergeRange 212 0).2 ∧
      (red1 (.red 0)).dst = .nobody ∧ (red1 (.red 0)).op = .red (bits armed1 58 56) ∧ (red1 (.red 0)).src.modn < 64 ∧
      bit (s.cb 212 (mergeOff 0 + 0x10)) (red1 (.red 0)).src.modn = true ∧ bit (s.cb 212 (mergeOff 0 + 0x18)) (red1 (.red 0)).src.modn = false ∧
      (red1 (.red 1)).op ≠ .red (bits armed1 58 56)) ∧
    (∀ got : Word, got = 0 ∨ got = 4 → let s := sMerge armed1 got stTwo cfChild; s.cb 212 (mergeOff 0 + 0x18) = got ∧ s.cb 212 (mergeOff 0 + 0x10) = 6 ∧
      bits (s.cb 212 (barSt 5)) 13 8 ≠ bits (s.cb 212 (barSt 5)) 5 0 ∧ bits (s.cb 212 (barSt 5)) 31 23 < 511) ∧
    (bit 6 1 = true ∧ bit 6 5 = false ∧ bit 0 1 = false ∧ setBit 0 1 true ≠ 6 ∧ setBit 4 1 true = 6) ∧
    (let s := (sMerge 0xC005000000000003 6 stTwo cfChild).modCore 212 fun k => { k with merges := [(0, { touched := [], committing := 1 })] };
      s.armedAt 212 5 = [0] ∧ (s.cb 212 (mergeOff 0)).getLsbD 62 = true ∧ mget (s.core 212).merges 0 = some { touched := [], committing := 1 } ∧
        s.childrenOf 212 5 = [] ∧ (s.core 212).members = []) :=
  ⟨by decide +kernel, by decide +kernel, by decide +kernel, fun got hg => by rcases hg with rfl | rfl <;> decide +kernel, by decide, by decide +kernel⟩

/-! Combining, cancels, timeouts. -/

/-- A fetch-and-add of the context under test, and a reduction, of one word; an entry of node 3 of reticle 1 with members. -/
def addReq : Access := { lostLoad with op := .amo 0 true, pa := tileAddr 256 0x8000, dst := .reg 4, data := 7 }
def redReq : Access := { addReq with id := 6, op := .red 0, dst := .notice, data := 9 }
def entry1 (l : List Access) : Combine := { node := 3, word := addReq.pa, members := l, sent := false, id := 50 }
def sNode1 (l : List Combine) : State := world.modRet 1 fun x => { x with combine := l }
/-- The context waits for it, with its register owed. -/
def cAdd (x : Option Interrupt) : Ctx :=
  { cu with out := [{ id := 5, cls := .ld, dst := some 4, home := some 256, both := false }], cond := some addReq, cancelling := x }
def sCancel (x : Option Interrupt) : State := (world.setCtx wt (cAdd x)).modCore 256 fun k => { k with waits := [addReq] }
theorem witness_CombiningAndCancels :
    (((sNode1 [entry1 [addReq]]).reticle 1).combine = [entry1 [addReq]] ∧ ((sNode1 []).reticle 1).combine = [] ∧ (entry1 [addReq]).sent = false ∧
      (entry1 [addReq]).word = redReq.pa ∧ (entry1 [addReq]).members.head?.map (·.tag) = some redReq.tag) ∧
    (((sNode1 [entry1 [addReq, redReq]]).reticle 1).combine = [entry1 [addReq, redReq]] ∧ addReq.op = .amo 0 true ∧ redReq.op = .red 0) ∧
    (cu.cond = none ∧ (st cu []).ctx? wt = some cu ∧ (∀ d, Interrupt.freeze ≠ .kill d)) ∧
    ((sCancel none).ctx? wt = some (cAdd none) ∧ (cAdd none).cond = some addReq ∧ (sCancel none).outbox = [] ∧
      addReq.src.core = wt.core ∧ addReq ∈ ((sCancel none).core 256).waits) ∧
    ((sCancel (some .freeze)).ctx? wt = some (cAdd (some .freeze)) ∧ (cAdd (some .freeze)).run = .ready ∧ (cAdd (some .freeze)).busy = none ∧
      ((cAdd (some .freeze)).op? addReq.id).map (·.both) = some false) ∧
    (let s : State := { st cLoad [] with outbox := [] }; lostLoad.dst = .reg 0 ∧ (farLoad 0x20000).dst = .notice ∧ s.srcWho (farLoad 0x20000).src = some wt ∧
      s.ctx? wt = some cLoad ∧ (cLoad.op? (farLoad 0x20000).id).map (·.dst) = some none ∧ cLoad.pend.late = none) :=
  ⟨by decide, by decide, ⟨rfl, rfl, nofun⟩, by decide, by decide, by decide⟩

/-! x0, float classes, shift words, steps, reset. -/

/-- The context under test loads a word of the next tile to x0; its request at home; its reply. -/
def zeroReq : Access := reqOf (sAcc cf) cf (.load 3 false) there 0 0 (some 0)
def cZero : Ctx := { cf with out := [{ id := zeroReq.id, cls := .ld, dst := some 0, home := some 1, both := false }] }
theorem witness_RegisterZero :
    (let s := sAcc cf; Issues s wt cf ∧ cf.solo ∧ Usable s wt cf [2, 0] ∧ s.reg wt cf 2 = BitVec.ofNat 64 there ∧ MayAccess cf (.load 3 false) ∧
      Reaches s wt cf (.load 3 false) (BitVec.ofNat 64 there) there ∧ s.isLocalPa there = true ∧ s.homeOf there ≠ wt.core) ∧
    (let s := sAcc cf; AtHome s zeroReq ∧ zeroReq.op = .load 3 false ∧ lpaOf zeroReq.pa % zeroReq.op.bytes = 0 ∧ zeroReq.dst = .reg 0 ∧
      zeroReq.src.modn = s.modn ∧ zeroReq.src.core ≠ s.homeCore (s.placeOf (lpaOf zeroReq.pa)) ∧
      (opRow s.mem (lpaOf zeroReq.pa) zeroReq.data zeroReq.cmp (s.full (wordAt (lpaOf zeroReq.pa))) zeroReq.op).isSome = true) ∧
    (let s := st cZero []; let r : Reply := { acc := zeroReq, value := 5, status := .ok }; s.arrived r = r ∧ s.inboundShut zeroReq = false ∧
      s.srcWho zeroReq.src = some wt ∧ s.ctx? wt = some cZero ∧ (cZero.op? zeroReq.id).map (·.dst) = some (some 0)) :=
  ⟨⟨⟨rfl, rfl, rfl⟩, ⟨rfl, rfl⟩, usable_of _ _ _ _ (by decide), by decide, ⟨rfl, rfl, by decide, fun _ => by decide⟩,
      ⟨by decide, by decide, by decide, .inr (by decide)⟩, by decide, by decide⟩,
    ⟨⟨⟨.inl ⟨1, 0x8000, by decide⟩, by decide, by decide, by decide, fun _ _ => by decide⟩, by decide⟩, rfl, by decide, rfl, by decide, by decide, by decide⟩,
    by decide, by decide, by decide, rfl, by decide⟩

/-- Operands of the ten classes of R150, in the order of the table, with high halves that do not count. -/
def classWords : List Word :=
  [0x5FF800000, 0xBF800000, 0x80000001, 0x780000000, 0x100000000, 0x7FFFFF, 0x800000, 0x7F800000, 0x7F800001, 0xFFC00000]
theorem witness_FloatClasses : Issues (st cu [(5, 0xBF800000)]) wt cu ∧ Usable (st cu [(5, 0xBF800000)]) wt cu [5, 6] :=
  ⟨⟨rfl, rfl, rfl⟩, usable_of _ _ _ _ (by decide)⟩
/-- What FCLASS answers for each of them. -/
theorem test_float_classes : (List.range 10).all (fun n =>
    match exec (.fclass 6 5) (st cu [(5, classWords.getD n 0)]) with
    | .next t => t.reg wt cu 6 == BitVec.ofNat 64 (2 ^ n)
    | _ => false) = true := by decide +kernel

theorem witness_ShiftImmediates : (0x20000000 : BitVec 32).extractLsb' 26 6 = 0x08 ∧
    (∀ v : BitVec 32, v = 0x20000005 ∨ v = 0x20000105 ∨ v = 0x20000205 ∨ v = 0x20000305 ∨ v = 0x20000405 ∨ v = 0x200003C5 →
      v.extractLsb' 26 6 = 0x08) ∧
    ((0x20000005 : BitVec 32).extractLsb' 6 2 = 0 ∧ (0x20000005 : BitVec 32).extractLsb' 8 4 = 0 ∧ (0x20000105 : BitVec 32).extractLsb' 8 4 = 1 ∧
      (0x20000205 : BitVec 32).extractLsb' 8 4 = 2 ∧ (0x20000305 : BitVec 32).extractLsb' 8 4 = 3 ∧
      4 ≤ ((0x20000405 : BitVec 32).extractLsb' 8 4).toNat ∧ (0x200003C5 : BitVec 32).extractLsb' 6 2 ≠ 0 ∧
      ((0x200003C5 : BitVec 32).extractLsb' 8 4).toNat < 4) :=
  ⟨by decide, fun v h => by rcases h with rfl | rfl | rfl | rfl | rfl | rfl <;> decide, by decide⟩

theorem witness_DecodeEncodeRoundTrip : (Instr.bfi 5 6 3).wellFormed = true ∧ decodeWord 0x0C2860E7 0 = .ok (.bfi 5 6 7) := ⟨by decide, rfl⟩

/-- The module as it starts, with an instruction where the firmware context issues; the slot; the same in the second instruction of a frame. -/
def sNext (n v : Nat) : State := State.reset.withFetchWord n v
def wf : Who := { core := 0, slot := 62 }
def frameWord : Word := BitVec.ofNat 64 (2 ^ 63 + 2 * 2 ^ 58 + 2 ^ 38 + 2 ^ 16)
def sFrame1 : State := (sNext 32 0x04286060).modCtx wf fun c => { c with repst := frameWord }
/-- The first turn of a state is an issue turn of that slot, decided. -/
def issues (s : State) : Bool :=
  match s.turn? with
  | (some (.issue 0 62), t) => t == s
  | _ => false
theorem issues_sound {s : State} (h : issues s = true) : s.turn? = (some (.issue 0 62), s) := by
  unfold issues at h
  split at h
  · rename_i _ _ e; rw [e, eq_of_beq h]
  · cases h
/-- The word that the fetch at an offset from the PC gives at that turn, from the state that `n` earlier fetches leave. -/
def fetchesAt (s : State) (o : Word) : Option (BitVec 32) :=
  (s.ctx? wf).bind fun c => match (s.fetch wf c (c.pc + o)).2 with
    | .word v => some v
    | _ => none
/-- Nothing stops the context before its fetch. -/
def goes (s : State) (framing : Bool) : Bool :=
  let t := s.atIssue 0 62
  (t.ctx? wf).any fun c => (t.due? wf c).isNone && c.heldTrap.isNone && c.kind != .message && c.resend.isNone && !c.frameBad && c.framing == framing
theorem first_turns : issues (sNext 32 0x60000000) = true ∧ issues (sNext 64 0x56789ABCFC101234) = true ∧ issues sFrame1 = true :=
  ⟨by decide +kernel, by decide +kernel, by decide +kernel⟩
/-- The states in which the steps that are events are taken: one message on its way, one input, one event whose condition holds. -/
def sSent : State := { State.reset with pending := [.lowlandSignal 0] }
def sInput : State := { State.reset with inputs := [.powerUp] }
def sStanding : State := State.reset.setCtx wt { cu with expired := true }
/-- A home takes in what waits; a basin with nothing to do lets its clock run. -/
def sHome : State := State.reset.modCore 0 fun k => { k with ready := [aStore] }
def sTick : State := State.reset.modRet 0 fun k => k
def turnIs (s : State) (p : Turn → Bool) : Bool := s.turn?.1.any p
theorem witness_StepRunsDecodedInstruction :
    ((sNext 32 0x60000000).turn? = (some (.issue 0 62), sNext 32 0x60000000) ∧ goes (sNext 32 0x60000000) false = true ∧
      fetchesAt ((sNext 32 0x60000000).atIssue 0 62) 0 = some 0x60000000 ∧ startsLdi 0x60000000 = false ∧ decodeWord 0x60000000 0 = .ok .nop) ∧
    ((sNext 64 0x56789ABCFC101234).turn? = (some (.issue 0 62), sNext 64 0x56789ABCFC101234) ∧ goes (sNext 64 0x56789ABCFC101234) false = true ∧
      fetchesAt ((sNext 64 0x56789ABCFC101234).atIssue 0 62) 0 = some 0xFC101234 ∧ startsLdi 0xFC101234 = true ∧
      fetchesAt ((sNext 64 0x56789ABCFC101234).atIssue 0 62) 4 = some 0x56789ABC ∧
      decodeWord 0xFC101234 0x56789ABC = .ok (.ldi 2 0x123456789ABC)) ∧
    (sFrame1.turn? = (some (.issue 0 62), sFrame1) ∧ goes sFrame1 true = true ∧ bits frameWord 41 38 ≠ 0 ∧
      fetchesAt (sFrame1.atIssue 0 62) 0 = some 0x04286060 ∧ decodeWord 0x04286060 0 = .ok (.add 5 6 3) ∧
      Instr.overLimit (.add 5 6 3) (bits frameWord 15 0) (bits frameWord 57 55) (bits frameWord 54 52) 128 = false) ∧
    (let s := (sNext 32 0x60000000).atIssue 0 62; let pa := tileAddr 0 0;
      (s.ctx? wf).any (fun c => s.xlate wf c c.pc .execute == .ok pa && (s.cached wf c c.pc).isNone && (s.reachTrap wf c pa).isNone) = true ∧
      s.isLocalPa pa = true ∧ (s.placeOf (lpaOf pa)).isCtl = false ∧ s.admits (s.placeOf (lpaOf pa)) (firmwareCtx 0).tag .execute (lpaOf pa) = true ∧
      s.homeOf pa = 0 ∧ (s.ctx? wf).any (fun c => (c.fetchEnd c.pc).isNone && c.fetching.isNone && (s.forwarded (s.fetchRequest wf c c.pc pa)).isNone &&
        !s.fillsPage (s.fetchRequest wf c c.pc pa)) = true ∧ s.placeOf (lpaOf pa) = .sram 0 0 ∧ s.bytesWait 0 0 4 = false ∧
      s.poisoned (wordAt (lpaOf pa)) = false ∧ s.corrupt.contains (wordAt (lpaOf pa)) = false) ∧
    (let s := st { cf with pc := BitVec.ofNat 64 there } []; s.xlate wt cf (BitVec.ofNat 64 there) .execute = .ok there ∧ s.homeOf there ≠ wt.core ∧
      s.reachTrap wt cf there = none) ∧
    (turnIs sSent (· == .pending 0) = true ∧ sSent.pending[0]? = some (.lowlandSignal 0) ∧ turnIs sInput (· == .input) = true ∧
      turnIs sStanding (· == .standing (.watchdogExpiry 0 3)) = true ∧
      turnIs sHome (· == .home 0) = true ∧ turnIs sTick (· == .tick 0) = true) :=
  ⟨⟨issues_sound first_turns.1, by decide +kernel, by decide +kernel, by decide, rfl⟩,
    ⟨issues_sound first_turns.2.1, by decide +kernel, by decide +kernel, by decide, by decide +kernel, rfl⟩,
    ⟨issues_sound first_turns.2.2, by decide +kernel, by decide, by decide +kernel, rfl, by decide⟩, by decide +kernel, by decide +kernel,
    by decide +kernel, by decide, by decide +kernel, by decide +kernel, by decide +kernel, by decide +kernel⟩
theorem witness_StepKeepsMemoryCanonical : Safe State.reset := by unfold Safe; decide
/-- The first instruction after the start is fetched, decoded and run: NOP moves the PC on. -/
theorem test_nop_first : (match step (sNext 32 0x60000000) with
    | .next t => (t.ctx? wf).map (·.pc)
    | _ => none) = some 0x100000000004 := by decide +kernel

/-! Single steps and worked examples. The results come from the spec's examples where it gives one, else from its rules by hand. -/

/-- What holds of the state after an instruction. -/
def then_ (i : Instr) (s : State) (p : State → Bool) : Bool :=
  match exec i s with
  | .next t => p t
  | _ => false
/-- R133: the sum wraps. -/
theorem test_add_wraps : then_ (.add 5 1 2) (st cu [(1, 0xFFFFFFFFFFFFFFFF), (2, 2)]) (fun t => t.reg wt cu 5 == 1) = true := by decide +kernel
/-- R134: an unsigned quotient by zero is all ones. -/
theorem test_divn_by_zero : then_ (.divn 5 1 2) (st cu [(1, 9)]) (fun t => t.reg wt cu 5 == 0xFFFFFFFFFFFFFFFF) = true := by decide +kernel
/-- R30: a result for x0 is discarded, and the PC moves on. -/
theorem test_x0_discards : then_ (.addi 0 1 5) (st cu [(1, 9)])
    (fun t => t.reg wt cu 0 == 0 && (t.ctx? wt).map (·.pc) == some 0x1004) = true := by decide +kernel
/-- R138: an arithmetic shift keeps the sign, also where the source is the destination. -/
theorem test_sari_sign : then_ (.sari 1 1 63) (st cu [(1, 0x8000000000000000)]) (fun t => t.reg wt cu 1 == 0xFFFFFFFFFFFFFFFF) = true := by decide +kernel
/-- The example of R152: 2.5 to I32 gives 2 in RNE, 2 in RTZ and 3 in RUP. -/
theorem test_fcvt_example : (then_ (.fcvt 5 1 0 4 0) (st cu [(1, 0x40200000)]) (fun t => t.reg wt cu 5 == 2) &&
    then_ (.fcvt 5 1 0 4 1) (st cu [(1, 0x40200000)]) (fun t => t.reg wt cu 5 == 2) &&
    then_ (.fcvt 5 1 0 4 2) (st cu [(1, 0x40200000)]) (fun t => t.reg wt cu 5 == 3)) = true := by decide +kernel
/-- The example of spec/01: tile (14, 7) is number 126, of cluster 7, and sparse. -/
theorem test_tile_example : clusterOf 126 = 7 ∧ tileKind 126 = .s := by decide
/-- The lowest byte of `here` is 0xFF: sign-extended it is all ones; its highest, zero-extended, is 0x88 (R3, R223). -/
theorem test_load_bytes : (then_ (.ld 5 1 0 1 0) (sAcc cf) (fun t => t.reg wt cf 5 == 0xFFFFFFFFFFFFFFFF) &&
    then_ (.ld 5 1 0 0 7) (sAcc cf) (fun t => t.reg wt cf 5 == 0x88)) = true := by decide +kernel
/-- A store of four bytes is little-endian and leaves the others (R3, R223). -/
theorem test_store_four : then_ (.st 3 1 2 1) (sAcc cf) (fun t => memRead t.mem here 8 == 0x55667788CCDDEEFF) = true := by decide +kernel
/-- The placement example of spec/02: with every other slot and entry taken, slot 3 and entries 224 to 255 free, a migrant's 24 registers go to
slot 3 at 224. -/
theorem test_placement_example : ({ Core.reset with slots := ((List.range 63).filter fun n => n != 3).map fun n =>
    (n, Ctx.fresh .resident .u 1 5 (if n = 0 then 0 else 256) (if n = 0 then 224 else if n = 1 then 1760 else 0) 0) } : Core).place 5 24 =
      some (3, 224) := by decide +kernel
/-- R357, R369: a sub-step that fails its residue check twice is charged twice and leaves SIV, its product added to no sum. -/
theorem test_residue_fails_twice :
    (let s : State := sDense.modCore 0 fun k => { k with residue := [true, true], credit := 2 * cmdMx.charge };
     then_ .denseSubstep s fun t => then_ .denseSubstep { t with ev := some (.denseSubstep 0) } fun u =>
       (u.core 0).credit == 0 && (u.core 0).cmds.all fun x => x.todo.isEmpty && x.sums.all fun o => o.siv && o.total == 0) = true := by decide +kernel
/-- R357: a load of a word with a correctable error reads the corrected word, which is written back. -/
theorem test_soft_word : then_ (.ld 5 1 0 1 0) { sAcc cf with corrupt := [here], soft := [(here, 3)] }
    (fun t => t.reg wt cf 5 == 0xFFFFFFFFFFFFFFFF && t.corrupt.isEmpty) = true := by decide +kernel
end Sys2Proof.Tests
end

