-- ==== Sys2Proof/Proofs/RegisterZero.lean ====
section
/-! PROOF. R30's obligation, O53. Its clause on a load at its home does not ask that the word be one of this module. A request for a word of another
module travels as a LOAD_REQUEST too, where a confluence node holds it back (R188, R210); at its turn it crosses the link, and no answer follows. -/
namespace Sys2Proof.Machine

/-- A request that leaves over a link sends no message within the module (R405, R406). -/
@[simp] theorem crossLink_pending (s : State) (a : Access) : (s.crossLink a).pending = s.pending := by
  unfold State.crossLink
  dsimp only
  split
  · rfl
  · split <;> rfl

/-- A request to another module reaches no home here: it crosses the link (R188). -/
theorem reach_of_not_isLocalPa {s : State} {a : Access} (h : s.isLocalPa a.pa = false) : s.reach a = s.crossLink a := by
  simp [State.reach, h]

theorem exec_loadRequest {s : State} {a : Access} (h : s.ev = some (.loadRequest a)) : exec .loadRequest s = .next (s.reach a) := by
  show execLoadRequest s = _
  simp only [execLoadRequest, h]

/-- A load request for a word of another module is answered by nothing in this step. -/
theorem exec_loadRequest_pending_of_not_isLocalPa {s t : State} {a : Access} (h : s.ev = some (.loadRequest a)) (hl : s.isLocalPa a.pa = false)
    (ht : exec .loadRequest s = .next t) : t.pending = s.pending := by
  rw [exec_loadRequest h, reach_of_not_isLocalPa hl] at ht
  cases ht
  exact crossLink_pending s a

/-- A load to x0, in mode F of core 0 of module 0, of a word of module 1: in its module the word is at 0x8000 of tile (1, 0). -/
def foreignLoad : Access :=
  { id := 0, src := { modn := 0, core := 0, slot := 3, gen := 0 }, tag := { part := 1, mode := .f }, op := .load 3 false, va := 0
    pa := 2 ^ 48 + tileAddr 1 0x8000, data := 0, cmp := 0, dst := .reg 0, attempt := 0 }

/-- The module after reset, of number 0, where that load is the event of the step. -/
def foreignLoadState : State := { State.reset with ev := some (.loadRequest foreignLoad) }

theorem foreignLoad_not_isLocalPa : foreignLoadState.isLocalPa foreignLoad.pa = false := by decide

/-- A home is told by the low 48 bits of an address: those of the foreign word name a word of this module that could be performed on. -/
theorem foreignLoad_atHome : AtHome foreignLoadState foreignLoad where
  memory := .inl ⟨1, 0x8000, by decide⟩
  clear := by decide
  direct := by decide
  admits := admits_f rfl rfl rfl
  trusted := fun _ _ => by decide
  taken := by decide

/-- Refutes O53: the clause on the performance of a load to x0 at its home leaves out that the word is local (which RequestsPerform asks), and the load
of `foreignLoad` meets every hypothesis that is there, but is sent on to module 1 with no LOAD_REPLY in its place. -/
theorem not_registerZero : ¬ Obligations.RegisterZero := by
  unfold Obligations.RegisterZero
  intro h
  obtain ⟨-, -, -, -, atHome, -⟩ :=
    h foreignLoadState { core := 0, slot := 3 } (Ctx.fresh .resident .f 1 5 0 32 0x1000) (.load 3 false) foreignLoad.pa foreignLoad
  obtain ⟨t, ht, hp⟩ :=
    atHome _ _ _ rfl foreignLoad_atHome rfl ⟨3, false, rfl⟩ (by decide) rfl (by decide) (by decide) rfl
  rw [exec_loadRequest_pending_of_not_isLocalPa rfl foreignLoad_not_isLocalPa ht] at hp
  exact absurd hp (by simp)

end Sys2Proof.Machine
end

