-- ==== Sys2Proof/Proofs/ShiftImmediates.lean ====
section
/-! PROOF. R60's obligation, O55: the decoder's fields of a word as the bits it is made of, what the decoder of major 0x08 answers for each operation
selector, and the traps an issue turn takes for a word that does not decode (R58). -/
namespace Sys2Proof

/-- The decoder's field of the number of a word is the word's own bits. -/
@[simp] theorem fieldOf_toNat (v : BitVec 32) (lo n : Nat) : fieldOf v.toNat lo n = v.extractLsb' lo n := by
  rw [fieldOf, BitVec.extractLsb', Nat.shiftRight_eq_div_pow]

@[simp] theorem fD_toNat (v : BitVec 32) : fD v.toNat = v.extractLsb' 19 7 := fieldOf_toNat v 19 7
@[simp] theorem fA_toNat (v : BitVec 32) : fA v.toNat = v.extractLsb' 12 7 := fieldOf_toNat v 12 7

/-- A selector that the decoder takes by division and remainder is the number of the word's own bits. -/
theorem toNat_div_mod_eq_extractLsb' (v : BitVec 32) (lo n : Nat) : v.toNat / 2 ^ lo % 2 ^ n = (v.extractLsb' lo n).toNat := by
  rw [BitVec.extractLsb'_toNat, Nat.shiftRight_eq_div_pow]

/-- Major 0x08 is SHI, whatever the word after it (R59). -/
theorem decodeWord_eq_decShi {v : BitVec 32} (h : v.extractLsb' 26 6 = 0x08) (w2 : Nat) : decodeWord v.toNat w2 = decShi v.toNat := by
  have major : v.toNat / 2 ^ 26 % 64 = 0x08 := by
    rw [show (64 : Nat) = 2 ^ 6 from rfl, toNat_div_mod_eq_extractLsb', h]
    rfl
  simp only [decodeWord, major]

/-- The operation that a selector of SHI names, if any (R60). -/
def shiftOp : Nat → Option (Reg → Reg → BitVec 6 → Instr)
  | 0 => some .shli
  | 1 => some .shri
  | 2 => some .sari
  | 3 => some .roli
  | _ => none

theorem shiftOp_eq_none {k : Nat} (h : 4 ≤ k) : shiftOp k = none := by
  obtain ⟨m, rfl⟩ := Nat.exists_eq_add_of_le' h
  rfl

theorem exists_shiftOp_eq_some {k : Nat} (h : k < 4) : ∃ op, shiftOp k = some op := by
  match k, h with
  | 0, _ | 1, _ | 2, _ | 3, _ => exact ⟨_, rfl⟩

/-- SHI's decoder: the operation is chosen before the reserved bits [7:6] are looked at (R58 steps 2 and 3, R60). -/
theorem decShi_toNat (v : BitVec 32) :
    decShi v.toNat = match shiftOp (v.extractLsb' 8 4).toNat with
      | some op => needZero (v.extractLsb' 6 2 == 0) (op (v.extractLsb' 19 7) (v.extractLsb' 12 7) (v.extractLsb' 0 6))
      | none => .error .illop := by
  unfold decShi
  rw [show (16 : Nat) = 2 ^ 4 from rfl, toNat_div_mod_eq_extractLsb']
  simp only [fieldOf_toNat, fD_toNat, fA_toNat]
  generalize (v.extractLsb' 8 4).toNat = k
  match k with
  | 0 | 1 | 2 | 3 => rfl
  | _ + 4 => rfl

end Sys2Proof

namespace Sys2Proof.Machine

/-- A word with a reserved selector ends the turn with ILLOP, the word in tval (R58 step 2). -/
theorem decodeAt_of_illop {v v2 : BitVec 32} (h : decodeWord v.toNat v2.toNat = .error .illop) (s : State) (w : Who) (c : Ctx) :
    s.decodeAt w c v v2 = .ended (trapNow { s with cur := w, ir := v } w c .illop (v.setWidth 64)) := by
  simp only [State.decodeAt, h, State.irWord]

/-- A word with a nonzero reserved field ends the turn with RSVFLD, the word in tval (R58 step 3). -/
theorem decodeAt_of_rsvfld {v v2 : BitVec 32} (h : decodeWord v.toNat v2.toNat = .error .rsvfld) (s : State) (w : Who) (c : Ctx) :
    s.decodeAt w c v v2 = .ended (trapNow { s with cur := w, ir := v } w c .rsvfld (v.setWidth 64)) := by
  simp only [State.decodeAt, h, State.irWord]

end Sys2Proof.Machine

namespace Sys2Proof

section
variable {v : BitVec 32} (major : v.extractLsb' 26 6 = 0x08)
include major

/-- A selector with an operation and reserved bits of zero: the operation on d, a and the amount in bits [5:0]. -/
theorem decodeWord_shi_of_reserved_zero {op : Reg → Reg → BitVec 6 → Instr} (hop : shiftOp (v.extractLsb' 8 4).toNat = some op)
    (hz : v.extractLsb' 6 2 = 0) (w2 : Nat) :
    decodeWord v.toNat w2 = .ok (op (v.extractLsb' 19 7) (v.extractLsb' 12 7) (v.extractLsb' 0 6)) := by
  rw [decodeWord_eq_decShi major, decShi_toNat, hop]
  simp [needZero, hz]

theorem decodeWord_shi_of_reserved_ne_zero (hk : (v.extractLsb' 8 4).toNat < 4) (hz : v.extractLsb' 6 2 ≠ 0) (w2 : Nat) :
    decodeWord v.toNat w2 = .error .rsvfld := by
  obtain ⟨op, hop⟩ := exists_shiftOp_eq_some hk
  rw [decodeWord_eq_decShi major, decShi_toNat, hop]
  simpa [needZero] using hz

theorem decodeWord_shi_of_four_le (hk : 4 ≤ (v.extractLsb' 8 4).toNat) (w2 : Nat) : decodeWord v.toNat w2 = .error .illop := by
  rw [decodeWord_eq_decShi major, decShi_toNat, shiftOp_eq_none hk]

end

/-- Settles O55: a shift word decodes by its selector where the reserved bits are zero; otherwise the decoder's error is the trap of the turn. -/
theorem shiftImmediates : Obligations.ShiftImmediates := by
  unfold Obligations.ShiftImmediates
  rintro s w c v _ _ _ major rfl rfl rfl
  have decodes {k : BitVec 4} {op : Reg → Reg → BitVec 6 → Instr} (hop : shiftOp k.toNat = some op) (hz : v.extractLsb' 6 2 = 0)
      (hk : v.extractLsb' 8 4 = k) := decodeWord_shi_of_reserved_zero major (hk ▸ hop) hz 0
  refine ⟨fun hz => ⟨decodes rfl hz, decodes rfl hz, decodes rfl hz, decodes rfl hz⟩, fun hk => ?_, fun hk hz => ?_⟩
  · exact Machine.decodeAt_of_illop (decodeWord_shi_of_four_le major hk _) s w c
  · exact Machine.decodeAt_of_rsvfld (decodeWord_shi_of_reserved_ne_zero major hk hz _) s w c

end Sys2Proof
end

