-- ==== Sys2Proof/Proofs/FloatClasses.lean ====
section
/-! PROOF. R150's obligation, O54: what an encoding with infinities is read as, by its exponent and fraction (R90, R91), the class bit of each kind of
value, and FCLASS as a scalar instruction that writes it. -/
namespace Sys2Proof.Machine

section
variable {g : Fmt} {x : Nat} (ieee : g.e4m3 = false)
include ieee

/-! What an encoding is read as. -/

theorem unpack_of_infinity (he : x / 2 ^ g.fb % 2 ^ g.eb = 2 ^ g.eb - 1) (hf : x % 2 ^ g.fb = 0) : unpack g x = .inf (x / g.sign % 2 == 1) := by
  simp [unpack, ieee, he, hf]

theorem unpack_of_nan (he : x / 2 ^ g.fb % 2 ^ g.eb = 2 ^ g.eb - 1) (hf : x % 2 ^ g.fb ≠ 0) :
    unpack g x = .nan (decide (x % 2 ^ g.fb < 2 ^ (g.fb - 1))) := by
  simp [unpack, ieee, he, hf]

theorem unpack_of_exponent_zero (hm : x / 2 ^ g.fb % 2 ^ g.eb ≠ 2 ^ g.eb - 1) (h0 : x / 2 ^ g.fb % 2 ^ g.eb = 0) :
    unpack g x = .fin (x / g.sign % 2 == 1) (x % 2 ^ g.fb) g.emin := by
  rw [h0] at hm
  simp [unpack, ieee, hm, h0]

theorem unpack_of_normal (hm : x / 2 ^ g.fb % 2 ^ g.eb ≠ 2 ^ g.eb - 1) (h0 : x / 2 ^ g.fb % 2 ^ g.eb ≠ 0) :
    unpack g x = .fin (x / g.sign % 2 == 1) (x % 2 ^ g.fb + 2 ^ g.fb) (g.emin + (x / 2 ^ g.fb % 2 ^ g.eb : Nat) - 1) := by
  simp [unpack, ieee, hm, h0]

/-! The class bit of each kind of value. -/

theorem fClassBit_of_infinity (he : x / 2 ^ g.fb % 2 ^ g.eb = 2 ^ g.eb - 1) (hf : x % 2 ^ g.fb = 0) :
    fClassBit g x = if x / g.sign % 2 = 1 then 0 else 7 := by
  simp [fClassBit, unpack_of_infinity ieee he hf]

theorem fClassBit_of_nan (he : x / 2 ^ g.fb % 2 ^ g.eb = 2 ^ g.eb - 1) (hf : x % 2 ^ g.fb ≠ 0) :
    fClassBit g x = if x % 2 ^ g.fb < 2 ^ (g.fb - 1) then 8 else 9 := by
  simp [fClassBit, unpack_of_nan ieee he hf]

theorem fClassBit_of_zero (hm : x / 2 ^ g.fb % 2 ^ g.eb ≠ 2 ^ g.eb - 1) (h0 : x / 2 ^ g.fb % 2 ^ g.eb = 0) (hf : x % 2 ^ g.fb = 0) :
    fClassBit g x = if x / g.sign % 2 = 1 then 3 else 4 := by
  simp [fClassBit, unpack_of_exponent_zero ieee hm h0, hf]

theorem fClassBit_of_subnormal (hm : x / 2 ^ g.fb % 2 ^ g.eb ≠ 2 ^ g.eb - 1) (h0 : x / 2 ^ g.fb % 2 ^ g.eb = 0) (hf : x % 2 ^ g.fb ≠ 0) :
    fClassBit g x = if x / g.sign % 2 = 1 then 2 else 5 := by
  have hlt : x % 2 ^ g.fb < 2 ^ g.fb := Nat.mod_lt _ (Nat.two_pow_pos _)
  simp [fClassBit, unpack_of_exponent_zero ieee hm h0, hf, hlt]

theorem fClassBit_of_normal (hm : x / 2 ^ g.fb % 2 ^ g.eb ≠ 2 ^ g.eb - 1) (h0 : x / 2 ^ g.fb % 2 ^ g.eb ≠ 0) :
    fClassBit g x = if x / g.sign % 2 = 1 then 1 else 6 := by
  have hge : ¬x % 2 ^ g.fb + 2 ^ g.fb < 2 ^ g.fb := Nat.not_lt.2 (Nat.le_add_left _ _)
  simp [fClassBit, unpack_of_normal ieee hm h0, hge]

end

/-- A register as the number that FP32 is read from: its low half (R97). -/
theorem f32Of_eq (v : Word) : f32Of v = v.toNat % 2 ^ 32 := by
  simp [f32Of, bits]

/-- FCLASS writes the bit of its operand's class and raises no flag: the context it leaves is the one that any scalar instruction leaves. -/
theorem fclass_yields {s : State} {w : Who} {c : Ctx} {d a : Reg} (h : Issues s w c) (hu : Usable s w c [a, d]) :
    Yields (.fclass d a) s w c d (BitVec.ofNat 64 (2 ^ fClassBit fp32 ((s.reg w c a.toNat).toNat % 2 ^ 32))) := by
  rw [← f32Of_eq]
  exact scalar_writes h (srcs := [a]) hu 8 (fun x => BitVec.ofNat 64 (2 ^ fClassBit fp32 (f32Of (x a)))) _ rfl

/-- Settles O54: the kinds of value are told apart by exponent and fraction, and in each the sign, or a NaN's quiet bit, picks one of two classes. -/
theorem floatClasses : Obligations.FloatClasses := by
  unfold Obligations.FloatClasses
  intro s w c d a x n e f h hu hx hn he hf
  refine ⟨fClassBit fp32 x, hx ▸ fclass_yields h hu, ?_⟩
  have n_lt : n < 2 := by omega
  have e_lt : e < 256 := by omega
  have sign : x / fp32.sign % 2 = n := hn ▸ Nat.mod_eq_of_lt n_lt
  have exponent : x / 2 ^ fp32.fb % 2 ^ fp32.eb = e := he.symm
  have fraction : x % 2 ^ fp32.fb = f := hf.symm
  clear hx hn he hf
  by_cases hmax : e = 255
  · by_cases hf0 : f = 0
    · rw [fClassBit_of_infinity rfl (exponent.trans hmax) (fraction.trans hf0), sign]
      split <;> omega
    · rw [fClassBit_of_nan rfl (exponent.trans hmax) (fraction ▸ hf0), fraction, show 2 ^ (fp32.fb - 1) = 2 ^ 22 from rfl]
      split <;> omega
  · have not_max : x / 2 ^ fp32.fb % 2 ^ fp32.eb ≠ 2 ^ fp32.eb - 1 := fun h => hmax (exponent.symm.trans h)
    by_cases he0 : e = 0
    · by_cases hf0 : f = 0
      · rw [fClassBit_of_zero rfl not_max (exponent.trans he0) (fraction.trans hf0), sign]
        split <;> omega
      · rw [fClassBit_of_subnormal rfl not_max (exponent.trans he0) (fraction ▸ hf0), sign]
        split <;> omega
    · rw [fClassBit_of_normal rfl not_max (exponent ▸ he0), sign]
      split <;> omega

end Sys2Proof.Machine
end
